-- ==== Sys2Proof/Word.lean ====
section
/-!
DEFINITION. The word types and the shape of sparse data.
-/

namespace Sys2Proof

/-- A scalar register, a state register, a handle value (R51, R69). -/
abbrev Word := BitVec 64

/-- The smallest addressable unit (R4). -/
abbrev Byte := BitVec 8

/-- Sparse data by key, in one canonical form: keys strictly rising, and no entry equal to what an unlisted key reads
as. The form is kept by `Table.set` (Machine/Table.lean). -/
abbrev Table (α : Type) := List (Nat × α)

/-- Bytes by address. -/
abbrev Memory := List Host.Cell

end Sys2Proof
end

