-- ==== Sys2Proof/Config.lean ====
section
/-!
DEFINITION. The free values of the model and what a part fixes for itself.

An `opaque` constant has no body, so no proof can learn a value of it and a statement about the machine holds for
every value. Free values are drawn with the state's counter `seq`, or depend on the operands where the spec says that
the same operands give the same result again. notes/assumptions names each.
-/

namespace Sys2Proof.Config

/-- Which of several results the device may produce (R10) it produces: drawn afresh for each choice, and read modulo
the number of results. -/
opaque choice : Nat → Nat

/-- How many cycles of the arithmetic clock a step takes (log 7). -/
opaque elapsed : Nat → Nat

/-- A word whose value the spec does not state where it has the machine write one: drawn afresh for each. -/
opaque freeWord : Nat → BitVec 64

/-- A draw of the device's entropy source (R290). -/
opaque entropy : Nat → BitVec 256

/-- An opaque byte of a frame: by the frame's number and the byte's offset (R289, log 8). -/
opaque frameByte : Nat → Nat → Byte

/-- Whether a faithful result is the neighbour above the exact value (R233): by the function's code, the source's bits
and the tags of VA and VD, so that repeated evaluation returns the same bits. -/
opaque faithfulUp : Nat → Nat → BitVec 8 → BitVec 8 → Bool

/-- The 256-bit device secret in the fuses (R364). -/
opaque deviceSecret : BitVec 256

/-- SERIAL (R358). -/
opaque serial : BitVec 64

/-- The fused key slots of kind-0 images, the key hash of each slot that is not revoked (R360). -/
opaque fusedKey : Nat → Option (List Byte)

/-- The value that MCFG is extended with (R363), which the spec gives no encoding: MINSVN, whether each fused key slot is
revoked, and the STACKS of every partition. -/
opaque measured : BitVec 32 → List Bool → List (BitVec 16) → List Byte

/-- The package's device number on the fabric (R339). -/
opaque deviceNumber : BitVec 13

/-- What a unit the spec gives no reset value reads as, for the bytes of memory (log 3). -/
def blankByte : Byte := 0

end Sys2Proof.Config
end

