-- ==== Sys2Proof/Syntax.lean ====
section
/-!
DEFINITION. The syntax of the machine's steps: one constructor for each row of spec/opcode_table.json.

The 233 rows that have a word are Ontar's instructions (R123, R141): `c` is the convoy-start bit CV (R14),
the other arguments are the row's fields, named by the letters the table gives them, each as wide as its bits (R124, R132).
The 62 rows without a word are the operations and events of the part ("What each step holds"); their arguments are
what their rule needs to be told: `k` a context of the package (384 times the partition plus 16 times the cluster plus HCTX),
`p` a partition, `cl` a cluster of the package, `port` a tier or Dzigar port, `r`, `m` and `f` the host record, host message
and fabric flit as they arrive, bit 0 being bit 0 of byte 0. A flit does not carry everything its receiver knows of the
transfer it belongs to: a data flit's other arguments say whether it answers a read of this device, whether a flag follows
the transfer, the ASID and handle value of the object it goes to, the transfer's bytes, and its placement, linear from an
offset or as a stream parameter block lays it out; a flag flit's name the flag.
-/

namespace Sys2Proof

/-- One step of the machine, by its row of the opcode table. -/
inductive Instr where
  /-- ECALL (R165). -/
  | ecall (c : Bool)
  /-- EBREAK (R165). -/
  | ebreak (c : Bool)
  /-- URET (R166). -/
  | uret (c : Bool)
  /-- SRET (R167). -/
  | sret (c : Bool)
  /-- FENCE_SV (R164). -/
  | fenceSv (c : Bool) (s : BitVec 3)
  /-- FENCE_VS (R164). -/
  | fenceVs (c : Bool) (s : BitVec 3)
  /-- FENCE_VV (R164). -/
  | fenceVv (c : Bool) (s : BitVec 3)
  /-- FENCE_ALL (R164). -/
  | fenceAll (c : Bool) (s : BitVec 3)
  /-- RDSR (R162). -/
  | rdsr (c : Bool) (d : BitVec 6) (r : BitVec 8)
  /-- WRSR (R162). -/
  | wrsr (c : Bool) (a : BitVec 6) (r : BitVec 8)
  /-- SETSR (R162). -/
  | setsr (c : Bool) (d a : BitVec 6) (r : BitVec 8)
  /-- CLRSR (R162). -/
  | clrsr (c : Bool) (d a : BitVec 6) (r : BitVec 8)
  /-- TLBINV (R168). -/
  | tlbinv (c : Bool) (d a : BitVec 6) (k : BitVec 2)
  /-- HTINV (R169). -/
  | htinv (c : Bool) (d a : BitVec 6) (k : BitVec 1)
  /-- VFSAVE (R170). -/
  | vfsave (c : Bool) (a : BitVec 6) (h : BitVec 4)
  /-- VFRESTORE (R170). -/
  | vfrestore (c : Bool) (a : BitVec 6) (h : BitVec 4)
  /-- WFI (R171). -/
  | wfi (c : Bool)
  /-- ADD (R143). -/
  | add (c : Bool) (d a b : BitVec 6)
  /-- SUB (R143). -/
  | sub (c : Bool) (d a b : BitVec 6)
  /-- AND (R143). -/
  | and (c : Bool) (d a b : BitVec 6)
  /-- OR (R143). -/
  | or (c : Bool) (d a b : BitVec 6)
  /-- XOR (R143). -/
  | xor (c : Bool) (d a b : BitVec 6)
  /-- SLL (R143). -/
  | sll (c : Bool) (d a b : BitVec 6)
  /-- SRL (R143). -/
  | srl (c : Bool) (d a b : BitVec 6)
  /-- SRA (R143). -/
  | sra (c : Bool) (d a b : BitVec 6)
  /-- SLT (R143). -/
  | slt (c : Bool) (d a b : BitVec 6)
  /-- SLTU (R143). -/
  | sltu (c : Bool) (d a b : BitVec 6)
  /-- MIN (R143). -/
  | min (c : Bool) (d a b : BitVec 6)
  /-- MAX (R143). -/
  | max (c : Bool) (d a b : BitVec 6)
  /-- MINU (R143). -/
  | minu (c : Bool) (d a b : BitVec 6)
  /-- MAXU (R143). -/
  | maxu (c : Bool) (d a b : BitVec 6)
  /-- MUL (R143). -/
  | mul (c : Bool) (d a b : BitVec 6)
  /-- MULH (R143). -/
  | mulh (c : Bool) (d a b : BitVec 6)
  /-- MULHU (R143). -/
  | mulhu (c : Bool) (d a b : BitVec 6)
  /-- DIV (R144). -/
  | div (c : Bool) (d a b : BitVec 6)
  /-- DIVU (R144). -/
  | divu (c : Bool) (d a b : BitVec 6)
  /-- REM (R144). -/
  | rem (c : Bool) (d a b : BitVec 6)
  /-- REMU (R144). -/
  | remu (c : Bool) (d a b : BitVec 6)
  /-- CLZ (R143). -/
  | clz (c : Bool) (d a : BitVec 6)
  /-- CTZ (R143). -/
  | ctz (c : Bool) (d a : BitVec 6)
  /-- POPC (R143). -/
  | popc (c : Bool) (d a : BitVec 6)
  /-- SEXT (R143). -/
  | sext (c : Bool) (d a : BitVec 6) (w : BitVec 2)
  /-- ZEXT (R143). -/
  | zext (c : Bool) (d a : BitVec 6) (w : BitVec 2)
  /-- ADDI (R145). -/
  | addi (c : Bool) (d a : BitVec 6) (i : BitVec 13)
  /-- ANDI (R145). -/
  | andi (c : Bool) (d a : BitVec 6) (i : BitVec 13)
  /-- ORI (R145). -/
  | ori (c : Bool) (d a : BitVec 6) (i : BitVec 13)
  /-- XORI (R145). -/
  | xori (c : Bool) (d a : BitVec 6) (i : BitVec 13)
  /-- SLTI (R145). -/
  | slti (c : Bool) (d a : BitVec 6) (i : BitVec 13)
  /-- SLLI (R146). -/
  | slli (c : Bool) (d a n : BitVec 6)
  /-- SRLI (R146). -/
  | srli (c : Bool) (d a n : BitVec 6)
  /-- SRAI (R146). -/
  | srai (c : Bool) (d a n : BitVec 6)
  /-- LDHI (R147). -/
  | ldhi (c : Bool) (d : BitVec 6) (i : BitVec 19)
  /-- ADDPC (R147). -/
  | addpc (c : Bool) (d : BitVec 6) (i : BitVec 19)
  /-- SFADD_F32 (R149). -/
  | sfaddF32 (c : Bool) (d a b : BitVec 6)
  /-- SFADD_F64 (R149). -/
  | sfaddF64 (c : Bool) (d a b : BitVec 6)
  /-- SFSUB_F32 (R149). -/
  | sfsubF32 (c : Bool) (d a b : BitVec 6)
  /-- SFSUB_F64 (R149). -/
  | sfsubF64 (c : Bool) (d a b : BitVec 6)
  /-- SFMUL_F32 (R149). -/
  | sfmulF32 (c : Bool) (d a b : BitVec 6)
  /-- SFMUL_F64 (R149). -/
  | sfmulF64 (c : Bool) (d a b : BitVec 6)
  /-- SFDIV_F32 (R149). -/
  | sfdivF32 (c : Bool) (d a b : BitVec 6)
  /-- SFDIV_F64 (R149). -/
  | sfdivF64 (c : Bool) (d a b : BitVec 6)
  /-- SFMA_F32 (R149). -/
  | sfmaF32 (c : Bool) (d a b : BitVec 6)
  /-- SFMA_F64 (R149). -/
  | sfmaF64 (c : Bool) (d a b : BitVec 6)
  /-- SFSQRT_F32 (R149). -/
  | sfsqrtF32 (c : Bool) (d a : BitVec 6)
  /-- SFSQRT_F64 (R149). -/
  | sfsqrtF64 (c : Bool) (d a : BitVec 6)
  /-- SFMIN_F32 (R149). -/
  | sfminF32 (c : Bool) (d a b : BitVec 6)
  /-- SFMIN_F64 (R149). -/
  | sfminF64 (c : Bool) (d a b : BitVec 6)
  /-- SFMAX_F32 (R149). -/
  | sfmaxF32 (c : Bool) (d a b : BitVec 6)
  /-- SFMAX_F64 (R149). -/
  | sfmaxF64 (c : Bool) (d a b : BitVec 6)
  /-- SFCMP_F32 (R149). -/
  | sfcmpF32 (c : Bool) (d a b : BitVec 6) (o : BitVec 2)
  /-- SFCMP_F64 (R149). -/
  | sfcmpF64 (c : Bool) (d a b : BitVec 6) (o : BitVec 2)
  /-- SFCVT_F32 (R149). -/
  | sfcvtF32 (c : Bool) (d a : BitVec 6) (o : BitVec 2)
  /-- SFCVT_F64 (R149). -/
  | sfcvtF64 (c : Bool) (d a : BitVec 6) (o : BitVec 2)
  /-- SFMV_F32 (R149). -/
  | sfmvF32 (c : Bool) (d a : BitVec 6)
  /-- SFMV_F64 (R149). -/
  | sfmvF64 (c : Bool) (d a : BitVec 6)
  /-- SLD (R150). -/
  | sld (c : Bool) (d : BitVec 6) (h : BitVec 4) (a : BitVec 6) (w : BitVec 3) (i : BitVec 6)
  /-- SST (R150). -/
  | sst (c : Bool) (d : BitVec 6) (h : BitVec 4) (a : BitVec 6) (w : BitVec 3) (i : BitVec 6)
  /-- SAMO_ADD (R151). -/
  | samoAdd (c : Bool) (d : BitVec 6) (h : BitVec 4) (i : BitVec 6) (w q r : BitVec 1) (s : BitVec 3)
  /-- SAMO_ADDSAT (R151). -/
  | samoAddsat (c : Bool) (d : BitVec 6) (h : BitVec 4) (i : BitVec 6) (w q r : BitVec 1) (s : BitVec 3)
  /-- SAMO_MIN (R151). -/
  | samoMin (c : Bool) (d : BitVec 6) (h : BitVec 4) (i : BitVec 6) (w q r : BitVec 1) (s : BitVec 3)
  /-- SAMO_MAX (R151). -/
  | samoMax (c : Bool) (d : BitVec 6) (h : BitVec 4) (i : BitVec 6) (w q r : BitVec 1) (s : BitVec 3)
  /-- SAMO_AND (R151). -/
  | samoAnd (c : Bool) (d : BitVec 6) (h : BitVec 4) (i : BitVec 6) (w q r : BitVec 1) (s : BitVec 3)
  /-- SAMO_OR (R151). -/
  | samoOr (c : Bool) (d : BitVec 6) (h : BitVec 4) (i : BitVec 6) (w q r : BitVec 1) (s : BitVec 3)
  /-- SAMO_XOR (R151). -/
  | samoXor (c : Bool) (d : BitVec 6) (h : BitVec 4) (i : BitVec 6) (w q r : BitVec 1) (s : BitVec 3)
  /-- SAMO_SWAP (R151). -/
  | samoSwap (c : Bool) (d : BitVec 6) (h : BitVec 4) (i : BitVec 6) (w q r : BitVec 1) (s : BitVec 3)
  /-- BEQ (R152). -/
  | beq (c : Bool) (a b : BitVec 6) (o : BitVec 10)
  /-- BNE (R152). -/
  | bne (c : Bool) (a b : BitVec 6) (o : BitVec 10)
  /-- BLT (R152). -/
  | blt (c : Bool) (a b : BitVec 6) (o : BitVec 10)
  /-- BGE (R152). -/
  | bge (c : Bool) (a b : BitVec 6) (o : BitVec 10)
  /-- BLTU (R152). -/
  | bltu (c : Bool) (a b : BitVec 6) (o : BitVec 10)
  /-- BGEU (R152). -/
  | bgeu (c : Bool) (a b : BitVec 6) (o : BitVec 10)
  /-- JAL (R153). -/
  | jal (c : Bool) (d : BitVec 6) (i : BitVec 19)
  /-- JALR (R153). -/
  | jalr (c : Bool) (d a : BitVec 6) (i : BitVec 13)
  /-- SUBBNZ (R12). -/
  | subbnz (c : Bool) (a b : BitVec 6) (o : BitVec 10)
  /-- VCFG (R15). -/
  | vcfg (c : Bool) (n : BitVec 2) (t : BitVec 8)
  /-- VTAG (R44). -/
  | vtag (c : Bool) (d : BitVec 6) (t : BitVec 8)
  /-- VSETVL (R29). -/
  | vsetvl (c : Bool) (d a b : BitVec 6)
  /-- VSETVLG (R27). -/
  | vsetvlg (c : Bool) (d a b : BitVec 6)
  /-- PART (R19). -/
  | part (c : Bool) (n : BitVec 4)
  /-- CBLD (R155). -/
  | cbld (c : Bool) (d a k : BitVec 6) (h : BitVec 4)
  /-- HSPAWN (R23). -/
  | hspawn (c : Bool) (d a : BitVec 6) (o : BitVec 10)
  /-- HEXIT (R24). -/
  | hexit (c : Bool)
  /-- HWAIT (R24). -/
  | hwait (c : Bool) (a : BitVec 6)
  /-- YIELD (R24). -/
  | yield (c : Bool)
  /-- GANG (R25). -/
  | gang (c : Bool) (a : BitVec 6)
  /-- GBAR (R26). -/
  | gbar (c : Bool)
  /-- LSPOP (R157). -/
  | lspop (c : Bool) (d a : BitVec 6)
  /-- LSPUSH (R158). -/
  | lspush (c : Bool) (a : BitVec 6)
  /-- VADD (R176). -/
  | vadd (c : Bool) (d a b : BitVec 6) (e : BitVec 3) (m : BitVec 2)
  /-- VSUB (R176). -/
  | vsub (c : Bool) (d a b : BitVec 6) (e : BitVec 3) (m : BitVec 2)
  /-- VMUL (R176). -/
  | vmul (c : Bool) (d a b : BitVec 6) (e : BitVec 3) (m : BitVec 2)
  /-- VMULH (R176). -/
  | vmulh (c : Bool) (d a b : BitVec 6) (e : BitVec 3) (m : BitVec 2)
  /-- VFMA (R176). -/
  | vfma (c : Bool) (d a b : BitVec 6) (e : BitVec 3) (m : BitVec 2)
  /-- VFMS (R176). -/
  | vfms (c : Bool) (d a b : BitVec 6) (e : BitVec 3) (m : BitVec 2)
  /-- VDIV (R176). -/
  | vdiv (c : Bool) (d a b : BitVec 6) (e : BitVec 3) (m : BitVec 2)
  /-- VREM (R176). -/
  | vrem (c : Bool) (d a b : BitVec 6) (e : BitVec 3) (m : BitVec 2)
  /-- VMIN (R176). -/
  | vmin (c : Bool) (d a b : BitVec 6) (e : BitVec 3) (m : BitVec 2)
  /-- VMAX (R176). -/
  | vmax (c : Bool) (d a b : BitVec 6) (e : BitVec 3) (m : BitVec 2)
  /-- VAND (R176). -/
  | vand (c : Bool) (d a b : BitVec 6) (e : BitVec 3) (m : BitVec 2)
  /-- VOR (R176). -/
  | vor (c : Bool) (d a b : BitVec 6) (e : BitVec 3) (m : BitVec 2)
  /-- VXOR (R176). -/
  | vxor (c : Bool) (d a b : BitVec 6) (e : BitVec 3) (m : BitVec 2)
  /-- VSHL (R176). -/
  | vshl (c : Bool) (d a b : BitVec 6) (e : BitVec 3) (m : BitVec 2)
  /-- VSHR_L (R177). -/
  | vshrL (c : Bool) (d a b : BitVec 6) (e : BitVec 3) (m : BitVec 2)
  /-- VSHR_A (R177). -/
  | vshrA (c : Bool) (d a b : BitVec 6) (e : BitVec 3) (m : BitVec 2)
  /-- VSHR_AR (R177). -/
  | vshrAr (c : Bool) (d a b : BitVec 6) (e : BitVec 3) (m : BitVec 2)
  /-- VCMP (R178). -/
  | vcmp (c : Bool) (o d : BitVec 3) (a b : BitVec 6) (e : BitVec 3) (m : BitVec 2)
  /-- VSEL (R179). -/
  | vsel (c : Bool) (d a b : BitVec 6) (e : BitVec 3) (m : BitVec 2)
  /-- VABS (R180). -/
  | vabs (c : Bool) (d a : BitVec 6) (m : BitVec 2)
  /-- VNEG (R180). -/
  | vneg (c : Bool) (d a : BitVec 6) (m : BitVec 2)
  /-- VNOT (R180). -/
  | vnot (c : Bool) (d a : BitVec 6) (m : BitVec 2)
  /-- VSQRT (R180). -/
  | vsqrt (c : Bool) (d a : BitVec 6) (m : BitVec 2)
  /-- VCLZ (R180). -/
  | vclz (c : Bool) (d a : BitVec 6) (m : BitVec 2)
  /-- VPOPC (R180). -/
  | vpopc (c : Bool) (d a : BitVec 6) (m : BitVec 2)
  /-- VMV (R180). -/
  | vmv (c : Bool) (d a : BitVec 6) (m : BitVec 2)
  /-- VIOTA (R180). -/
  | viota (c : Bool) (d : BitVec 6) (m : BitVec 2)
  /-- VCVT (R180). -/
  | vcvt (c : Bool) (d a : BitVec 6) (m : BitVec 2)
  /-- VRSCALE (R181). -/
  | vrscale (c : Bool) (d a : BitVec 6) (m : BitVec 2)
  /-- VBC (R182). -/
  | vbc (c : Bool) (d a : BitVec 6) (m : BitVec 2)
  /-- VADDS (R176). -/
  | vadds (c : Bool) (d a b : BitVec 6) (e : BitVec 3) (m : BitVec 2)
  /-- VABSD (R176). -/
  | vabsd (c : Bool) (d a b : BitVec 6) (e : BitVec 3) (m : BitVec 2)
  /-- VAVG (R176). -/
  | vavg (c : Bool) (d a b : BitVec 6) (e : BitVec 3) (m : BitVec 2)
  /-- VSLIDE_UP (R186). -/
  | vslideUp (c : Bool) (d a b : BitVec 6) (e : BitVec 3) (m : BitVec 2)
  /-- VSLIDE_DN (R186). -/
  | vslideDn (c : Bool) (d a b : BitVec 6) (e : BitVec 3) (m : BitVec 2)
  /-- VMSK_AND (R184). -/
  | vmskAnd (c : Bool) (d a b : BitVec 3)
  /-- VMSK_OR (R184). -/
  | vmskOr (c : Bool) (d a b : BitVec 3)
  /-- VMSK_XOR (R184). -/
  | vmskXor (c : Bool) (d a b : BitVec 3)
  /-- VMSK_ANDN (R184). -/
  | vmskAndn (c : Bool) (d a b : BitVec 3)
  /-- VMSK_NOT (R184). -/
  | vmskNot (c : Bool) (d a : BitVec 3)
  /-- VMSK_COUNT (R184): bits 5:3 of `a` are the mask that VA names, bits 2:0 the one that VB names, which it does not read. -/
  | vmskCount (c : Bool) (d a : BitVec 6)
  /-- VMSK_FIRST (R184): bits 5:3 of `a` are the mask that VA names, bits 2:0 the one that VB names, which it does not read. -/
  | vmskFirst (c : Bool) (d a : BitVec 6)
  /-- VADDK (R183). -/
  | vaddk (c : Bool) (d : BitVec 6) (p : BitVec 2) (a : BitVec 6) (q : BitVec 2) (b : BitVec 6)
  /-- VSUBK (R183). -/
  | vsubk (c : Bool) (d : BitVec 6) (p : BitVec 2) (a : BitVec 6) (q : BitVec 2) (b : BitVec 6)
  /-- VMULK (R183). -/
  | vmulk (c : Bool) (d : BitVec 6) (p : BitVec 2) (a : BitVec 6) (q : BitVec 2) (b : BitVec 6)
  /-- VFMAK (R183). -/
  | vfmak (c : Bool) (d : BitVec 6) (p : BitVec 2) (a : BitVec 6) (q : BitVec 2) (b : BitVec 6)
  /-- VMINK (R183). -/
  | vmink (c : Bool) (d : BitVec 6) (p : BitVec 2) (a : BitVec 6) (q : BitVec 2) (b : BitVec 6)
  /-- VMAXK (R183). -/
  | vmaxk (c : Bool) (d : BitVec 6) (p : BitVec 2) (a : BitVec 6) (q : BitVec 2) (b : BitVec 6)
  /-- VSELK (R183). -/
  | vselk (c : Bool) (d : BitVec 6) (p : BitVec 2) (a : BitVec 6) (q : BitVec 2) (b : BitVec 6)
  /-- VCMPK (R183). -/
  | vcmpk (c : Bool) (o d : BitVec 3) (p : BitVec 2) (a : BitVec 6) (q : BitVec 2) (b : BitVec 6)
  /-- SPUSH (R188). -/
  | spush (c : Bool) (d a b : BitVec 6)
  /-- SPOP (R189). -/
  | spop (c : Bool) (d a b : BitVec 6)
  /-- SDEPTH (R190). -/
  | sdepth (c : Bool) (d a : BitVec 6)
  /-- SGETL (R190). -/
  | sgetl (c : Bool) (d a b : BitVec 6) (e : BitVec 3)
  /-- VFLAT (R190). -/
  | vflat (c : Bool) (d a : BitVec 6) (e : BitVec 3)
  /-- SOPEN (R190). -/
  | sopen (c : Bool) (d a b : BitVec 6)
  /-- VRED_ADD (R191). -/
  | vredAdd (c : Bool) (d a b : BitVec 6) (e : BitVec 3) (m : BitVec 2)
  /-- VRED_MUL (R191). -/
  | vredMul (c : Bool) (d a b : BitVec 6) (e : BitVec 3) (m : BitVec 2)
  /-- VRED_MIN (R191). -/
  | vredMin (c : Bool) (d a b : BitVec 6) (e : BitVec 3) (m : BitVec 2)
  /-- VRED_MAX (R191). -/
  | vredMax (c : Bool) (d a b : BitVec 6) (e : BitVec 3) (m : BitVec 2)
  /-- VREDB_AND (R191). -/
  | vredbAnd (c : Bool) (d a b : BitVec 6) (e : BitVec 3) (m : BitVec 2)
  /-- VREDB_OR (R191). -/
  | vredbOr (c : Bool) (d a b : BitVec 6) (e : BitVec 3) (m : BitVec 2)
  /-- VREDB_XOR (R191). -/
  | vredbXor (c : Bool) (d a b : BitVec 6) (e : BitVec 3) (m : BitVec 2)
  /-- VIDXMAX (R192). -/
  | vidxmax (c : Bool) (d a b : BitVec 6) (e : BitVec 3) (m : BitVec 2)
  /-- VSCAN_ADD_INC (R193). -/
  | vscanAddInc (c : Bool) (d a b : BitVec 6) (e : BitVec 3) (m : BitVec 2)
  /-- VSCAN_ADD_EXC (R193). -/
  | vscanAddExc (c : Bool) (d a b : BitVec 6) (e : BitVec 3) (m : BitVec 2)
  /-- VSCAN_MAX_INC (R193). -/
  | vscanMaxInc (c : Bool) (d a b : BitVec 6) (e : BitVec 3) (m : BitVec 2)
  /-- VSCAN_MAX_EXC (R193). -/
  | vscanMaxExc (c : Bool) (d a b : BitVec 6) (e : BitVec 3) (m : BitVec 2)
  /-- VPACK (R194). -/
  | vpack (c : Bool) (d a : BitVec 6) (m : BitVec 2)
  /-- VDIST (R195). -/
  | vdist (c : Bool) (d a b : BitVec 6) (e : BitVec 3) (m : BitVec 2)
  /-- VSPLIT_MASK (R196). -/
  | vsplitMask (c : Bool) (d a : BitVec 6) (m : BitVec 2)
  /-- VSPLIT_THREE (R196). -/
  | vsplitThree (c : Bool) (d a : BitVec 6)
  /-- VGATHERR (R187). -/
  | vgatherr (c : Bool) (d a b : BitVec 6) (e : BitVec 3) (m : BitVec 2)
  /-- VPUSHL (R187). -/
  | vpushl (c : Bool) (d a b : BitVec 6) (e : BitVec 3) (m : BitVec 2)
  /-- VPERMB (R187). -/
  | vpermb (c : Bool) (d a b : BitVec 6) (m : BitVec 2)
  /-- VREV (R187). -/
  | vrev (c : Bool) (d a : BitVec 6) (e : BitVec 3) (m : BitVec 2)
  /-- VMERGEK (R197). -/
  | vmergek (c : Bool) (d a b : BitVec 6) (e : BitVec 3) (m : BitVec 2)
  /-- VCONFL (R198). -/
  | vconfl (c : Bool) (d a : BitVec 6) (g : BitVec 3) (m : BitVec 2)
  /-- MMAC (R228). -/
  | mmac (c : Bool) (d a b : BitVec 6) (e : BitVec 3) (m : BitVec 2)
  /-- VPMUL (R231). -/
  | vpmul (c : Bool) (d a b : BitVec 6) (e : BitVec 3) (m : BitVec 2)
  /-- VEXP (R234). -/
  | vexp (c : Bool) (d a : BitVec 6) (v : BitVec 1)
  /-- VLN (R233). -/
  | vln (c : Bool) (d a : BitVec 6)
  /-- VRCP (R233). -/
  | vrcp (c : Bool) (d a : BitVec 6)
  /-- VRSQ (R233). -/
  | vrsq (c : Bool) (d a : BitVec 6)
  /-- VSIN (R237). -/
  | vsin (c : Bool) (d a : BitVec 6)
  /-- VCOS (R237). -/
  | vcos (c : Bool) (d a : BitVec 6)
  /-- VTANH (R233). -/
  | vtanh (c : Bool) (d a : BitVec 6)
  /-- VSIGM (R233). -/
  | vsigm (c : Bool) (d a : BitVec 6)
  /-- VRAND (R238). -/
  | vrand (c : Bool) (d a : BitVec 6)
  /-- VLD (R201). -/
  | vld (c : Bool) (d : BitVec 6) (h : BitVec 4) (a x : BitVec 6) (o : BitVec 3)
  /-- VST (R201). -/
  | vst (c : Bool) (d : BitVec 6) (h : BitVec 4) (a x : BitVec 6) (o : BitVec 3)
  /-- VAMO_ADD (R205). -/
  | vamoAdd (c : Bool) (d : BitVec 6) (h : BitVec 4) (i : BitVec 6) (o q r : BitVec 1) (s : BitVec 3)
  /-- VAMO_ADDSAT (R205). -/
  | vamoAddsat (c : Bool) (d : BitVec 6) (h : BitVec 4) (i : BitVec 6) (o q r : BitVec 1) (s : BitVec 3)
  /-- VAMO_MIN (R205). -/
  | vamoMin (c : Bool) (d : BitVec 6) (h : BitVec 4) (i : BitVec 6) (o q r : BitVec 1) (s : BitVec 3)
  /-- VAMO_MAX (R205). -/
  | vamoMax (c : Bool) (d : BitVec 6) (h : BitVec 4) (i : BitVec 6) (o q r : BitVec 1) (s : BitVec 3)
  /-- VAMO_AND (R205). -/
  | vamoAnd (c : Bool) (d : BitVec 6) (h : BitVec 4) (i : BitVec 6) (o q r : BitVec 1) (s : BitVec 3)
  /-- VAMO_OR (R205). -/
  | vamoOr (c : Bool) (d : BitVec 6) (h : BitVec 4) (i : BitVec 6) (o q r : BitVec 1) (s : BitVec 3)
  /-- VAMO_XOR (R205). -/
  | vamoXor (c : Bool) (d : BitVec 6) (h : BitVec 4) (i : BitVec 6) (o q r : BitVec 1) (s : BitVec 3)
  /-- VAMO_SWAP (R205). -/
  | vamoSwap (c : Bool) (d : BitVec 6) (h : BitVec 4) (i : BitVec 6) (o q r : BitVec 1) (s : BitVec 3)
  /-- VCAS (R206). -/
  | vcas (c : Bool) (d : BitVec 6) (h : BitVec 4) (i : BitVec 6) (q r : BitVec 1) (s : BitVec 3)
  /-- VWAIT (R207). -/
  | vwait (c : Bool) (d : BitVec 6) (h : BitVec 4) (i : BitVec 6) (o s : BitVec 3)
  /-- HNEW (R210). -/
  | hnew (c : Bool) (d a : BitVec 6) (h : BitVec 4)
  /-- HBIND (R211). -/
  | hbind (c : Bool) (a : BitVec 6) (h : BitVec 4)
  /-- HUP (R79). -/
  | hup (c : Bool) (d : BitVec 6) (h : BitVec 4)
  /-- HDOWN (R79). -/
  | hdown (c : Bool) (h : BitVec 4)
  /-- HWEAK (R211). -/
  | hweak (c : Bool) (d : BitVec 6) (h : BitVec 4)
  /-- HREL (R70). -/
  | hrel (c : Bool) (h : BitVec 4)
  /-- HCHK (R77). -/
  | hchk (c : Bool) (d : BitVec 6) (h : BitVec 4)
  /-- HINFO (R212). -/
  | hinfo (c : Bool) (d a : BitVec 6) (h : BitVec 4)
  /-- BALLOC (R213). -/
  | balloc (c : Bool) (d a : BitVec 6)
  /-- BFREE (R213). -/
  | bfree (c : Bool) (a b : BitVec 6)
  /-- BFORK (R214). -/
  | bfork (c : Bool) (d : BitVec 6) (h g : BitVec 4)
  /-- BCOW (R215). -/
  | bcow (c : Bool) (d a : BitVec 6) (h : BitVec 4)
  /-- BMAP (R213). -/
  | bmap (c : Bool) (h : BitVec 4) (a b : BitVec 6)
  /-- BTLEN (R213). -/
  | btlen (c : Bool) (d a : BitVec 6) (h : BitVec 4)
  /-- BREL (R213). -/
  | brel (c : Bool) (h : BitVec 4)
  /-- EXBIND (R216). -/
  | exbind (c : Bool) (d a : BitVec 6) (m : BitVec 2) (h : BitVec 4)
  /-- EXPOLL (R217). -/
  | expoll (c : Bool) (d a : BitVec 6) (m : BitVec 2) (h : BitVec 4)
  /-- EXREL (R218). -/
  | exrel (c : Bool) (h : BitVec 4)
  /-- EXPIN (R219). -/
  | expin (c : Bool) (d a b : BitVec 6)
  /-- EXSTAT (R219). -/
  | exstat (c : Bool) (d a b : BitVec 6)
  /-- XCOPY (R222). -/
  | xcopy (c : Bool) (h g : BitVec 4) (d a : BitVec 6) (v : BitVec 3)
  /-- XPUSH (R223). -/
  | xpush (c : Bool) (h g : BitVec 4) (d a : BitVec 6) (v : BitVec 3)
  /-- XFILL (R224). -/
  | xfill (c : Bool) (h : BitVec 4) (d a : BitVec 6)
  /-- VPREF (R225). -/
  | vpref (c : Bool) (g : BitVec 4) (a : BitVec 6) (v : BitVec 3)
  /-- IMAGE_KEEP_CLEAR (R11). -/
  | imageKeepClear (p : BitVec 3)
  /-- STANDBY_SWITCH (R298). -/
  | standbySwitch (cl : BitVec 8)
  /-- QUANTUM_EXPIRY (R298). -/
  | quantumExpiry (k : BitVec 12)
  /-- VSETVLG_WAKE (R27). -/
  | vsetvlgWake (k : BitVec 12)
  /-- VSETVLG_TIMEOUT (R27). -/
  | vsetvlgTimeout (k : BitVec 12)
  /-- VWAIT_WAKE (R42). -/
  | vwaitWake (k : BitVec 12)
  /-- HWAIT_WAKE (R24). -/
  | hwaitWake (k : BitVec 12)
  /-- WFI_WAKE (R171). -/
  | wfiWake (k : BitVec 12)
  /-- INTERRUPT_TAKEN (R282). -/
  | interruptTaken (k : BitVec 12)
  /-- USER_TRAP (R318). -/
  | userTrap (vec : Bool) (code : BitVec 8) (val : BitVec 64)
  /-- TRAP_TO_SUPERVISOR (R283). -/
  | trapToSupervisor (int : Bool) (code : BitVec 8) (val : BitVec 64)
  /-- MACHINE_CHECK (R369). -/
  | machineCheck (k : BitVec 12) (source : BitVec 8) (addr : BitVec 56) (elem : BitVec 64)
  /-- PREEMPT_TO_SAVED (R299). -/
  | preemptToSaved (k : BitVec 12)
  /-- PARTCFG_RESUME (R299). -/
  | partcfgResume (k : BitVec 12)
  /-- END_SAVED (R299). -/
  | endSaved (k : BitVec 12)
  /-- POWER_WINDOW (R294). -/
  | powerWindow (p : BitVec 3) (watts : BitVec 32)
  /-- LANE_CLOCK_GATE (R297). -/
  | laneClockGate (cl : BitVec 8) (g : BitVec 3)
  /-- LANE_POWER_GATE (R297). -/
  | lanePowerGate (cl : BitVec 8) (g : BitVec 3)
  /-- HEAP_INSERT (R303). -/
  | heapInsert (p : BitVec 3) (size : Nat) (off : BitVec 12) (r : BitVec 512)
  /-- HEAP_CANCEL (R307). -/
  | heapCancel (p : BitVec 3) (r : BitVec 512)
  /-- HEAP_RETIRE (R307). -/
  | heapRetire (p : BitVec 3) (r : BitVec 512)
  /-- REQUEST_ELIGIBLE (R305). -/
  | requestEligible (p : BitVec 3) (index : BitVec 16)
  /-- HOST_MESSAGE (R336). -/
  | hostMessage (p : BitVec 3) (m : BitVec 128)
  /-- PAGE_IN_ALLOCATE (R327). -/
  | pageInAllocate (port : BitVec 3)
  /-- PAGE_IN_LAND (R327). -/
  | pageInLand (port : BitVec 3)
  /-- TIER_READ_FAIL (R328). -/
  | tierReadFail (port : BitVec 3)
  /-- RECLAIM_DESTROY (R325). -/
  | reclaimDestroy (p : BitVec 3) (pool : BitVec 6)
  /-- ENGINE_TRANSFER_COMPLETE (R220). -/
  | engineTransferComplete (k : BitVec 12) (tag : BitVec 32)
  /-- DATA_FLIT (R340). -/
  | dataFlit (port : BitVec 7) (f : BitVec 2048) (reply flagged : Bool) (asid : BitVec 14) (h : BitVec 64) (total : Nat)
    (stream : Bool) (off : BitVec 64) (spb : BitVec 256)
  /-- FLAG_FLIT (R120). -/
  | flagFlit (port : BitVec 7) (f : BitVec 2048) (asid : BitVec 14) (h : BitVec 64) (off : BitVec 64)
  /-- ACK_FLIT (R340). -/
  | ackFlit (port : BitVec 7) (f : BitVec 2048)
  /-- NAK_FLIT (R340). -/
  | nakFlit (port : BitVec 7) (f : BitVec 2048)
  /-- PERMIT_GRANT_FLIT (R344). -/
  | permitGrantFlit (port : BitVec 7) (f : BitVec 2048)
  /-- PERMIT_RETURN_FLIT (R344). -/
  | permitReturnFlit (port : BitVec 7) (f : BitVec 2048)
  /-- REFUSAL_FLIT (R343). -/
  | refusalFlit (port : BitVec 7) (f : BitVec 2048)
  /-- RESET_FLIT (R346). -/
  | resetFlit (port : BitVec 7) (f : BitVec 2048)
  /-- PERMIT_WINDOW (R344). -/
  | permitWindow (p : BitVec 3)
  /-- PORT_DOWN (R340). -/
  | portDown (port : BitVec 7)
  /-- PEER_UNREACHABLE (R341). -/
  | peerUnreachable (p : BitVec 3) (slot : BitVec 8)
  /-- HOST_MEM_ACCESS (R334). -/
  | hostMemAccess (fn : BitVec 5) (write : Bool) (addr : BitVec 56) (data : List (BitVec 8))
  /-- HOST_TIER_ACCESS (R338). -/
  | hostTierAccess (fn : BitVec 5) (write : Bool) (addr : BitVec 64) (data : List (BitVec 8))
  /-- ACCESS_TABLE_WRITE (R351). -/
  | accessTableWrite (off : BitVec 32) (wide : Bool) (w0 w1 : BitVec 64)
  /-- HOST_REGISTER_WRITE (R352). -/
  | hostRegisterWrite (fn : BitVec 5) (off : BitVec 32) (size : Nat) (val : BitVec 256)
  /-- QUIESCE (R353). -/
  | quiesce (p : BitVec 3)
  /-- PARTITION_RESUME (R353). -/
  | partitionResume (p : BitVec 3)
  /-- PARTITION_RESET (R353). -/
  | partitionReset (p : BitVec 3)
  /-- PARTITION_LOAD (R362). -/
  | partitionLoad (p : BitVec 3)
  /-- REPAIR_LANE (R354). -/
  | repairLane (p : BitVec 3) (cl lane : BitVec 5)
  /-- REPAIR_CLUSTER (R354). -/
  | repairCluster (p : BitVec 3) (cl : BitVec 5)
  /-- POWER_OFF (R353). -/
  | powerOff (p : BitVec 3)
  /-- LOAD_IMAGE (R360). -/
  | loadImage
  /-- COMMIT_SECURITY_VERSION (R361). -/
  | commitSecurityVersion
  /-- ATTEST (R365). -/
  | attest
  /-- RAIL_RAISE (R355). -/
  | railRaise (rail : BitVec 4)
  /-- PERST_RELEASE (R356). -/
  | perstRelease
  /-- RAIL_OUT_OF_RANGE (R356). -/
  | railOutOfRange (rail : BitVec 4)
  /-- DRAM_SCRUB (R367). -/
  | dramScrub (stack : BitVec 4)
  /-- LLC_SCRUB (R367). -/
  | llcScrub (stack : BitVec 4)
  /-- THERMAL_THROTTLE (R374). -/
  | thermalThrottle (p : BitVec 3)
  /-- THERMAL_RECOVER (R374). -/
  | thermalRecover (p : BitVec 3)
  /-- THERMTRIP (R374). -/
  | thermtrip
  /-- RAIL_REMOVE (R355). -/
  | railRemove (rail : BitVec 4)
  deriving DecidableEq, Repr

end Sys2Proof
end

