-- ==== Sys2Proof/Machine/State.lean ====
section
/-!
DEFINITION. The state of the machine: one package of eight partitions, each of 24 clusters of 16 hart contexts, with
the engines, the heap, the host's registers and the fabric's state, all as plain data.

`h` holds the registers of one context, `cur`, the one whose instruction runs next; the other contexts stand in
`harts` under their numbers. A context that is not listed is as reset leaves it. INVENTORY.md lists every field with
its rule.
-/

namespace Sys2Proof.Machine

/-- Why the machine stops. Every cause the spec names is a trap, which is taken as a next state; the one fault is the
model's own. -/
inductive Fault where
  /-- Raised by `exec` for an instruction word when the context `cur` is not active and runnable: no hart is there to
  run it, and `step` never does this. Safe: the spec has no such step. -/
  | noHart
  deriving DecidableEq, Repr

/-- Why an instruction has no meaning here. -/
inductive Refusal where
  /-- Raised by `exec` for a row of the opcode table that the model gives no meaning yet. Safe: nothing is claimed of it. -/
  | notModelled (mnemonic : String)
  deriving DecidableEq, Repr

/-- A vector register: its bits as one number, bit 0 of byte 0 lowest (R45, R46), its tag (R43), its lengths vectors,
level 1 first (R35), and the two open bits (R38). -/
structure VReg where
  bits : Nat
  tag : BitVec 8
  levels : List (List Nat)
  headOpen : Bool
  tailOpen : Bool
  deriving DecidableEq, Repr

/-- The four registers that name the tables of an address space (R285). -/
structure Space where
  asid : BitVec 14
  ptroot : Word
  htbase : Word
  ertbase : Word
  deriving DecidableEq, Repr

/-- A bound handle slot (R70): its kind, whether it has a hold (a stale weak bind has none, R78), whether it is gone for
good (R76), the GEN and INDEX of its value (R69), the address space in force when it was bound (R287), and the expert it
records (R218). -/
structure Binding where
  weak : Bool
  hold : Bool
  gone : Bool
  gen : BitVec 16
  index : BitVec 24
  space : Space
  expert : Option Nat
  deriving DecidableEq, Repr

/-- Where a byte lies: physical memory (R333), or a cluster's scratchpad (R94). `reg` names an element of a register of
a context, for the errors of R368 only: file 0 the scalars, 1 the vectors, 2 the masks. -/
inductive Loc where
  | phys (a : Nat)
  | scratch (cl : Nat) (a : Nat)
  | reg (k file r e : Nat)
  deriving DecidableEq, Repr

/-- The comparisons of VCMP, VCMPK and VWAIT (R137). -/
inductive Cond where
  | eq | ne | lt | le | gt | ge | nz
  deriving DecidableEq, Repr

/-- One element of a parked VWAIT: the bytes it watches, the comparison and its captured value, and whether it has been
satisfied (R42, R207, R208). -/
structure Watch where
  locs : List Loc
  cond : Cond
  signed : Bool
  value : Nat
  met : Bool
  deriving DecidableEq, Repr

/-- What a parked hart waits for (R22, R24, R26, R27, R171, R207). -/
inductive Park where
  | hwait (hid : BitVec 20)
  | vwait (elems : List Watch)
  | gbar
  | wfi
  | grant (sd : BitVec 6) (rows cols : Nat) (since : Nat)
  deriving DecidableEq, Repr

/-- Where a context stands (R22); a free context holds no hart. -/
inductive Life where
  | free | active | standby | saved
  deriving DecidableEq, Repr

/-- A run of bytes as overlap is judged on it (R111, R112): the space it lies in, 0 the virtual addresses of an ASID, 1
the bank offsets of a cluster, 2 the offsets of the object of a handle entry, with the number of that space; its first
byte and the one after its last; and whether it is written. -/
structure Span where
  space : Nat × Nat
  lo : Int
  hi : Int
  writes : Bool
  deriving DecidableEq, Repr

/-- An engine transfer over the fabric that is not complete (R220 to R223, R344): its tag, whether it sends or reads, the
slot that names the remote object, the peer and the handle value there; the bytes from `start` to below `total` that it
moves, as the bytes it sends or the places it fills; how many it has sent up to, or received; the first byte and length of
each flit received; the chunks that hold a permit; its arrival flag at the peer, and whether the flag's flit has gone; the
reason of a refusal, with the slot that it names; the slot, peer and handle value to which a read's bytes go on, where both ends are remote; what its
local end is for the judging of overlap; the slot of a read's destination with the offsets of its bytes there, and
whether it was stopped, so that its places are to be found again; the bytes that have come for 8-byte pieces whose
others have not (R108); and how many flits it has sent, which spreads them over its ports (R341). -/
structure Xfer where
  tag : BitVec 32
  push : Bool
  slot : BitVec 4
  peer : BitVec 16
  peerh : Word
  start : Nat
  total : Nat
  payload : List Byte
  dest : List (Loc × Nat)
  moved : Nat
  got : List (Nat × Nat)
  permits : List Nat
  flag : Option (Word × Nat)
  flagSent : Bool
  refused : Option (Nat × BitVec 4)
  relay : Option (BitVec 4 × BitVec 16 × Word)
  spans : List Span
  ends : Option (BitVec 4 × List Int)
  stale : Bool
  held : List (Nat × Byte)
  sent : Nat
  deriving DecidableEq, Repr

/-- What a vector instruction stopped by a translation fault keeps for its restart (R203, R220, R221): the stream
parameter blocks it read when it issued, the source bytes it has staged, by number, with the place of the staging in the
table arena, and the tag of a push that has moved some of its bytes already (R120). A staged byte whose source held an
uncorrectable error is none (R368). -/
structure Restart where
  blocks : List (List Byte)
  staged : List (Nat × Option Byte)
  stage : Option Nat
  tag : Option (BitVec 32)
  deriving DecidableEq, Repr

/-- What an instruction takes when it issues (R58, R127, R163): the scalars and the constant bank, VTYPE's modes, FCSR's
rounding mode and EXSPLIT. -/
structure Modes where
  s : Table Word
  c : Table Word
  vtype : Word
  fcsr : Word
  exsplit : BitVec 5
  deriving DecidableEq, Repr

/-- A vector instruction that the front end has dispatched and the vector agent has not run (R34, R288): its word and
address, what it took, and the ranges of its interlock entry (R111). -/
structure Queued where
  word : BitVec 32
  pc : Word
  modes : Modes
  spans : List Span
  deriving DecidableEq, Repr

/-- The scalar side while a queued instruction runs: the instruction, the queue behind it, the pc and what the next
instruction to issue would take. -/
structure Front where
  self : Queued
  rest : List Queued
  pc : Word
  modes : Modes
  deriving DecidableEq, Repr

/-- A store that is not yet performed (R103): its places, its bytes and the element they are of, its range, and whether it
is the vector agent's. -/
structure Pending where
  runs : List (Loc × Nat)
  bytes : List Byte
  elem : Nat
  span : Span
  vec : Bool
  deriving DecidableEq, Repr

/-- A context's region of the standby save area while it holds the context's lane state (R298): its place, its size and
the number its opaque bytes are drawn with. -/
structure Area where
  base : Nat
  size : Nat
  serial : Nat
  deriving DecidableEq, Repr

/-- One hart context: the registers of R11, R21, R159, R160 and R285, its slots, its vector state, and what the cluster
keeps for it. A pending machine check says whether it was met at supervisor level (R369), and
which slice of an engine met it, if one did (R371). `groups` lists the lane groups
that its grant holds (R296). `queue` holds the vector instructions dispatched and not run (R34), `ahead` whether the front
end takes the next one before the queue is empty, `stores` the stores not yet performed (R103). -/
structure Hart where
  life : Life
  park : Option Park
  slot : Nat
  sup : Bool
  hgen : BitVec 16
  gang : BitVec 3
  pc : Word
  s : Table Word
  c : Table Word
  v : Table VReg
  m : Table Nat
  slots : Table (Option Binding)
  vtype : Word
  vlr : Nat
  vlc : Nat
  estart : Nat
  resuming : Bool
  restart : Restart
  fcsr : Word
  exsplit : BitVec 5
  gone : Bool
  utvec : Word
  uframe : Word
  ucause : Word
  uval : Word
  stvec : Word
  sframe : Word
  scause : Word
  sval : Word
  space : Space
  lg : Nat
  granted : Bool
  groups : List Nat
  convoy : List Nat
  key : BitVec 256
  intr : List (Nat × Word)
  checks : List (Bool × BitVec 8 × BitVec 56 × Word × Option Nat)
  savePending : Bool
  frameFault : Option Word
  xfers : List Xfer
  since : Nat
  queue : List Queued
  ahead : Bool
  front : Option Front
  stores : List Pending
  area : Option Area
  deriving DecidableEq, Repr

/-- The lane state that frames of kinds 0, 2 and 3 carry (R288). -/
structure Lanes where
  v : Table VReg
  m : Table Nat
  vtype : Word
  vlr : Nat
  vlc : Nat
  fcsr : Word
  exsplit : BitVec 5
  lg : Nat
  granted : Bool
  deriving DecidableEq, Repr

/-- What the device sealed into a frame (R288 to R290): the number its opaque bytes are drawn with, the bytes of its
SEAL, the key it was sealed under, and what it restores. `live` says that the transfers it carries are stopped in it: no
restore has taken them up yet (R166, R345). -/
structure Frame where
  serial : Nat
  sealed : List Byte
  key : BitVec 256
  kind : Nat
  pw : BitVec 2
  pc : Word
  estart : Nat
  resuming : Bool
  restart : Restart
  scr : List Word
  lanes : Lanes
  park : Option Park
  xfers : List Xfer
  queue : List Queued
  live : Bool
  deriving DecidableEq, Repr

/-- A gang barrier register GB, field by field, and Lfix (R25, R27). -/
structure Gang where
  gcol : BitVec 21
  grow : BitVec 21
  gfix : Bool
  phase : BitVec 11
  arrived : Nat
  members : Nat
  lfix : Nat
  deriving DecidableEq, Repr

/-- One record of the cluster's expert wait queue (R88, R329); `ready` is the cycle at which its page-in landed. -/
structure Token where
  hart : Nat
  space : Space
  expert : Nat
  elem : Nat
  ready : Option Nat
  deriving DecidableEq, Repr

/-- The power gating of a lane group (R297). -/
inductive Gate where
  | on | clockGated | powerGated
  deriving DecidableEq, Repr

/-- One cluster (R17, R18, R20, R25, R88, R94, R298, R354); `copying` lists the logical lanes under repair, each with the
cycle at which its group can be granted again, `parting` the context whose PART waits for the cluster to drain, with its
pc (R19). -/
structure Cluster where
  pw : BitVec 2
  gangs : Table Gang
  ready : List Nat
  tokens : List Token
  scratch : Memory
  spares : Nat
  remapped : List Nat
  onSpare : Bool
  copying : List (Nat × Nat)
  gates : Table Gate
  parting : Option (Nat × Word)
  deriving DecidableEq, Repr

/-- A request of the Lodestar heap (R302 to R307). `flag` is its flag object, the flag's offset in it, and THRESH; `table` the object of its entry; `order` its place in the order of insertion; `state` the
STATE of R304; `met` says that its flag has taken a value at or above THRESH. -/
structure Request where
  index : BitVec 16
  deadline : Word
  cost : BitVec 32
  asid : BitVec 14
  space : Space
  flag : Option (Binding × Nat × Word)
  table : Binding
  tableh : Word
  order : Nat
  state : Nat
  cancel : Bool
  passes : Nat
  met : Bool
  deriving DecidableEq, Repr

/-- A translation cache (R315): a bank of a cluster's gather TLB, a context's unit-stride register, the L2 TLB of a die
and its walk cache. -/
inductive TlbUnit where
  | gather (cl bank : Nat)
  | stride (k : Nat)
  | l2
  | walk
  deriving BEq, ReflBEq, LawfulBEq, DecidableEq, Repr

/-- A page-table entry that a translation cache holds (R315): the cache, the ASID it is tagged with, the level it was read
at, the virtual address above that level's index, index included, its place and its words as the walk found them. -/
structure TlbEntry where
  path : Nat
  level : Nat
  unit : TlbUnit
  asid : BitVec 14
  pte : Nat
  word0 : Nat
  word1 : Nat
  deriving BEq, ReflBEq, LawfulBEq, DecidableEq, Repr

/-- The software-written words of a handle entry, or of an entry of the expert table, as a cache holds them (R169, R322,
R326). -/
structure HandleCopy where
  ert : Bool
  asid : BitVec 14
  index : BitVec 24
  addr : Nat
  words : List Nat
  deriving DecidableEq, Repr

/-- A page-in: queued, or allocated with its blocks and handle entry (R327). -/
structure PageIn where
  part : Nat
  space : Space
  expert : Nat
  alloc : Option (Nat × Nat × List Nat)
  retried : Bool
  deriving DecidableEq, Repr

/-- What a partition knows of one peer: W as the peer last granted it (R344), the EPOCH of its flits and the old ones
(R346), and whether it is unreachable (R341). -/
structure Peer where
  window : Nat
  epoch : Option (BitVec 4)
  old : List (BitVec 4)
  unreachable : Bool
  deriving DecidableEq, Repr

/-- A transfer a partition is receiving: its sender, the tag, and the first byte and length of each flit performed
(R121, R340, R343); whether it is refused or discarded, and whether its flag has been incremented; the bytes that have
come for 8-byte pieces whose others have not (R108), by their numbers in the transfer; and a flag flit that came before the last byte: the length it
names, its ASID, handle value and offset. -/
structure Receive where
  src : BitVec 16
  tag : BitVec 32
  done : List (Nat × Nat)
  refused : Bool
  complete : Bool
  held : List (Nat × Byte)
  flag : Option (Nat × BitVec 14 × Word × Word)
  deriving DecidableEq, Repr

/-- A record of a partition's error log (R371). -/
structure LogRecord where
  time : Nat
  source : BitVec 8
  kind : BitVec 8
  master : BitVec 16
  hid : BitVec 32
  value : Word
  extra : Word
  deriving DecidableEq, Repr

/-- One partition: the registers of R285, the heap, the host's counters, the engines' records, the descriptor of R352
and the rest that a partition has once. `known` lists the tables last in force for each ASID, `corrected` counts the errors that R366
corrects. `quiescing` and `repairing` say which command of R353 is not done yet; a cluster
repair keeps the cluster and the contexts that were Saved before it. -/
structure Part where
  pcap : Word
  tierrate : Word
  lsbudget : Word
  partcfg : Word
  duty : Nat
  hot : Bool
  requests : List Request
  inserted : Nat
  accepted : Word
  rejected : Word
  lastrej : Word
  msglost : Word
  tlb : List TlbEntry
  handles : List HandleCopy
  balloc : Table (Option (BitVec 14))
  arena : List (Nat × Nat)
  reclaiming : List Nat
  hbmStacks : BitVec 16
  asidlo : BitVec 14
  asidhi : BitVec 14
  tports : BitVec 8
  pools : Word
  arenaBase : Word
  arenaSize : Word
  save : Word
  peersBase : Word
  cmd : Word
  result : Word
  state : Nat
  quiescing : Bool
  repairing : Option (Nat × List Nat)
  epoch : BitVec 4
  mpart : List Byte
  logHead : Nat
  log : List LogRecord
  peers : Table Peer
  receives : List Receive
  image : List (Space × BitVec 24)
  resetAt : Nat
  grantAt : Nat
  known : List Space
  corrected : Nat
  deriving DecidableEq, Repr

/-- An entry of an access table (R349). -/
structure Access where
  v : Bool
  r : Bool
  w : Bool
  a : Bool
  lo : Nat
  hi : Nat
  word0 : Word
  word1 : Word
  deriving DecidableEq, Repr

/-- A Dzigar port (R339, R340): the flits it replays until they are acknowledged, oldest first, those that wait for room
among them, and what it has put on its link, newest first. -/
structure Port where
  up : Bool
  downAt : Nat
  seqOut : BitVec 12
  lastIn : BitVec 12
  replay : List (BitVec 2048)
  waiting : List (BitVec 2048)
  link : List (BitVec 2048)
  failed : Nat
  deriving DecidableEq, Repr

/-- The rails of R355, whether the package is in service, the boot mailbox of R358, the measurement registers of R363,
the access tables, the THERMTRIP_N output (R374), the fabric's ports and the tier ports' page-in queues. -/
structure Package where
  rails : Table Bool
  retention : Table Bool
  perst : Bool
  clocks : Bool
  thermtrip : Bool
  bootstat : Nat
  imgaddr : Word
  imgsize : Word
  attaddr : Word
  attmask : Word
  nonce : List Byte
  ownerkeys : Table (List Byte)
  minsvn : BitVec 32
  raises : Nat
  svn : BitVec 32
  mfw : List Byte
  mcfg : List Byte
  acl : Table Access
  hdm : Table (Nat × Nat × Nat)
  ports : Table Port
  pageq : Table (List PageIn)
  frames : List Frame
  nextTag : Nat
  msi : Nat
  hostData : List Byte
  hostStatus : Nat
  deriving DecidableEq, Repr

/-- The machine. `mem` is the 56-bit physical address space (R333); `bad` lists the 8-byte words that hold an
uncorrectable error (R368), `caught` the SOURCE of those of memory whose error lies in a cache (R370). `inbox` holds what the outside world has done and the machine has not yet taken, `sched` the
contexts that take the next turns, `seq` the number of the next free value, `cycles` the arithmetic clock. -/
structure State where
  cur : Nat
  h : Hart
  harts : Table Hart
  clusters : Table Cluster
  parts : Table Part
  pkg : Package
  mem : Memory
  bad : List Loc
  caught : Table Nat
  inbox : List Instr
  sched : List Nat
  seq : Nat
  cycles : Nat
  deriving DecidableEq, Repr

/-- A vector register as a new hart has it (R11): zero, tag i64, depth 0, both open bits clear. -/
def VReg.reset : VReg := { bits := 0, tag := 0x66, levels := [], headOpen := false, tailOpen := false }

/-- The address-space registers at reset (R285), in a partition whose ASIDLO is given. -/
def Space.reset (asidlo : BitVec 14) : Space := { asid := asidlo, ptroot := 0, htbase := 0, ertbase := 0 }

/-- Nothing kept for a restart. -/
def Restart.none : Restart := { blocks := [], staged := [], stage := .none, tag := .none }

/-- A context as reset leaves it: free, every register at the reset value of R11, R21, R56, R160, R161, R285 and R318. -/
def Hart.reset : Hart :=
  { life := .free, park := none, slot := 0, sup := false, hgen := 0, gang := 0, pc := 0, s := [], c := [], v := [], m := [],
    slots := [], vtype := 0, vlr := 0, vlc := 0, estart := 0, resuming := false, restart := Restart.none, fcsr := 0, exsplit := 16, gone := false,
    utvec := 0, uframe := 0, ucause := 0, uval := 0, stvec := 0, sframe := 0, scause := 0, sval := 0,
    space := Space.reset 0, lg := 0, granted := false, groups := [], convoy := [], key := 0, intr := [], checks := [],
    savePending := false, frameFault := none, xfers := [], since := 0, queue := [], ahead := false, front := none,
    stores := [], area := none }

/-- A gang register at reset (R25). -/
def Gang.reset : Gang := { gcol := 0, grow := 0, gfix := false, phase := 0, arrived := 0, members := 0, lfix := 0 }

/-- A cluster at reset: one slot of 32 lanes (R21), two spare lanes (R3), nothing queued. -/
def Cluster.reset : Cluster :=
  { pw := 0, gangs := [], ready := [], tokens := [], scratch := [], spares := 2, remapped := [],
    onSpare := false, copying := [], gates := [], parting := none }

/-- A peer nothing has been heard of. -/
def Peer.reset : Peer := { window := 0, epoch := none, old := [], unreachable := false }

/-- A measurement register at package reset (R363). -/
def zeroes (n : Nat) : List Byte := List.replicate n 0

/-- A partition at package reset (R285, R352, R363): the descriptor reads 0, so STATE is off. PARTCFG's PART field is
the partition's number and is read with it. -/
def Part.reset : Part :=
  { pcap := 0x104E2, tierrate := 64, lsbudget := 0, partcfg := 0x40A000, duty := 16, hot := false, requests := [],
    inserted := 0, accepted := 0, rejected := 0, lastrej := 0, msglost := 0, tlb := [], handles := [], balloc := [],
    arena := [], reclaiming := [], hbmStacks := 0, asidlo := 0, asidhi := 0, tports := 0, pools := 0, arenaBase := 0,
    arenaSize := 0, save := 0, peersBase := 0, cmd := 0, result := 0, state := 0, quiescing := false, repairing := none, epoch := 0, mpart := zeroes 64,
    logHead := 0, log := [], peers := [], receives := [], image := [], resetAt := 0, grantAt := 0,
    known := [], corrected := 0 }

/-- An access-table entry at reset: V = 0 (R349). -/
def Access.reset : Access :=
  { v := false, r := false, w := false, a := false, lo := 0, hi := 0, word0 := 0, word1 := 0 }

/-- A Dzigar port before any flit. -/
def Port.reset : Port :=
  { up := true, downAt := 0, seqOut := 0, lastIn := 0, replay := [], waiting := [], link := [], failed := 0 }

/-- The package before power-on: state off (R357), PERST# asserted (R356), BOOTSTAT 0, measurements zero. -/
def Package.reset : Package :=
  { rails := [], retention := [], perst := true, clocks := true, thermtrip := false, bootstat := 0, imgaddr := 0, imgsize := 0,
    attaddr := 0, attmask := 0, nonce := zeroes 32, ownerkeys := [], minsvn := 0, raises := 0, svn := 0,
    mfw := zeroes 64, mcfg := zeroes 64, acl := [], hdm := [], ports := [], pageq := [], frames := [], nextTag := 0,
    msi := 0, hostData := [], hostStatus := 0 }

/-- The machine at package reset. No context holds a hart, and no memory has been written. -/
def State.reset : State :=
  { cur := 0, h := Hart.reset, harts := [], clusters := [], parts := [], pkg := Package.reset, mem := [], bad := [],
    caught := [], inbox := [], sched := [], seq := 0, cycles := 0 }

end Sys2Proof.Machine
end

