-- ==== Sys2Proof/Machine/Table.lean ====
section
/-!
DEFINITION. Sparse data: the operations of `Table`, which the register files, the banks of contexts and the memory use.

A table lists the keys whose value differs from its default `d`, in rising order. Reading does not rely on the order,
so what an operation leaves alone reads as before on every table, canonical or not.
-/

namespace Sys2Proof.Table

variable {α : Type}

/-- The value of a key: `d` where it is not listed. -/
def get (d : α) : Table α → Nat → α
  | [], _ => d
  | (k, v) :: t, i => if k = i then v else get d t i

/-- The table with a key's value listed, in its place. -/
def ins : Table α → Nat → α → Table α
  | [], i, v => [(i, v)]
  | (k, x) :: t, i, v =>
    if i < k then (i, v) :: (k, x) :: t else if i = k then (i, v) :: t else (k, x) :: ins t i v

/-- The table with a key's value changed; a value equal to the default is not listed. -/
def set [DecidableEq α] (d : α) (t : Table α) (i : Nat) (v : α) : Table α :=
  if v = d then t.filter (fun p => p.1 ≠ i) else ins t i v

/-- The listed entries of a run of values that begins at key `a`. -/
def run [DecidableEq α] (d : α) : Nat → List α → Table α
  | _, [] => []
  | a, v :: l => if v = d then run d (a + 1) l else (a, v) :: run d (a + 1) l

/-- The table with the values of the keys from `a` on replaced. -/
def putRun [DecidableEq α] (d : α) (t : Table α) (a : Nat) (l : List α) : Table α :=
  t.filter (fun p => p.1 < a) ++ (run d a l ++ t.filter (fun p => a + l.length ≤ p.1))

/-- The entries from key `lo` up to below `hi`: a cheaper table to read a part of. -/
def slice : Table α → Nat → Nat → Table α
  | [], _, _ => []
  | (k, v) :: t, lo, hi =>
    if k < lo then slice t lo hi else if k < hi then (k, v) :: slice t lo hi else slice t lo hi

/-- The values of `n` keys from `a` on. -/
def getRun (d : α) (t : Table α) (a n : Nat) : List α :=
  (List.range n).map fun i => get d (slice t a (a + n)) (a + i)

/-- The canonical form: keys strictly rising and no entry that holds the default. -/
def wf [DecidableEq α] (d : α) : Table α → Bool
  | [] => true
  | [(_, v)] => decide (v ≠ d)
  | (k, v) :: (k', v') :: t => decide (v ≠ d) && decide (k < k') && wf d ((k', v') :: t)

end Sys2Proof.Table

namespace Sys2Proof

/-- Memory in its canonical form: addresses strictly rising, and no byte listed that an unlisted address reads as. -/
def Memory.wf (m : Memory) : Bool := Table.wf Config.blankByte m

end Sys2Proof
end

