-- ==== Sys2Proof/Machine/Base.lean ====
section
/-!
DEFINITION. The accessors of the state: contexts, clusters, partitions, the scalar registers and the free values.
A context of the package has the number 384·partition + 16·cluster + HCTX, a cluster of the package 24·partition + cluster.
-/

namespace Sys2Proof.Machine

/-- What `exec` and every meaning answer. -/
abbrev Out := Host.Outcome State Fault Refusal

/-- Bits `lo + w - 1` down to `lo` of a number (R4). -/
def bits (n lo w : Nat) : Nat := n >>> lo % 2 ^ w

/-- A number with the bits `lo + w - 1` down to `lo` replaced. -/
def putBits (n lo w v : Nat) : Nat := n - bits n lo w * 2 ^ lo + v % 2 ^ w * 2 ^ lo

/-- Little-endian bytes as a number (R4). -/
def leNat : List Byte → Nat
  | [] => 0
  | b :: l => b.toNat + 256 * leNat l

/-- The low `n` bytes of a number, little-endian (R4). -/
def leBytes : Nat → Nat → List Byte
  | 0, _ => []
  | n + 1, x => BitVec.ofNat 8 x :: leBytes n (x / 256)

/-- A list without the repeats. -/
def dedup {α : Type} [DecidableEq α] : List α → List α
  | [] => []
  | a :: l => if a ∈ l then dedup l else a :: dedup l

/-- The keys of a table that hold a value that meets a test. -/
def keysWhere {α : Type} (t : Table α) (f : α → Bool) : List Nat := (t.filter fun p => f p.2).map (·.1)

/-- A register zeroed at depth 0 with its open bits clear; its tag stays (R19). -/
def VReg.blank (v : VReg) : VReg := { VReg.reset with tag := v.tag }

/-- The register file with every register zeroed and its tag kept (R19, R23, R377). -/
def blankAll (v : Table VReg) : Table VReg :=
  v.filterMap fun p => if p.2.blank = VReg.reset then none else some (p.1, p.2.blank)

/-- The lane groups of four of a slot, of those of a cluster under a width code (R18, R296). -/
def slotGroups (pw : BitVec 2) (slot : Nat) : List Nat :=
  let n := (32 >>> pw.toNat) / 4
  (List.range n).map (slot * n + ·)

/-- ESTART of a frame that stops a hart between instructions: that of the instruction it goes on with, 0 if none (R289). -/
def Hart.startOf (h : Hart) : Nat := if h.resuming then h.estart else 0

namespace State

/-- The partition of the current context. -/
def partNo (s : State) : Nat := s.cur / 384

/-- The cluster of the current context, numbered over the package. -/
def clNo (s : State) : Nat := s.cur / 16

/-- A context's registers. -/
def hart (s : State) (k : Nat) : Hart := if k = s.cur then s.h else s.harts.get Hart.reset k

/-- The state with a context's registers replaced. -/
def setHart (s : State) (k : Nat) (x : Hart) : State :=
  if k = s.cur then { s with h := x } else { s with harts := s.harts.set Hart.reset k x }

/-- The state with a context's registers changed. -/
def modHart (s : State) (k : Nat) (f : Hart → Hart) : State := s.setHart k (f (s.hart k))

/-- A cluster. -/
def clu (s : State) (k : Nat) : Cluster := s.clusters.get Cluster.reset k

/-- The state with a cluster changed. -/
def modClu (s : State) (k : Nat) (f : Cluster → Cluster) : State :=
  { s with clusters := s.clusters.set Cluster.reset k (f (s.clu k)) }

/-- A partition. -/
def part (s : State) (p : Nat) : Part := s.parts.get Part.reset p

/-- The state with a partition changed. -/
def modPart (s : State) (p : Nat) (f : Part → Part) : State :=
  { s with parts := s.parts.set Part.reset p (f (s.part p)) }

/-- The current context's registers changed. -/
def mod (s : State) (f : Hart → Hart) : State := { s with h := f s.h }

/-- A hart is there to issue: the current context is active and runnable (R22). -/
def runnable (s : State) : Bool := s.h.life == .active && s.h.park.isNone

/-- The contexts that hold a live hart (R20): the current one first, the others in rising order. -/
def liveCtxs (s : State) : List Nat :=
  (if s.h.life = .free then [] else [s.cur]) ++ (keysWhere s.harts fun x => x.life ≠ .free).filter (· ≠ s.cur)

/-- The contexts of a cluster, in rising HCTX. -/
def ctxsOf (cl : Nat) : List Nat := (List.range 16).map (16 * cl + ·)

/-- One of `n` results the device may produce (R10), and the state that has drawn it. -/
def pick (s : State) (n : Nat) : Nat × State :=
  if n ≤ 1 then (0, s) else (Config.choice s.seq % n, { s with seq := s.seq + 1 })

/-- A scalar register; s0 reads 0 (R11, R142). -/
def rd (s : State) (r : BitVec 6) : Word := if r = 0 then 0 else s.h.s.get 0 r.toNat

/-- A scalar register written; a write to s0 is discarded (R142). -/
def wr (s : State) (r : BitVec 6) (v : Word) : State :=
  if r = 0 then s else s.mod fun h => { h with s := h.s.set 0 r.toNat v }

/-- A scalar register written with a result that may be negative, modulo 2^64 (R142). -/
def wrInt (s : State) (r : BitVec 6) (v : Int) : State := s.wr r (BitVec.ofInt 64 v)

/-- The pc moved to an address. -/
def jump (s : State) (a : Word) : State := s.mod fun h => { h with pc := a }

/-- The pc moved past the instruction (R123). -/
def adv (s : State) : State := s.jump (s.h.pc + 4)

/-- The current convoy ended (R14): the next vector instruction starts one. -/
def endConvoy (s : State) : State := s.mod fun h => { h with convoy := [] }

/-- The convoy-start bit of an instruction (R14). On a scalar instruction it makes the next vector instruction start a
convoy, which is to end the current one now. -/
def noteCv (s : State) (c : Bool) : State := if c then s.endConvoy else s

/-- The user level of the current hart (R282). -/
def user (s : State) : Bool := !s.h.sup

/-- The partition width code PW of the current cluster (R18). -/
def pw (s : State) : BitVec 2 := (s.clu s.clNo).pw

/-- The lanes of a hart under a width code: 32 divided by the width (R18). -/
def lanesOf (pw : BitVec 2) : Nat := 32 >>> pw.toNat

/-- The lanes of the current hart. -/
def lanes (s : State) : Nat := lanesOf s.pw

/-- TIME of a partition in ns (R161): 1.7 cycles of the arithmetic clock to the ns (R6). -/
def time (s : State) (p : Nat) : Nat := (s.cycles - (s.part p).resetAt) * 10 / 17

/-- The current hart waits: nothing changes but the time, which `step` moves. -/
def wait (s : State) : Out := .next s

/-- A meaning runs on a hart that is active and runnable, with its convoy-start bit noted. -/
def onHart (s : State) (c : Bool) (f : State → Out) : Out :=
  if s.runnable then f (s.noteCv c) else .fault .noHart

/-- A scalar instruction that only writes registers and goes on to the next one. -/
def scalar (s : State) (c : Bool) (f : State → State) : Out := s.onHart c fun s => .next (f s).adv

end State

end Sys2Proof.Machine
end

