-- ==== Sys2Proof/Machine/Flags.lean ====
section
/-!
DEFINITION. FCSR (R56): the rounding modes (R57), the sticky flags, and how instructions raise them (R58).
-/

namespace Sys2Proof.Machine

/-- The sticky flags an instruction raises, as FCSR bits 7:0. -/
abbrev Flags := Nat

namespace Flags

/-- Inexact. -/
def nx : Flags := 1
/-- Underflow. -/
def uf : Flags := 2
/-- Overflow. -/
def of : Flags := 4
/-- Division of a finite nonzero value by zero. -/
def dz : Flags := 8
/-- Invalid operation. -/
def nv : Flags := 16
/-- An integer or counter saturated. -/
def sat : Flags := 32
/-- An argument of VSIN or VCOS beyond its range. -/
def range : Flags := 64
/-- A NaN key ranked in VMERGEK. -/
def gatenan : Flags := 128

/-- A flag if a condition holds. -/
def when_ (c : Bool) (f : Flags) : Flags := if c then f else 0

end Flags

/-- The rounding modes (R57). -/
inductive RM where
  | rne | rtz | rdn | rup | rna
  deriving DecidableEq, Repr

/-- The rounding mode that FCSR holds (R56). -/
def rmOf (fcsr : Word) : RM :=
  match bits fcsr.toNat 8 3 with
  | 0 => .rne | 1 => .rtz | 2 => .rdn | 3 => .rup | _ => .rna

/-- The rounding mode in force for the current hart (R58). -/
def State.rm (s : State) : RM := rmOf s.h.fcsr

/-- Flags raised: instructions only ever set them (R56). -/
def State.raiseFlags (s : State) (f : Flags) : State :=
  s.mod fun h => { h with fcsr := h.fcsr ||| BitVec.ofNat 64 (f % 256) }

/-- FCSR after a write of a value (R56, R162): RM ignores 5 to 7, the reserved bits stay 0. -/
def fcsrWrite (old new : Word) : Word :=
  let rm := if bits new.toNat 8 3 < 5 then new.extractLsb' 8 3 else old.extractLsb' 8 3
  0#53 ++ rm ++ new.extractLsb' 0 8

end Sys2Proof.Machine
end

