-- ==== Sys2Proof/Machine/Num.lean ====
section
/-!
DEFINITION. Numbers: element types (R43), the values that bits stand for (R45, R47, R50, R52), exact arithmetic on them
with the special values of R59 to R61, and rounding (R57).

A finite value is a sign, a natural number and a power of two, so sums and products are exact. A quotient or a square
root is not dyadic: it is carried to 260 bits with a last bit that is odd when it is inexact, which is finer than any
place a result is rounded at, so that every rounding of it is the rounding of the exact value.
-/

namespace Sys2Proof.Machine

/-- The IEEE formats of R50. -/
inductive Fmt where
  | f16 | bf16 | f32 | f64
  deriving DecidableEq, Repr

namespace Fmt

/-- Bits of the format. -/
def width : Fmt → Nat | f16 => 16 | bf16 => 16 | f32 => 32 | f64 => 64
/-- Fraction bits. -/
def frac : Fmt → Nat | f16 => 10 | bf16 => 7 | f32 => 23 | f64 => 52
/-- Exponent bits. -/
def expBits : Fmt → Nat | f16 => 5 | bf16 => 8 | f32 => 8 | f64 => 11
/-- The exponent bias. -/
def bias (f : Fmt) : Nat := 2 ^ (f.expBits - 1) - 1
/-- The exponent field of infinities and NaNs. -/
def expMax (f : Fmt) : Nat := 2 ^ f.expBits - 1
/-- The exponent of the least normal number. -/
def emin (f : Fmt) : Int := 1 - (f.bias : Int)
/-- The default quiet NaN (R50). -/
def qnan (f : Fmt) : Nat := f.expMax * 2 ^ f.frac + 2 ^ (f.frac - 1)
/-- The bits of an infinity. -/
def infBits (f : Fmt) (neg : Bool) : Nat := (if neg then 2 ^ (f.width - 1) else 0) + f.expMax * 2 ^ f.frac
/-- The bits of the greatest finite magnitude. -/
def maxBits (f : Fmt) (neg : Bool) : Nat := f.infBits neg - 1

end Fmt

/-- The element types of R43. -/
inductive Ty where
  | int (signed : Bool) (w : Nat) (sliced : Bool)
  | q (w : Nat)
  | p8
  | fp (f : Fmt)
  deriving DecidableEq, Repr

/-- The type a tag names; none is a reserved tag (R43). -/
def tyOf (t : BitVec 8) : Option Ty :=
  let w := bits t.toNat 0 5
  match bits t.toNat 5 3 with
  | 0 => if 1 ≤ w ∧ w ≤ 16 then some (.int true w true) else none
  | 1 => if 1 ≤ w ∧ w ≤ 16 then some (.int false w true) else none
  | 2 => if 1 ≤ w ∧ w ≤ 16 then some (.q w) else none
  | 3 => if w = 5 then some (.int true 32 false) else if w = 6 then some (.int true 64 false) else none
  | 4 => if w = 5 then some (.int false 32 false) else if w = 6 then some (.int false 64 false) else none
  | 5 => if w = 4 then some (.fp .f16) else if w = 5 then some (.fp .f32) else if w = 6 then some (.fp .f64)
         else if w = 0x14 then some (.fp .bf16) else none
  | 6 => if w = 3 then some .p8 else none
  | _ => none

namespace Ty

/-- Bits of an element. -/
def width : Ty → Nat
  | int _ w _ => w
  | q w => w
  | p8 => 8
  | fp f => f.width

/-- An integer type. -/
def isInt : Ty → Bool | int .. => true | _ => false
/-- A block-scaled type. -/
def isQ : Ty → Bool | q _ => true | _ => false
/-- A type of 32- or 64-bit integers. -/
def isWide : Ty → Bool | int _ _ sliced => !sliced | _ => false
/-- An IEEE type. -/
def isFp : Ty → Bool | fp _ => true | _ => false
/-- Signed integers. -/
def signed : Ty → Bool | int s _ _ => s | _ => false
/-- A type whose elements lie in blocks of 64 (R46, R47). -/
def blocked : Ty → Bool | int _ _ s => s | q _ => true | _ => false

end Ty

/-- A value: a NaN, quiet or signalling, an infinity, or (-1)^neg · m · 2^e. -/
inductive Num where
  | nan (sig : Bool)
  | inf (neg : Bool)
  | fin (neg : Bool) (m : Nat) (e : Int)
  deriving DecidableEq, Repr

/-- The kinds of R54. -/
inductive Kind where
  | integer | exact
  | float (p : Fmt)
  deriving DecidableEq, Repr

namespace Kind

/-- Float kind. -/
def isFloat : Kind → Bool | float _ => true | _ => false

/-- The kind of two sources of IEEE formats (R54). -/
def joinFmt : Fmt → Fmt → Fmt
  | .f64, _ => .f64
  | _, .f64 => .f64
  | .f32, _ => .f32
  | _, .f32 => .f32
  | .f16, .f16 => .f16
  | .bf16, .bf16 => .bf16
  | _, _ => .f32

/-- The kind two kinds select together: the table of R54. -/
def join : Kind → Kind → Kind
  | float p, float r => float (joinFmt p r)
  | float p, _ => float p
  | _, float r => float r
  | integer, integer => integer
  | _, _ => exact

end Kind

/-- The row of R54 that a type lies in; with itself it gives the diagonal. -/
def Ty.kind : Ty → Kind
  | int .. => .integer
  | q _ => .exact
  | p8 => .exact
  | fp f => .float f

/-- The kind of two sources (R54). -/
def kindOf (a b : Ty) : Kind := a.kind.join b.kind

namespace Num

/-- Zero. -/
def zero : Num := fin false 0 0

/-- An integer as a value. -/
def ofInt (v : Int) : Num := fin (decide (v < 0)) v.natAbs 0

/-- The integer a finite value with a nonnegative exponent is. -/
def toInt : Num → Int
  | fin neg m e => let v : Int := m * 2 ^ e.toNat; if neg then -v else v
  | _ => 0

/-- A NaN. -/
def isNan : Num → Bool | nan _ => true | _ => false
/-- A signalling NaN. -/
def isSnan : Num → Bool | nan s => s | _ => false
/-- A zero of either sign. -/
def isZero : Num → Bool | fin _ m _ => m == 0 | _ => false
/-- A negative value or negative zero. -/
def isNeg : Num → Bool | inf n => n | fin n _ _ => n | _ => false
/-- A finite value. -/
def isFin : Num → Bool | fin .. => true | _ => false

/-- The value with its sign turned. -/
def neg : Num → Num
  | nan s => nan s
  | inf n => inf !n
  | fin n m e => fin (!n) m e

/-- The magnitude. -/
def abs : Num → Num
  | nan s => nan s
  | inf _ => inf false
  | fin _ m e => fin false m e

/-- Zero without a sign, as integer and exact kinds have it (R60). -/
def unsign : Num → Num
  | fin _ 0 _ => zero
  | x => x

/-- The value times a power of two. -/
def scale (k : Int) : Num → Num
  | fin n m e => fin n m (e + k)
  | x => x

/-- NV of reading a value as a number (R59). -/
def readNv (x : Num) : Flags := Flags.when_ x.isSnan Flags.nv

/-- An integer over a power of two as a value. -/
def ofSigned (v : Int) (e : Int) : Num := fin (decide (v < 0)) v.natAbs e

/-- The sum of two values in a kind, and the flags of the operation (R59, R60). -/
def add (k : Kind) (rm : RM) (x y : Num) : Num × Flags :=
  match x, y with
  | nan _, _ => (nan false, 0)
  | _, nan _ => (nan false, 0)
  | inf a, inf b => if a = b then (inf a, 0) else (nan false, Flags.nv)
  | inf a, _ => (inf a, 0)
  | _, inf b => (inf b, 0)
  | fin a m e, fin b n f =>
    if m = 0 ∧ n = 0 then
      if k.isFloat then (fin (a && b || (rm = .rdn && (a || b))) 0 0, 0) else (zero, 0)
    else
      let g := if m = 0 then f else if n = 0 then e else min e f
      let u : Int := m * 2 ^ (e - g).toNat
      let v : Int := n * 2 ^ (f - g).toNat
      let t := (if a then -u else u) + (if b then -v else v)
      if t = 0 then (fin (k.isFloat && rm = .rdn) 0 0, 0) else (ofSigned t g, 0)

/-- The product of two values (R59). -/
def mul (x y : Num) : Num × Flags :=
  match x, y with
  | nan _, _ => (nan false, 0)
  | _, nan _ => (nan false, 0)
  | inf a, inf b => (inf (a != b), 0)
  | inf a, fin b n _ => if n = 0 then (nan false, Flags.nv) else (inf (a != b), 0)
  | fin a m _, inf b => if m = 0 then (nan false, Flags.nv) else (inf (a != b), 0)
  | fin a m e, fin b n f => (fin (a != b) (m * n) (e + f), 0)

/-- A quotient of naturals to 260 bits or more, with a last bit that marks what was cut off. -/
def divSticky (m n : Nat) (e : Int) (neg : Bool) : Num :=
  let sh := 260 + n.log2 - m.log2
  let u := m <<< sh
  fin neg (2 * (u / n) + (if u % n = 0 then 0 else 1)) (e - sh - 1)

/-- The quotient of two values (R59). -/
def div (x y : Num) : Num × Flags :=
  match x, y with
  | nan _, _ => (nan false, 0)
  | _, nan _ => (nan false, 0)
  | inf _, inf _ => (nan false, Flags.nv)
  | inf a, fin b _ _ => (inf (a != b), 0)
  | fin a _ _, inf b => (fin (a != b) 0 0, 0)
  | fin a m e, fin b n f =>
    if n = 0 then (if m = 0 then (nan false, Flags.nv) else (inf (a != b), Flags.dz))
    else if m = 0 then (fin (a != b) 0 0, 0)
    else (divSticky m n (e - f) (a != b), 0)

/-- The integer square root of a number below 4^k, bit by bit. -/
def isqrtAux (n : Nat) : Nat → Nat → Nat
  | 0, r => r
  | k + 1, r => let t := r + 2 ^ k; isqrtAux n k (if t * t ≤ n then t else r)

/-- The integer square root. -/
def isqrt (n : Nat) : Nat := isqrtAux n (n.log2 / 2 + 1) 0

/-- The square root of a positive number m · 2^e to 260 bits, with a last bit that marks what was cut off. -/
def sqrtSticky (m : Nat) (e : Int) : Num :=
  let odd := e % 2
  let m := if odd = 0 then m else 2 * m
  let e := if odd = 0 then e else e - 1
  let sh := 260 + (260 - min 260 (m.log2 / 2))
  let u := m <<< (2 * sh)
  let r := isqrt u
  fin false (2 * r + (if r * r = u then 0 else 1)) (e / 2 - sh - 1)

/-- The square root (R59, R60). -/
def sqrt (x : Num) : Num × Flags :=
  match x with
  | nan _ => (nan false, 0)
  | inf false => (inf false, 0)
  | inf true => (nan false, Flags.nv)
  | fin n 0 e => (fin n 0 e, 0)
  | fin true _ _ => (nan false, Flags.nv)
  | fin false m e => (sqrtSticky m e, 0)

/-- A strict order of values that are no NaN; zeros of either sign are equal. -/
def lt (x y : Num) : Bool :=
  match x, y with
  | nan _, _ => false
  | _, nan _ => false
  | inf a, inf b => a && !b
  | inf a, _ => a
  | _, inf b => !b
  | fin a m e, fin b n f =>
    let g := min e f
    let u : Int := m * 2 ^ (e - g).toNat
    let v : Int := n * 2 ^ (f - g).toNat
    decide ((if a then -u else u) < (if b then -v else v))

/-- Equality of values; a NaN equals nothing. -/
def eq (x y : Num) : Bool := !x.isNan && !y.isNan && !lt x y && !lt y x

/-- Equality or less; false with a NaN. -/
def le (x y : Num) : Bool := lt x y || eq x y

/-- The order of MIN and MAX: -0 below +0 (R61). -/
def below (x y : Num) : Bool := lt x y || (x.isZero && y.isZero && x.isNeg && !y.isNeg)

/-- The lesser of two values (R61); a NaN of exact kind is taken as one of float kind (log 62). -/
def min2 (x y : Num) : Num :=
  if x.isNan then (if y.isNan then nan false else y) else if y.isNan then x else if below y x then y else x

/-- The greater of two values (R61), with NaNs as for the lesser. -/
def max2 (x y : Num) : Num :=
  if x.isNan then (if y.isNan then nan false else y) else if y.isNan then x else if below x y then y else x

/-- A comparison and its flags (R61, R178): lt, le, gt and ge set NV on any NaN, in exact kind too
(log 62). -/
def compare (c : Cond) (x y : Num) : Bool × Flags :=
  let nan := x.isNan || y.isNan
  match c with
  | .eq => (eq x y, x.readNv ||| y.readNv)
  | .ne => (!eq x y, x.readNv ||| y.readNv)
  | .lt => (lt x y, Flags.when_ nan Flags.nv)
  | .le => (le x y, Flags.when_ nan Flags.nv)
  | .gt => (lt y x, Flags.when_ nan Flags.nv)
  | .ge => (le y x, Flags.when_ nan Flags.nv)
  | .nz => (!x.isZero, 0)

/-- The value m · 2^e as a multiple of 2^p, rounded, and whether it was inexact (R57). -/
def roundAt (rm : RM) (neg : Bool) (m : Nat) (e p : Int) : Nat × Bool :=
  if p ≤ e then (m <<< (e - p).toNat, false)
  else
    let sh := (p - e).toNat
    let k := m >>> sh
    let r := m - k <<< sh
    if r = 0 then (k, false)
    else
      let half := 2 ^ (sh - 1)
      let up := match rm with
        | .rne => half < r || (r == half && k % 2 == 1)
        | .rna => half ≤ r
        | .rtz => false
        | .rdn => neg
        | .rup => !neg
      (if up then k + 1 else k, true)

end Num

/-! ## The values bits stand for -/

/-- The value of IEEE bits (R50). -/
def fpValue (f : Fmt) (b : Nat) : Num :=
  let neg := bits b (f.width - 1) 1 = 1
  let e := bits b f.frac f.expBits
  let m := bits b 0 f.frac
  if e = f.expMax then (if m = 0 then .inf neg else .nan (bits m (f.frac - 1) 1 = 0))
  else if e = 0 then .fin neg m (f.emin - f.frac)
  else .fin neg (2 ^ f.frac + m) (e - f.bias - f.frac)

/-- The integer of some bits (R45, R46). -/
def intValue (signed : Bool) (w b : Nat) : Int :=
  if signed && bits b (w - 1) 1 = 1 then (b : Int) - 2 ^ w else b

/-- The value of p8 bits, and NV of the codes that read as zero (R52). -/
def p8Value (b : Nat) : Num × Flags :=
  let e := bits b 2 6
  if e = 63 then (.zero, Flags.when_ (bits b 0 2 ≠ 0) Flags.nv)
  else (.fin false (4 + bits b 0 2) (-(e : Int) - 2), 0)

/-- The value of bits of a type that is not block-scaled, and the flags of reading it (R52). A signalling NaN keeps its
mark; what reads it as a number raises NV (R59). -/
def tyValue (t : Ty) (b : Nat) : Num × Flags :=
  match t with
  | .int s w _ => (.ofInt (intValue s w b), 0)
  | .p8 => p8Value b
  | .fp f => (fpValue f b, 0)
  | .q w => (.ofInt (intValue true w b), 0)

end Sys2Proof.Machine
end

