-- ==== Sys2Proof/Machine/Fit.lean ====
section
/-!
DEFINITION. Fitting a value into a destination's type, the one rounding of R55, with the flags it raises.
-/

namespace Sys2Proof.Machine

/-- IEEE rounding of a value into a format, with OF, UF (tiny after rounding and inexact) and NX (R55, R57). -/
def fitFp (f : Fmt) (rm : RM) (x : Num) : Nat × Flags :=
  match x with
  | .nan _ => (f.qnan, 0)
  | .inf n => (f.infBits n, 0)
  | .fin n m e =>
    let sign := if n then 2 ^ (f.width - 1) else 0
    if m = 0 then (sign, 0)
    else
      let top : Int := e + m.log2
      let p := max top f.emin - f.frac
      let (k, inexact) := Num.roundAt rm n m e p
      let b := (p + f.frac + f.bias - 1).toNat * 2 ^ f.frac + k
      if f.expMax * 2 ^ f.frac ≤ b then
        let inf := match rm with
          | .rne => true | .rna => true | .rtz => false | .rdn => n | .rup => !n
        (if inf then f.infBits n else f.maxBits n, Flags.of ||| Flags.nx)
      else
        let tiny := decide (top < f.emin) &&
          !(top + 1 == f.emin && (Num.roundAt rm n m e (top - f.frac)).1 == 2 ^ (f.frac + 1))
        (sign + b, if inexact then Flags.nx ||| Flags.when_ tiny Flags.uf else 0)

/-- A value written to p8 (R53). -/
def fitP8 (rm : RM) (x : Num) : Nat × Flags :=
  match x with
  | .nan _ => (0xFC, Flags.nv)
  | .inf true => (0xFC, Flags.nv)
  | .inf false => (0x03, Flags.of ||| Flags.nx)
  | .fin n m e =>
    if m = 0 then (0xFC, 0)
    else if n then (0xFC, Flags.nv)
    else
      let top : Int := e + m.log2
      if top < -62 then
        let (k, inexact) := Num.roundAt rm false m e (-62)
        (if k = 0 then 0xFC else 0xF8, if inexact then Flags.uf ||| Flags.nx else 0)
      else
        let (k, inexact) := Num.roundAt rm false m e (top - 2)
        -- k runs from 4 to 8, times 2^(top - 2)
        let (k, t) := if k = 8 then (4, top + 1) else (k, top)
        if 0 < t then (0x03, Flags.of ||| Flags.nx)
        else
          let b := (-t).toNat * 4 + (k - 4)
          (b, if inexact then Flags.nx ||| Flags.when_ (b = 0xF8) Flags.uf else 0)

/-- The least value of an integer type. -/
def intMin (signed : Bool) (w : Nat) : Int := if signed then -(2 ^ (w - 1) : Nat) else 0
/-- The greatest value of an integer type. -/
def intMax (signed : Bool) (w : Nat) : Int := if signed then (2 ^ (w - 1) : Nat) - 1 else (2 ^ w : Nat) - 1

/-- The bits of an integer modulo 2^w. -/
def wrapInt (w : Nat) (v : Int) : Nat := (v % (2 ^ w : Nat)).toNat

/-- An integer clamped to a type's range. -/
def clampInt (signed : Bool) (w : Nat) (v : Int) : Int := max (intMin signed w) (min (intMax signed w) v)

/-- An integer fitted from integer kind: wrapped, or saturated with SAT (R55). -/
def fitInt (signed : Bool) (w : Nat) (sat : Bool) (v : Int) : Nat × Flags :=
  if sat then (wrapInt w (clampInt signed w v), Flags.when_ (clampInt signed w v ≠ v) Flags.sat) else (wrapInt w v, 0)

/-- A finite value rounded to an integer, and whether it was inexact. -/
def roundInt (rm : RM) (x : Num) : Int × Bool :=
  match x with
  | .fin n m e => let (k, i) := Num.roundAt rm n m e 0; (if n then -(k : Int) else k, i)
  | _ => (0, false)

/-- A value fitted into an integer type from float kind (R55). -/
def fitIntFloat (signed : Bool) (w : Nat) (rm : RM) (x : Num) : Nat × Flags :=
  match x with
  | .nan _ => (0, Flags.nv)
  | .inf n => (wrapInt w (if n then intMin signed w else intMax signed w), Flags.nv)
  | .fin .. =>
    let (v, i) := roundInt rm x
    let c := clampInt signed w v
    if c = v then (wrapInt w v, Flags.when_ i Flags.nx) else (wrapInt w c, Flags.nv)

/-- A value fitted into a type that is not block-scaled (R53, R55). A NaN of exact kind is a NaN block's (R47). A fraction
of integer kind, which only VAVG and VSQRT give, is rounded as one of exact kind and sets NX (log 50). -/
def fitTy (t : Ty) (k : Kind) (rm : RM) (sat : Bool) (x : Num) : Nat × Flags :=
  match t with
  | .fp f => fitFp f rm (if k.isFloat then x else x.unsign)
  | .p8 => fitP8 rm x
  | .q w => fitInt true w true x.toInt
  | .int s w _ =>
    match k with
    | .float _ => fitIntFloat s w rm x
    | _ =>
      if x.isFin then
        let (v, i) := roundInt rm x
        let (b, f) := fitInt s w sat v
        (b, f ||| Flags.when_ i Flags.nx)
      else fitIntFloat s w rm x

/-- The saturating fit of VADDS (R176): a result of integer or exact kind saturates whatever VTYPE.SAT says and sets SAT,
in an IEEE destination to the greatest finite value of its sign; one of float kind that rounds to an infinity from finite
sources is that value too, with OF and NX. -/
def fitSat (t : Ty) (k : Kind) (rm : RM) (x : Num) : Nat × Flags :=
  match t with
  | .fp f =>
    let (b, fl) := fitTy t k rm true x
    if !x.isFin || fl &&& Flags.of = 0 then (b, fl)
    else (f.maxBits x.isNeg, if k.isFloat then Flags.of ||| Flags.nx else Flags.sat)
  | _ => fitTy t k rm true x

end Sys2Proof.Machine
end

