-- ==== Sys2Proof/WellFormed.lean ====
section
/-!
DEFINITION. When an instruction is well formed: its fields take none of the values that R134 to R137 list as none,
and a field that must be 0 is 0. The checks that need the state (register numbers against NREG, tags, depths, grants)
are no part of it: R138 gives them their own sub-causes, and the instruction's meaning raises them.
-/

namespace Sys2Proof

/-- The state registers RDSR admits (R159): 0 to 13 and 64 to 75. -/
def srReadable (r : BitVec 8) : Bool := r.toNat ≤ 13 || (64 ≤ r.toNat && r.toNat ≤ 75)

/-- The state registers WRSR, SETSR and CLRSR admit (R159). -/
def srWritable (r : BitVec 8) : Bool :=
  r.toNat == 0 || (4 ≤ r.toNat && r.toNat ≤ 6) || (8 ≤ r.toNat && r.toNat ≤ 11) || (64 ≤ r.toNat && r.toNat ≤ 75)

/-- The scopes of R101. -/
def scopeOk (s : BitVec 3) : Bool := s.toNat < 5

/-- The M-format modes whose X field names a register (R130). -/
def modeUsesX (o : BitVec 3) : Bool := o != 0 && o != 5

/-- What R134 to R137 ask of a row's fields beyond their width. -/
def Instr.fieldsOk : Instr → Bool
  | .ecall _ => true
  | .ebreak _ => true
  | .uret _ => true
  | .sret _ => true
  | .fenceSv _ s => scopeOk s
  | .fenceVs _ s => scopeOk s
  | .fenceVv _ s => scopeOk s
  | .fenceAll _ s => scopeOk s
  | .rdsr _ _ r => srReadable r
  | .wrsr _ _ r => srWritable r
  | .setsr _ _ _ r => srWritable r
  | .clrsr _ _ _ r => srWritable r
  | .tlbinv _ _ _ k => k != 3
  | .htinv _ _ _ _ => true
  | .vfsave _ _ _ => true
  | .vfrestore _ _ _ => true
  | .wfi _ => true
  | .add _ _ _ _ => true
  | .sub _ _ _ _ => true
  | .and _ _ _ _ => true
  | .or _ _ _ _ => true
  | .xor _ _ _ _ => true
  | .sll _ _ _ _ => true
  | .srl _ _ _ _ => true
  | .sra _ _ _ _ => true
  | .slt _ _ _ _ => true
  | .sltu _ _ _ _ => true
  | .min _ _ _ _ => true
  | .max _ _ _ _ => true
  | .minu _ _ _ _ => true
  | .maxu _ _ _ _ => true
  | .mul _ _ _ _ => true
  | .mulh _ _ _ _ => true
  | .mulhu _ _ _ _ => true
  | .div _ _ _ _ => true
  | .divu _ _ _ _ => true
  | .rem _ _ _ _ => true
  | .remu _ _ _ _ => true
  | .clz _ _ _ => true
  | .ctz _ _ _ => true
  | .popc _ _ _ => true
  | .sext _ _ _ w => w != 3
  | .zext _ _ _ w => w != 3
  | .addi _ _ _ _ => true
  | .andi _ _ _ _ => true
  | .ori _ _ _ _ => true
  | .xori _ _ _ _ => true
  | .slti _ _ _ _ => true
  | .slli _ _ _ _ => true
  | .srli _ _ _ _ => true
  | .srai _ _ _ _ => true
  | .ldhi _ _ _ => true
  | .addpc _ _ _ => true
  | .sfaddF32 _ _ _ _ => true
  | .sfaddF64 _ _ _ _ => true
  | .sfsubF32 _ _ _ _ => true
  | .sfsubF64 _ _ _ _ => true
  | .sfmulF32 _ _ _ _ => true
  | .sfmulF64 _ _ _ _ => true
  | .sfdivF32 _ _ _ _ => true
  | .sfdivF64 _ _ _ _ => true
  | .sfmaF32 _ _ _ _ => true
  | .sfmaF64 _ _ _ _ => true
  | .sfsqrtF32 _ _ _ => true
  | .sfsqrtF64 _ _ _ => true
  | .sfminF32 _ _ _ _ => true
  | .sfminF64 _ _ _ _ => true
  | .sfmaxF32 _ _ _ _ => true
  | .sfmaxF64 _ _ _ _ => true
  | .sfcmpF32 _ _ _ _ _ => true
  | .sfcmpF64 _ _ _ _ _ => true
  | .sfcvtF32 _ _ _ _ => true
  | .sfcvtF64 _ _ _ _ => true
  | .sfmvF32 _ _ _ => true
  | .sfmvF64 _ _ _ => true
  | .sld _ _ _ _ w _ => w != 7
  | .sst _ _ _ _ w _ => w.toNat < 4
  | .samoAdd _ _ _ _ _ _ _ s => scopeOk s
  | .samoAddsat _ _ _ _ _ _ _ s => scopeOk s
  | .samoMin _ _ _ _ _ _ _ s => scopeOk s
  | .samoMax _ _ _ _ _ _ _ s => scopeOk s
  | .samoAnd _ _ _ _ _ _ _ s => scopeOk s
  | .samoOr _ _ _ _ _ _ _ s => scopeOk s
  | .samoXor _ _ _ _ _ _ _ s => scopeOk s
  | .samoSwap _ _ _ _ _ _ _ s => scopeOk s
  | .beq _ _ _ _ => true
  | .bne _ _ _ _ => true
  | .blt _ _ _ _ => true
  | .bge _ _ _ _ => true
  | .bltu _ _ _ _ => true
  | .bgeu _ _ _ _ => true
  | .jal _ _ _ => true
  | .jalr _ _ _ _ => true
  | .subbnz _ _ _ _ => true
  | .vcfg _ _ _ => true
  | .vtag _ _ _ => true
  | .vsetvl _ _ _ _ => true
  | .vsetvlg _ _ _ _ => true
  | .part _ n => (n == 1 || n == 2 || n == 4 || n == 8)
  | .cbld _ _ _ _ _ => true
  | .hspawn _ _ _ _ => true
  | .hexit _ => true
  | .hwait _ _ => true
  | .yield _ => true
  | .gang _ _ => true
  | .gbar _ => true
  | .lspop _ _ _ => true
  | .lspush _ _ => true
  | .vadd _ _ _ _ _ _ => true
  | .vsub _ _ _ _ _ _ => true
  | .vmul _ _ _ _ _ _ => true
  | .vmulh _ _ _ _ _ _ => true
  | .vfma _ _ _ _ _ _ => true
  | .vfms _ _ _ _ _ _ => true
  | .vdiv _ _ _ _ _ _ => true
  | .vrem _ _ _ _ _ _ => true
  | .vmin _ _ _ _ _ _ => true
  | .vmax _ _ _ _ _ _ => true
  | .vand _ _ _ _ _ _ => true
  | .vor _ _ _ _ _ _ => true
  | .vxor _ _ _ _ _ _ => true
  | .vshl _ _ _ _ _ _ => true
  | .vshrL _ _ _ _ _ _ => true
  | .vshrA _ _ _ _ _ _ => true
  | .vshrAr _ _ _ _ _ _ => true
  | .vcmp _ o _ _ _ _ _ => o.toNat < 6
  | .vsel _ _ _ _ _ _ => true
  | .vabs _ _ _ _ => true
  | .vneg _ _ _ _ => true
  | .vnot _ _ _ _ => true
  | .vsqrt _ _ _ _ => true
  | .vclz _ _ _ _ => true
  | .vpopc _ _ _ _ => true
  | .vmv _ _ _ _ => true
  | .viota _ _ _ => true
  | .vcvt _ _ _ _ => true
  | .vrscale _ _ _ _ => true
  | .vbc _ _ _ _ => true
  | .vadds _ _ _ _ _ _ => true
  | .vabsd _ _ _ _ _ _ => true
  | .vavg _ _ _ _ _ _ => true
  | .vslideUp _ _ _ _ _ _ => true
  | .vslideDn _ _ _ _ _ _ => true
  | .vmskAnd _ _ _ _ => true
  | .vmskOr _ _ _ _ => true
  | .vmskXor _ _ _ _ => true
  | .vmskAndn _ _ _ _ => true
  | .vmskNot _ _ _ => true
  | .vmskCount _ _ _ => true
  | .vmskFirst _ _ _ => true
  | .vaddk _ _ _ _ _ _ => true
  | .vsubk _ _ _ _ _ _ => true
  | .vmulk _ _ _ _ _ _ => true
  | .vfmak _ _ _ _ _ _ => true
  | .vmink _ _ _ _ _ _ => true
  | .vmaxk _ _ _ _ _ _ => true
  | .vselk _ _ _ _ _ _ => true
  | .vcmpk _ o _ _ _ _ _ => o.toNat < 6
  | .spush _ _ _ _ => true
  | .spop _ _ _ _ => true
  | .sdepth _ _ _ => true
  | .sgetl _ _ _ _ _ => true
  | .vflat _ _ _ _ => true
  | .sopen _ _ _ _ => true
  | .vredAdd _ _ _ _ _ _ => true
  | .vredMul _ _ _ _ _ _ => true
  | .vredMin _ _ _ _ _ _ => true
  | .vredMax _ _ _ _ _ _ => true
  | .vredbAnd _ _ _ _ _ _ => true
  | .vredbOr _ _ _ _ _ _ => true
  | .vredbXor _ _ _ _ _ _ => true
  | .vidxmax _ _ _ _ _ _ => true
  | .vscanAddInc _ _ _ _ _ _ => true
  | .vscanAddExc _ _ _ _ _ _ => true
  | .vscanMaxInc _ _ _ _ _ _ => true
  | .vscanMaxExc _ _ _ _ _ _ => true
  | .vpack _ _ _ _ => true
  | .vdist _ _ _ _ _ _ => true
  | .vsplitMask _ _ _ _ => true
  | .vsplitThree _ _ _ => true
  | .vgatherr _ _ _ _ _ _ => true
  | .vpushl _ _ _ _ _ _ => true
  | .vpermb _ _ _ _ _ => true
  | .vrev _ _ _ _ _ => true
  | .vmergek _ _ _ _ _ _ => true
  | .vconfl _ _ _ _ _ => true
  | .mmac _ _ _ _ _ _ => true
  | .vpmul _ _ _ _ _ _ => true
  | .vexp _ _ _ _ => true
  | .vln _ _ _ => true
  | .vrcp _ _ _ => true
  | .vrsq _ _ _ => true
  | .vsin _ _ _ => true
  | .vcos _ _ _ => true
  | .vtanh _ _ _ => true
  | .vsigm _ _ _ => true
  | .vrand _ _ _ => true
  | .vld _ _ _ _ x o => o.toNat < 6 && (modeUsesX o || x == 0)
  | .vst _ _ _ _ x o => o.toNat < 5 && (modeUsesX o || x == 0)
  | .vamoAdd _ _ _ _ _ _ _ s => scopeOk s
  | .vamoAddsat _ _ _ _ _ _ _ s => scopeOk s
  | .vamoMin _ _ _ _ _ _ _ s => scopeOk s
  | .vamoMax _ _ _ _ _ _ _ s => scopeOk s
  | .vamoAnd _ _ _ _ _ _ _ s => scopeOk s
  | .vamoOr _ _ _ _ _ _ _ s => scopeOk s
  | .vamoXor _ _ _ _ _ _ _ s => scopeOk s
  | .vamoSwap _ _ _ _ _ _ _ s => scopeOk s
  | .vcas _ _ _ _ _ _ s => scopeOk s
  | .vwait _ _ _ _ o s => o != 0 && scopeOk s
  | .hnew _ _ _ _ => true
  | .hbind _ _ _ => true
  | .hup _ _ _ => true
  | .hdown _ _ => true
  | .hweak _ _ _ => true
  | .hrel _ _ => true
  | .hchk _ _ _ => true
  | .hinfo _ _ _ _ => true
  | .balloc _ _ _ => true
  | .bfree _ _ _ => true
  | .bfork _ _ _ _ => true
  | .bcow _ _ _ _ => true
  | .bmap _ _ _ _ => true
  | .btlen _ _ _ _ => true
  | .brel _ _ => true
  | .exbind _ _ _ _ _ => true
  | .expoll _ _ _ m _ => m != 0
  | .exrel _ _ => true
  | .expin _ _ _ _ => true
  | .exstat _ _ _ _ => true
  | .xcopy _ _ _ _ _ v => v.toNat < 4
  | .xpush _ _ _ _ _ v => v.toNat < 2
  | .xfill _ _ _ _ => true
  | .vpref _ _ _ v => v.toNat < 2
  | .imageKeepClear _ => true
  | .standbySwitch _ => true
  | .quantumExpiry _ => true
  | .vsetvlgWake _ => true
  | .vsetvlgTimeout _ => true
  | .vwaitWake _ => true
  | .hwaitWake _ => true
  | .wfiWake _ => true
  | .interruptTaken _ => true
  | .userTrap _ _ _ => true
  | .trapToSupervisor _ _ _ => true
  | .machineCheck _ _ _ _ => true
  | .preemptToSaved _ => true
  | .partcfgResume _ => true
  | .endSaved _ => true
  | .powerWindow _ _ => true
  | .laneClockGate _ _ => true
  | .lanePowerGate _ _ => true
  | .heapInsert _ _ _ _ => true
  | .heapCancel _ _ => true
  | .heapRetire _ _ => true
  | .requestEligible _ _ => true
  | .hostMessage _ _ => true
  | .pageInAllocate _ => true
  | .pageInLand _ => true
  | .tierReadFail _ => true
  | .reclaimDestroy _ _ => true
  | .engineTransferComplete _ _ => true
  | .dataFlit .. => true
  | .flagFlit .. => true
  | .ackFlit _ _ => true
  | .nakFlit _ _ => true
  | .permitGrantFlit _ _ => true
  | .permitReturnFlit _ _ => true
  | .refusalFlit _ _ => true
  | .resetFlit _ _ => true
  | .permitWindow _ => true
  | .portDown _ => true
  | .peerUnreachable _ _ => true
  | .hostMemAccess _ _ _ _ => true
  | .hostTierAccess _ _ _ _ => true
  | .accessTableWrite _ _ _ _ => true
  | .hostRegisterWrite _ _ _ _ => true
  | .quiesce _ => true
  | .partitionResume _ => true
  | .partitionReset _ => true
  | .partitionLoad _ => true
  | .repairLane _ _ _ => true
  | .repairCluster _ _ => true
  | .powerOff _ => true
  | .loadImage => true
  | .commitSecurityVersion => true
  | .attest => true
  | .railRaise _ => true
  | .perstRelease => true
  | .railOutOfRange _ => true
  | .dramScrub _ => true
  | .llcScrub _ => true
  | .thermalThrottle _ => true
  | .thermalRecover _ => true
  | .thermtrip => true
  | .railRemove _ => true

/-- The rows of the table that have a word (R141). -/
def Instr.hasWord : Instr → Bool
  | .ecall _ => true
  | .ebreak _ => true
  | .uret _ => true
  | .sret _ => true
  | .fenceSv _ _ => true
  | .fenceVs _ _ => true
  | .fenceVv _ _ => true
  | .fenceAll _ _ => true
  | .rdsr _ _ _ => true
  | .wrsr _ _ _ => true
  | .setsr _ _ _ _ => true
  | .clrsr _ _ _ _ => true
  | .tlbinv _ _ _ _ => true
  | .htinv _ _ _ _ => true
  | .vfsave _ _ _ => true
  | .vfrestore _ _ _ => true
  | .wfi _ => true
  | .add _ _ _ _ => true
  | .sub _ _ _ _ => true
  | .and _ _ _ _ => true
  | .or _ _ _ _ => true
  | .xor _ _ _ _ => true
  | .sll _ _ _ _ => true
  | .srl _ _ _ _ => true
  | .sra _ _ _ _ => true
  | .slt _ _ _ _ => true
  | .sltu _ _ _ _ => true
  | .min _ _ _ _ => true
  | .max _ _ _ _ => true
  | .minu _ _ _ _ => true
  | .maxu _ _ _ _ => true
  | .mul _ _ _ _ => true
  | .mulh _ _ _ _ => true
  | .mulhu _ _ _ _ => true
  | .div _ _ _ _ => true
  | .divu _ _ _ _ => true
  | .rem _ _ _ _ => true
  | .remu _ _ _ _ => true
  | .clz _ _ _ => true
  | .ctz _ _ _ => true
  | .popc _ _ _ => true
  | .sext _ _ _ _ => true
  | .zext _ _ _ _ => true
  | .addi _ _ _ _ => true
  | .andi _ _ _ _ => true
  | .ori _ _ _ _ => true
  | .xori _ _ _ _ => true
  | .slti _ _ _ _ => true
  | .slli _ _ _ _ => true
  | .srli _ _ _ _ => true
  | .srai _ _ _ _ => true
  | .ldhi _ _ _ => true
  | .addpc _ _ _ => true
  | .sfaddF32 _ _ _ _ => true
  | .sfaddF64 _ _ _ _ => true
  | .sfsubF32 _ _ _ _ => true
  | .sfsubF64 _ _ _ _ => true
  | .sfmulF32 _ _ _ _ => true
  | .sfmulF64 _ _ _ _ => true
  | .sfdivF32 _ _ _ _ => true
  | .sfdivF64 _ _ _ _ => true
  | .sfmaF32 _ _ _ _ => true
  | .sfmaF64 _ _ _ _ => true
  | .sfsqrtF32 _ _ _ => true
  | .sfsqrtF64 _ _ _ => true
  | .sfminF32 _ _ _ _ => true
  | .sfminF64 _ _ _ _ => true
  | .sfmaxF32 _ _ _ _ => true
  | .sfmaxF64 _ _ _ _ => true
  | .sfcmpF32 _ _ _ _ _ => true
  | .sfcmpF64 _ _ _ _ _ => true
  | .sfcvtF32 _ _ _ _ => true
  | .sfcvtF64 _ _ _ _ => true
  | .sfmvF32 _ _ _ => true
  | .sfmvF64 _ _ _ => true
  | .sld _ _ _ _ _ _ => true
  | .sst _ _ _ _ _ _ => true
  | .samoAdd _ _ _ _ _ _ _ _ => true
  | .samoAddsat _ _ _ _ _ _ _ _ => true
  | .samoMin _ _ _ _ _ _ _ _ => true
  | .samoMax _ _ _ _ _ _ _ _ => true
  | .samoAnd _ _ _ _ _ _ _ _ => true
  | .samoOr _ _ _ _ _ _ _ _ => true
  | .samoXor _ _ _ _ _ _ _ _ => true
  | .samoSwap _ _ _ _ _ _ _ _ => true
  | .beq _ _ _ _ => true
  | .bne _ _ _ _ => true
  | .blt _ _ _ _ => true
  | .bge _ _ _ _ => true
  | .bltu _ _ _ _ => true
  | .bgeu _ _ _ _ => true
  | .jal _ _ _ => true
  | .jalr _ _ _ _ => true
  | .subbnz _ _ _ _ => true
  | .vcfg _ _ _ => true
  | .vtag _ _ _ => true
  | .vsetvl _ _ _ _ => true
  | .vsetvlg _ _ _ _ => true
  | .part _ _ => true
  | .cbld _ _ _ _ _ => true
  | .hspawn _ _ _ _ => true
  | .hexit _ => true
  | .hwait _ _ => true
  | .yield _ => true
  | .gang _ _ => true
  | .gbar _ => true
  | .lspop _ _ _ => true
  | .lspush _ _ => true
  | .vadd _ _ _ _ _ _ => true
  | .vsub _ _ _ _ _ _ => true
  | .vmul _ _ _ _ _ _ => true
  | .vmulh _ _ _ _ _ _ => true
  | .vfma _ _ _ _ _ _ => true
  | .vfms _ _ _ _ _ _ => true
  | .vdiv _ _ _ _ _ _ => true
  | .vrem _ _ _ _ _ _ => true
  | .vmin _ _ _ _ _ _ => true
  | .vmax _ _ _ _ _ _ => true
  | .vand _ _ _ _ _ _ => true
  | .vor _ _ _ _ _ _ => true
  | .vxor _ _ _ _ _ _ => true
  | .vshl _ _ _ _ _ _ => true
  | .vshrL _ _ _ _ _ _ => true
  | .vshrA _ _ _ _ _ _ => true
  | .vshrAr _ _ _ _ _ _ => true
  | .vcmp _ _ _ _ _ _ _ => true
  | .vsel _ _ _ _ _ _ => true
  | .vabs _ _ _ _ => true
  | .vneg _ _ _ _ => true
  | .vnot _ _ _ _ => true
  | .vsqrt _ _ _ _ => true
  | .vclz _ _ _ _ => true
  | .vpopc _ _ _ _ => true
  | .vmv _ _ _ _ => true
  | .viota _ _ _ => true
  | .vcvt _ _ _ _ => true
  | .vrscale _ _ _ _ => true
  | .vbc _ _ _ _ => true
  | .vadds _ _ _ _ _ _ => true
  | .vabsd _ _ _ _ _ _ => true
  | .vavg _ _ _ _ _ _ => true
  | .vslideUp _ _ _ _ _ _ => true
  | .vslideDn _ _ _ _ _ _ => true
  | .vmskAnd _ _ _ _ => true
  | .vmskOr _ _ _ _ => true
  | .vmskXor _ _ _ _ => true
  | .vmskAndn _ _ _ _ => true
  | .vmskNot _ _ _ => true
  | .vmskCount _ _ _ => true
  | .vmskFirst _ _ _ => true
  | .vaddk _ _ _ _ _ _ => true
  | .vsubk _ _ _ _ _ _ => true
  | .vmulk _ _ _ _ _ _ => true
  | .vfmak _ _ _ _ _ _ => true
  | .vmink _ _ _ _ _ _ => true
  | .vmaxk _ _ _ _ _ _ => true
  | .vselk _ _ _ _ _ _ => true
  | .vcmpk _ _ _ _ _ _ _ => true
  | .spush _ _ _ _ => true
  | .spop _ _ _ _ => true
  | .sdepth _ _ _ => true
  | .sgetl _ _ _ _ _ => true
  | .vflat _ _ _ _ => true
  | .sopen _ _ _ _ => true
  | .vredAdd _ _ _ _ _ _ => true
  | .vredMul _ _ _ _ _ _ => true
  | .vredMin _ _ _ _ _ _ => true
  | .vredMax _ _ _ _ _ _ => true
  | .vredbAnd _ _ _ _ _ _ => true
  | .vredbOr _ _ _ _ _ _ => true
  | .vredbXor _ _ _ _ _ _ => true
  | .vidxmax _ _ _ _ _ _ => true
  | .vscanAddInc _ _ _ _ _ _ => true
  | .vscanAddExc _ _ _ _ _ _ => true
  | .vscanMaxInc _ _ _ _ _ _ => true
  | .vscanMaxExc _ _ _ _ _ _ => true
  | .vpack _ _ _ _ => true
  | .vdist _ _ _ _ _ _ => true
  | .vsplitMask _ _ _ _ => true
  | .vsplitThree _ _ _ => true
  | .vgatherr _ _ _ _ _ _ => true
  | .vpushl _ _ _ _ _ _ => true
  | .vpermb _ _ _ _ _ => true
  | .vrev _ _ _ _ _ => true
  | .vmergek _ _ _ _ _ _ => true
  | .vconfl _ _ _ _ _ => true
  | .mmac _ _ _ _ _ _ => true
  | .vpmul _ _ _ _ _ _ => true
  | .vexp _ _ _ _ => true
  | .vln _ _ _ => true
  | .vrcp _ _ _ => true
  | .vrsq _ _ _ => true
  | .vsin _ _ _ => true
  | .vcos _ _ _ => true
  | .vtanh _ _ _ => true
  | .vsigm _ _ _ => true
  | .vrand _ _ _ => true
  | .vld _ _ _ _ _ _ => true
  | .vst _ _ _ _ _ _ => true
  | .vamoAdd _ _ _ _ _ _ _ _ => true
  | .vamoAddsat _ _ _ _ _ _ _ _ => true
  | .vamoMin _ _ _ _ _ _ _ _ => true
  | .vamoMax _ _ _ _ _ _ _ _ => true
  | .vamoAnd _ _ _ _ _ _ _ _ => true
  | .vamoOr _ _ _ _ _ _ _ _ => true
  | .vamoXor _ _ _ _ _ _ _ _ => true
  | .vamoSwap _ _ _ _ _ _ _ _ => true
  | .vcas _ _ _ _ _ _ _ => true
  | .vwait _ _ _ _ _ _ => true
  | .hnew _ _ _ _ => true
  | .hbind _ _ _ => true
  | .hup _ _ _ => true
  | .hdown _ _ => true
  | .hweak _ _ _ => true
  | .hrel _ _ => true
  | .hchk _ _ _ => true
  | .hinfo _ _ _ _ => true
  | .balloc _ _ _ => true
  | .bfree _ _ _ => true
  | .bfork _ _ _ _ => true
  | .bcow _ _ _ _ => true
  | .bmap _ _ _ _ => true
  | .btlen _ _ _ _ => true
  | .brel _ _ => true
  | .exbind _ _ _ _ _ => true
  | .expoll _ _ _ _ _ => true
  | .exrel _ _ => true
  | .expin _ _ _ _ => true
  | .exstat _ _ _ _ => true
  | .xcopy _ _ _ _ _ _ => true
  | .xpush _ _ _ _ _ _ => true
  | .xfill _ _ _ _ => true
  | .vpref _ _ _ _ => true
  | .imageKeepClear _ => false
  | .standbySwitch _ => false
  | .quantumExpiry _ => false
  | .vsetvlgWake _ => false
  | .vsetvlgTimeout _ => false
  | .vwaitWake _ => false
  | .hwaitWake _ => false
  | .wfiWake _ => false
  | .interruptTaken _ => false
  | .userTrap _ _ _ => false
  | .trapToSupervisor _ _ _ => false
  | .machineCheck _ _ _ _ => false
  | .preemptToSaved _ => false
  | .partcfgResume _ => false
  | .endSaved _ => false
  | .powerWindow _ _ => false
  | .laneClockGate _ _ => false
  | .lanePowerGate _ _ => false
  | .heapInsert _ _ _ _ => false
  | .heapCancel _ _ => false
  | .heapRetire _ _ => false
  | .requestEligible _ _ => false
  | .hostMessage _ _ => false
  | .pageInAllocate _ => false
  | .pageInLand _ => false
  | .tierReadFail _ => false
  | .reclaimDestroy _ _ => false
  | .engineTransferComplete _ _ => false
  | .dataFlit .. => false
  | .flagFlit .. => false
  | .ackFlit _ _ => false
  | .nakFlit _ _ => false
  | .permitGrantFlit _ _ => false
  | .permitReturnFlit _ _ => false
  | .refusalFlit _ _ => false
  | .resetFlit _ _ => false
  | .permitWindow _ => false
  | .portDown _ => false
  | .peerUnreachable _ _ => false
  | .hostMemAccess _ _ _ _ => false
  | .hostTierAccess _ _ _ _ => false
  | .accessTableWrite _ _ _ _ => false
  | .hostRegisterWrite _ _ _ _ => false
  | .quiesce _ => false
  | .partitionResume _ => false
  | .partitionReset _ => false
  | .partitionLoad _ => false
  | .repairLane _ _ _ => false
  | .repairCluster _ _ => false
  | .powerOff _ => false
  | .loadImage => false
  | .commitSecurityVersion => false
  | .attest => false
  | .railRaise _ => false
  | .perstRelease => false
  | .railOutOfRange _ => false
  | .dramScrub _ => false
  | .llcScrub _ => false
  | .thermalThrottle _ => false
  | .thermalRecover _ => false
  | .thermtrip => false
  | .railRemove _ => false

/-- A well-formed instruction: a row with a word, whose fields the formats admit. -/
def Instr.wf (i : Instr) : Bool := i.hasWord && i.fieldsOk

end Sys2Proof
end

