-- ==== Sys2Proof/Decode.lean ====
section
/-!
DEFINITION. Decoding and encoding: the instruction words of R123 to R138.

`decode` is total on words and `decodeBytes` on any bytes. A word that is no instruction is refused by name:
`enc` is sub-cause ILLENC, `res` is ILLRES, `depth` is a word whose only fault is a deepest-role DEP other than 7
(R128), which carries the instruction it would otherwise be because a lower sub-cause of that instruction is reported
first (R138). ILLENC is tested before ILLRES for the same reason. The sub-causes from 3 up depend on the state and are
raised by the meanings.
-/

namespace Sys2Proof

/-- Why a word is no instruction (R138). -/
inductive DecodeErr where
  /-- fewer than four bytes (R123) -/
  | short
  /-- sub-cause 1, ILLENC -/
  | enc
  /-- sub-cause 2, ILLRES -/
  | res
  /-- sub-cause 6, ILLDEPTH, of a VSPLIT whose DEP is not 7 -/
  | depth (i : Instr)
  deriving DecidableEq, Repr

/-- What a word decodes to. -/
inductive Decoded where
  /-- the instruction the word stands for -/
  | ok (i : Instr)
  /-- no instruction, and why -/
  | err (e : DecodeErr)
  deriving DecidableEq, Repr

/-- Bits `lo + n - 1` down to `lo` of a word (R4). -/
def fld (w : BitVec 32) (lo n : Nat) : BitVec n := w.extractLsb' lo n

/-- The convoy-start bit (R123). -/
def cv (w : BitVec 32) : Bool := fld w 31 1 == 1#1

/-- ILLENC first, then ILLRES, else the instruction. -/
def pick (encOk resOk : Bool) (i : Instr) : Decoded :=
  if encOk then (if resOk then .ok i else .err .res) else .err .enc

/-- A row in the deepest role of R128. -/
def deepest (dep : BitVec 3) (resOk : Bool) (i : Instr) : Decoded :=
  if resOk then (if dep == 7 then .ok i else .err (.depth i)) else .err .res

/-- The words of major 0x0 (R133, R134 to R137). -/
def decSys (w : BitVec 32) : Decoded :=
  match (fld w 8 5).toNat with
  | 1 => pick (true) (fld w 0 8 == 0 && fld w 13 12 == 0) (.ecall (cv w))
  | 2 => pick (true) (fld w 0 8 == 0 && fld w 13 12 == 0) (.ebreak (cv w))
  | 3 => pick (true) (fld w 0 8 == 0 && fld w 13 12 == 0) (.uret (cv w))
  | 4 => pick (true) (fld w 0 8 == 0 && fld w 13 12 == 0) (.sret (cv w))
  | 5 => pick (scopeOk (fld w 0 3)) (fld w 3 5 == 0 && fld w 13 12 == 0) (.fenceSv (cv w) (fld w 0 3))
  | 6 => pick (scopeOk (fld w 0 3)) (fld w 3 5 == 0 && fld w 13 12 == 0) (.fenceVs (cv w) (fld w 0 3))
  | 7 => pick (scopeOk (fld w 0 3)) (fld w 3 5 == 0 && fld w 13 12 == 0) (.fenceVv (cv w) (fld w 0 3))
  | 8 => pick (scopeOk (fld w 0 3)) (fld w 3 5 == 0 && fld w 13 12 == 0) (.fenceAll (cv w) (fld w 0 3))
  | 9 => pick (srReadable (fld w 0 8)) (fld w 13 6 == 0) (.rdsr (cv w) (fld w 19 6) (fld w 0 8))
  | 10 => pick (srWritable (fld w 0 8)) (fld w 19 6 == 0) (.wrsr (cv w) (fld w 13 6) (fld w 0 8))
  | 11 => pick (srWritable (fld w 0 8)) (true) (.setsr (cv w) (fld w 19 6) (fld w 13 6) (fld w 0 8))
  | 12 => pick (srWritable (fld w 0 8)) (true) (.clrsr (cv w) (fld w 19 6) (fld w 13 6) (fld w 0 8))
  | 13 => pick ((fld w 0 2) != 3) (fld w 2 6 == 0) (.tlbinv (cv w) (fld w 19 6) (fld w 13 6) (fld w 0 2))
  | 14 => pick (true) (fld w 1 7 == 0) (.htinv (cv w) (fld w 19 6) (fld w 13 6) (fld w 0 1))
  | 15 => pick (true) (fld w 4 4 == 0 && fld w 19 6 == 0) (.vfsave (cv w) (fld w 13 6) (fld w 0 4))
  | 16 => pick (true) (fld w 4 4 == 0 && fld w 19 6 == 0) (.vfrestore (cv w) (fld w 13 6) (fld w 0 4))
  | 17 => pick (true) (fld w 0 8 == 0 && fld w 13 12 == 0) (.wfi (cv w))
  | _ => .err .enc

/-- The words of major 0x1 (R133, R134 to R137). -/
def decSalu (w : BitVec 32) : Decoded :=
  match (fld w 0 7).toNat with
  | 0 => .ok (.add (cv w) (fld w 19 6) (fld w 13 6) (fld w 7 6))
  | 1 => .ok (.sub (cv w) (fld w 19 6) (fld w 13 6) (fld w 7 6))
  | 2 => .ok (.and (cv w) (fld w 19 6) (fld w 13 6) (fld w 7 6))
  | 3 => .ok (.or (cv w) (fld w 19 6) (fld w 13 6) (fld w 7 6))
  | 4 => .ok (.xor (cv w) (fld w 19 6) (fld w 13 6) (fld w 7 6))
  | 5 => .ok (.sll (cv w) (fld w 19 6) (fld w 13 6) (fld w 7 6))
  | 6 => .ok (.srl (cv w) (fld w 19 6) (fld w 13 6) (fld w 7 6))
  | 7 => .ok (.sra (cv w) (fld w 19 6) (fld w 13 6) (fld w 7 6))
  | 8 => .ok (.slt (cv w) (fld w 19 6) (fld w 13 6) (fld w 7 6))
  | 9 => .ok (.sltu (cv w) (fld w 19 6) (fld w 13 6) (fld w 7 6))
  | 10 => .ok (.min (cv w) (fld w 19 6) (fld w 13 6) (fld w 7 6))
  | 11 => .ok (.max (cv w) (fld w 19 6) (fld w 13 6) (fld w 7 6))
  | 12 => .ok (.minu (cv w) (fld w 19 6) (fld w 13 6) (fld w 7 6))
  | 13 => .ok (.maxu (cv w) (fld w 19 6) (fld w 13 6) (fld w 7 6))
  | 14 => .ok (.mul (cv w) (fld w 19 6) (fld w 13 6) (fld w 7 6))
  | 15 => .ok (.mulh (cv w) (fld w 19 6) (fld w 13 6) (fld w 7 6))
  | 16 => .ok (.mulhu (cv w) (fld w 19 6) (fld w 13 6) (fld w 7 6))
  | 17 => .ok (.div (cv w) (fld w 19 6) (fld w 13 6) (fld w 7 6))
  | 18 => .ok (.divu (cv w) (fld w 19 6) (fld w 13 6) (fld w 7 6))
  | 19 => .ok (.rem (cv w) (fld w 19 6) (fld w 13 6) (fld w 7 6))
  | 20 => .ok (.remu (cv w) (fld w 19 6) (fld w 13 6) (fld w 7 6))
  | 21 => pick (true) (fld w 7 6 == 0) (.clz (cv w) (fld w 19 6) (fld w 13 6))
  | 22 => pick (true) (fld w 7 6 == 0) (.ctz (cv w) (fld w 19 6) (fld w 13 6))
  | 23 => pick (true) (fld w 7 6 == 0) (.popc (cv w) (fld w 19 6) (fld w 13 6))
  | 24 => pick ((fld w 7 2) != 3) (fld w 9 4 == 0) (.sext (cv w) (fld w 19 6) (fld w 13 6) (fld w 7 2))
  | 25 => pick ((fld w 7 2) != 3) (fld w 9 4 == 0) (.zext (cv w) (fld w 19 6) (fld w 13 6) (fld w 7 2))
  | _ => .err .enc

/-- The words of major 0x7 (R133, R134 to R137). -/
def decShi (w : BitVec 32) : Decoded :=
  match (fld w 11 2).toNat with
  | 0 => pick (true) (fld w 6 5 == 0) (.slli (cv w) (fld w 19 6) (fld w 13 6) (fld w 0 6))
  | 1 => pick (true) (fld w 6 5 == 0) (.srli (cv w) (fld w 19 6) (fld w 13 6) (fld w 0 6))
  | 2 => pick (true) (fld w 6 5 == 0) (.srai (cv w) (fld w 19 6) (fld w 13 6) (fld w 0 6))
  | _ => .err .enc

/-- The words of major 0xa (R133, R134 to R137). -/
def decSfp (w : BitVec 32) : Decoded :=
  match (fld w 0 5).toNat with
  | 0 => pick (true) (fld w 5 2 == 0) (.sfaddF32 (cv w) (fld w 19 6) (fld w 13 6) (fld w 7 6))
  | 16 => pick (true) (fld w 5 2 == 0) (.sfaddF64 (cv w) (fld w 19 6) (fld w 13 6) (fld w 7 6))
  | 1 => pick (true) (fld w 5 2 == 0) (.sfsubF32 (cv w) (fld w 19 6) (fld w 13 6) (fld w 7 6))
  | 17 => pick (true) (fld w 5 2 == 0) (.sfsubF64 (cv w) (fld w 19 6) (fld w 13 6) (fld w 7 6))
  | 2 => pick (true) (fld w 5 2 == 0) (.sfmulF32 (cv w) (fld w 19 6) (fld w 13 6) (fld w 7 6))
  | 18 => pick (true) (fld w 5 2 == 0) (.sfmulF64 (cv w) (fld w 19 6) (fld w 13 6) (fld w 7 6))
  | 3 => pick (true) (fld w 5 2 == 0) (.sfdivF32 (cv w) (fld w 19 6) (fld w 13 6) (fld w 7 6))
  | 19 => pick (true) (fld w 5 2 == 0) (.sfdivF64 (cv w) (fld w 19 6) (fld w 13 6) (fld w 7 6))
  | 4 => pick (true) (fld w 5 2 == 0) (.sfmaF32 (cv w) (fld w 19 6) (fld w 13 6) (fld w 7 6))
  | 20 => pick (true) (fld w 5 2 == 0) (.sfmaF64 (cv w) (fld w 19 6) (fld w 13 6) (fld w 7 6))
  | 5 => pick (true) (fld w 5 8 == 0) (.sfsqrtF32 (cv w) (fld w 19 6) (fld w 13 6))
  | 21 => pick (true) (fld w 5 8 == 0) (.sfsqrtF64 (cv w) (fld w 19 6) (fld w 13 6))
  | 6 => pick (true) (fld w 5 2 == 0) (.sfminF32 (cv w) (fld w 19 6) (fld w 13 6) (fld w 7 6))
  | 22 => pick (true) (fld w 5 2 == 0) (.sfminF64 (cv w) (fld w 19 6) (fld w 13 6) (fld w 7 6))
  | 7 => pick (true) (fld w 5 2 == 0) (.sfmaxF32 (cv w) (fld w 19 6) (fld w 13 6) (fld w 7 6))
  | 23 => pick (true) (fld w 5 2 == 0) (.sfmaxF64 (cv w) (fld w 19 6) (fld w 13 6) (fld w 7 6))
  | 8 => .ok (.sfcmpF32 (cv w) (fld w 19 6) (fld w 13 6) (fld w 7 6) (fld w 5 2))
  | 24 => .ok (.sfcmpF64 (cv w) (fld w 19 6) (fld w 13 6) (fld w 7 6) (fld w 5 2))
  | 9 => pick (true) (fld w 7 6 == 0) (.sfcvtF32 (cv w) (fld w 19 6) (fld w 13 6) (fld w 5 2))
  | 25 => pick (true) (fld w 7 6 == 0) (.sfcvtF64 (cv w) (fld w 19 6) (fld w 13 6) (fld w 5 2))
  | 10 => pick (true) (fld w 5 8 == 0) (.sfmvF32 (cv w) (fld w 19 6) (fld w 13 6))
  | 26 => pick (true) (fld w 5 8 == 0) (.sfmvF64 (cv w) (fld w 19 6) (fld w 13 6))
  | _ => .err .enc

/-- The words of major 0xd (R133, R134 to R137). -/
def decSamo (w : BitVec 32) : Decoded :=
  match (fld w 6 3).toNat with
  | 0 => pick (scopeOk (fld w 0 3)) (true) (.samoAdd (cv w) (fld w 19 6) (fld w 15 4) (fld w 9 6) (fld w 5 1) (fld w 4 1) (fld w 3 1) (fld w 0 3))
  | 1 => pick (scopeOk (fld w 0 3)) (true) (.samoAddsat (cv w) (fld w 19 6) (fld w 15 4) (fld w 9 6) (fld w 5 1) (fld w 4 1) (fld w 3 1) (fld w 0 3))
  | 2 => pick (scopeOk (fld w 0 3)) (true) (.samoMin (cv w) (fld w 19 6) (fld w 15 4) (fld w 9 6) (fld w 5 1) (fld w 4 1) (fld w 3 1) (fld w 0 3))
  | 3 => pick (scopeOk (fld w 0 3)) (true) (.samoMax (cv w) (fld w 19 6) (fld w 15 4) (fld w 9 6) (fld w 5 1) (fld w 4 1) (fld w 3 1) (fld w 0 3))
  | 4 => pick (scopeOk (fld w 0 3)) (true) (.samoAnd (cv w) (fld w 19 6) (fld w 15 4) (fld w 9 6) (fld w 5 1) (fld w 4 1) (fld w 3 1) (fld w 0 3))
  | 5 => pick (scopeOk (fld w 0 3)) (true) (.samoOr (cv w) (fld w 19 6) (fld w 15 4) (fld w 9 6) (fld w 5 1) (fld w 4 1) (fld w 3 1) (fld w 0 3))
  | 6 => pick (scopeOk (fld w 0 3)) (true) (.samoXor (cv w) (fld w 19 6) (fld w 15 4) (fld w 9 6) (fld w 5 1) (fld w 4 1) (fld w 3 1) (fld w 0 3))
  | 7 => pick (scopeOk (fld w 0 3)) (true) (.samoSwap (cv w) (fld w 19 6) (fld w 15 4) (fld w 9 6) (fld w 5 1) (fld w 4 1) (fld w 3 1) (fld w 0 3))
  | _ => .err .enc

/-- The words of major 0xe (R133, R134 to R137). -/
def decBra (w : BitVec 32) : Decoded :=
  match (fld w 22 3).toNat with
  | 0 => .ok (.beq (cv w) (fld w 16 6) (fld w 10 6) (fld w 0 10))
  | 1 => .ok (.bne (cv w) (fld w 16 6) (fld w 10 6) (fld w 0 10))
  | 2 => .ok (.blt (cv w) (fld w 16 6) (fld w 10 6) (fld w 0 10))
  | 3 => .ok (.bge (cv w) (fld w 16 6) (fld w 10 6) (fld w 0 10))
  | 4 => .ok (.bltu (cv w) (fld w 16 6) (fld w 10 6) (fld w 0 10))
  | 5 => .ok (.bgeu (cv w) (fld w 16 6) (fld w 10 6) (fld w 0 10))
  | _ => .err .enc

/-- The words of major 0x12 (R133, R134 to R137). -/
def decCfg (w : BitVec 32) : Decoded :=
  match (fld w 10 3).toNat with
  | 0 => pick (true) (fld w 13 12 == 0) (.vcfg (cv w) (fld w 8 2) (fld w 0 8))
  | 1 => pick (true) (fld w 8 2 == 0 && fld w 13 6 == 0) (.vtag (cv w) (fld w 19 6) (fld w 0 8))
  | 2 => pick (true) (fld w 6 4 == 0) (.vsetvl (cv w) (fld w 19 6) (fld w 13 6) (fld w 0 6))
  | 3 => pick (true) (fld w 6 4 == 0) (.vsetvlg (cv w) (fld w 19 6) (fld w 13 6) (fld w 0 6))
  | 4 => pick (((fld w 0 4) == 1 || (fld w 0 4) == 2 || (fld w 0 4) == 4 || (fld w 0 4) == 8)) (fld w 4 6 == 0 && fld w 13 12 == 0) (.part (cv w) (fld w 0 4))
  | 5 => .ok (.cbld (cv w) (fld w 19 6) (fld w 13 6) (fld w 4 6) (fld w 0 4))
  | _ => .err .enc

/-- The words of major 0x13 (R133, R134 to R137). -/
def decHart (w : BitVec 32) : Decoded :=
  match (fld w 10 3).toNat with
  | 0 => .ok (.hspawn (cv w) (fld w 19 6) (fld w 13 6) (fld w 0 10))
  | 1 => pick (true) (fld w 0 10 == 0 && fld w 13 12 == 0) (.hexit (cv w))
  | 2 => pick (true) (fld w 0 10 == 0 && fld w 19 6 == 0) (.hwait (cv w) (fld w 13 6))
  | 3 => pick (true) (fld w 0 10 == 0 && fld w 13 12 == 0) (.yield (cv w))
  | 4 => pick (true) (fld w 0 10 == 0 && fld w 19 6 == 0) (.gang (cv w) (fld w 13 6))
  | 5 => pick (true) (fld w 0 10 == 0 && fld w 13 12 == 0) (.gbar (cv w))
  | 6 => pick (true) (fld w 0 10 == 0) (.lspop (cv w) (fld w 19 6) (fld w 13 6))
  | 7 => pick (true) (fld w 0 10 == 0 && fld w 19 6 == 0) (.lspush (cv w) (fld w 13 6))
  | _ => .err .enc

/-- The words of major 0x22 (R133, R134 to R137). -/
def decVshr (w : BitVec 32) : Decoded :=
  match (fld w 0 2).toNat with
  | 0 => .ok (.vshrL (cv w) (fld w 19 6) (fld w 13 6) (fld w 7 6) (fld w 4 3) (fld w 2 2))
  | 1 => .ok (.vshrA (cv w) (fld w 19 6) (fld w 13 6) (fld w 7 6) (fld w 4 3) (fld w 2 2))
  | 2 => .ok (.vshrAr (cv w) (fld w 19 6) (fld w 13 6) (fld w 7 6) (fld w 4 3) (fld w 2 2))
  | _ => .err .enc

/-- The words of major 0x25 (R133, R134 to R137). -/
def decVun (w : BitVec 32) : Decoded :=
  match (fld w 7 6).toNat with
  | 0 => pick (true) (fld w 0 2 == 0 && fld w 4 3 == 0) (.vabs (cv w) (fld w 19 6) (fld w 13 6) (fld w 2 2))
  | 1 => pick (true) (fld w 0 2 == 0 && fld w 4 3 == 0) (.vneg (cv w) (fld w 19 6) (fld w 13 6) (fld w 2 2))
  | 2 => pick (true) (fld w 0 2 == 0 && fld w 4 3 == 0) (.vnot (cv w) (fld w 19 6) (fld w 13 6) (fld w 2 2))
  | 3 => pick (true) (fld w 0 2 == 0 && fld w 4 3 == 0) (.vsqrt (cv w) (fld w 19 6) (fld w 13 6) (fld w 2 2))
  | 4 => pick (true) (fld w 0 2 == 0 && fld w 4 3 == 0) (.vclz (cv w) (fld w 19 6) (fld w 13 6) (fld w 2 2))
  | 5 => pick (true) (fld w 0 2 == 0 && fld w 4 3 == 0) (.vpopc (cv w) (fld w 19 6) (fld w 13 6) (fld w 2 2))
  | 6 => pick (true) (fld w 0 2 == 0 && fld w 4 3 == 0) (.vmv (cv w) (fld w 19 6) (fld w 13 6) (fld w 2 2))
  | 7 => pick (true) (fld w 0 2 == 0 && fld w 4 3 == 0 && fld w 13 6 == 0) (.viota (cv w) (fld w 19 6) (fld w 2 2))
  | 8 => pick (true) (fld w 0 2 == 0 && fld w 4 3 == 0) (.vcvt (cv w) (fld w 19 6) (fld w 13 6) (fld w 2 2))
  | 9 => pick (true) (fld w 0 2 == 0 && fld w 4 3 == 0) (.vrscale (cv w) (fld w 19 6) (fld w 13 6) (fld w 2 2))
  | _ => .err .enc

/-- The words of major 0x2a (R133, R134 to R137). -/
def decVslide (w : BitVec 32) : Decoded :=
  match (fld w 0 2).toNat with
  | 0 => .ok (.vslideUp (cv w) (fld w 19 6) (fld w 13 6) (fld w 7 6) (fld w 4 3) (fld w 2 2))
  | 1 => .ok (.vslideDn (cv w) (fld w 19 6) (fld w 13 6) (fld w 7 6) (fld w 4 3) (fld w 2 2))
  | _ => .err .enc

/-- The words of major 0x2b (R133, R134 to R137). -/
def decVmsk (w : BitVec 32) : Decoded :=
  match (fld w 4 3).toNat with
  | 0 => pick (true) (fld w 0 4 == 0 && fld w 10 3 == 0 && fld w 16 3 == 0 && fld w 22 3 == 0) (.vmskAnd (cv w) (fld w 19 3) (fld w 13 3) (fld w 7 3))
  | 1 => pick (true) (fld w 0 4 == 0 && fld w 10 3 == 0 && fld w 16 3 == 0 && fld w 22 3 == 0) (.vmskOr (cv w) (fld w 19 3) (fld w 13 3) (fld w 7 3))
  | 2 => pick (true) (fld w 0 4 == 0 && fld w 10 3 == 0 && fld w 16 3 == 0 && fld w 22 3 == 0) (.vmskXor (cv w) (fld w 19 3) (fld w 13 3) (fld w 7 3))
  | 3 => pick (true) (fld w 0 4 == 0 && fld w 10 3 == 0 && fld w 16 3 == 0 && fld w 22 3 == 0) (.vmskAndn (cv w) (fld w 19 3) (fld w 13 3) (fld w 7 3))
  | 4 => pick (true) (fld w 0 4 == 0 && fld w 7 6 == 0 && fld w 16 3 == 0 && fld w 22 3 == 0) (.vmskNot (cv w) (fld w 19 3) (fld w 13 3))
  | 5 => pick (true) (fld w 0 4 == 0 && fld w 10 3 == 0 && fld w 16 3 == 0) (.vmskCount (cv w) (fld w 19 6) (fld w 13 3 ++ fld w 7 3))
  | 6 => pick (true) (fld w 0 4 == 0 && fld w 10 3 == 0 && fld w 16 3 == 0) (.vmskFirst (cv w) (fld w 19 6) (fld w 13 3 ++ fld w 7 3))
  | _ => .err .enc

/-- The words of major 0x2c (R133, R134 to R137). -/
def decVk (w : BitVec 32) : Decoded :=
  match (fld w 0 3).toNat with
  | 0 => .ok (.vaddk (cv w) (fld w 19 6) (fld w 17 2) (fld w 11 6) (fld w 9 2) (fld w 3 6))
  | 1 => .ok (.vsubk (cv w) (fld w 19 6) (fld w 17 2) (fld w 11 6) (fld w 9 2) (fld w 3 6))
  | 2 => .ok (.vmulk (cv w) (fld w 19 6) (fld w 17 2) (fld w 11 6) (fld w 9 2) (fld w 3 6))
  | 3 => .ok (.vfmak (cv w) (fld w 19 6) (fld w 17 2) (fld w 11 6) (fld w 9 2) (fld w 3 6))
  | 4 => .ok (.vmink (cv w) (fld w 19 6) (fld w 17 2) (fld w 11 6) (fld w 9 2) (fld w 3 6))
  | 5 => .ok (.vmaxk (cv w) (fld w 19 6) (fld w 17 2) (fld w 11 6) (fld w 9 2) (fld w 3 6))
  | 6 => .ok (.vselk (cv w) (fld w 19 6) (fld w 17 2) (fld w 11 6) (fld w 9 2) (fld w 3 6))
  | 7 => pick ((fld w 22 3).toNat < 6) (true) (.vcmpk (cv w) (fld w 22 3) (fld w 19 3) (fld w 17 2) (fld w 11 6) (fld w 9 2) (fld w 3 6))
  | _ => .err .enc

/-- The words of major 0x2d (R133, R134 to R137). -/
def decSeg (w : BitVec 32) : Decoded :=
  match (fld w 0 4).toNat with
  | 0 => pick (true) (fld w 4 3 == 0) (.spush (cv w) (fld w 19 6) (fld w 13 6) (fld w 7 6))
  | 1 => pick (true) (fld w 4 3 == 0) (.spop (cv w) (fld w 19 6) (fld w 13 6) (fld w 7 6))
  | 2 => pick (true) (fld w 4 9 == 0) (.sdepth (cv w) (fld w 19 6) (fld w 13 6))
  | 3 => .ok (.sgetl (cv w) (fld w 19 6) (fld w 13 6) (fld w 7 6) (fld w 4 3))
  | 4 => pick (true) (fld w 7 6 == 0) (.vflat (cv w) (fld w 19 6) (fld w 13 6) (fld w 4 3))
  | 5 => pick (true) (fld w 4 3 == 0) (.sopen (cv w) (fld w 19 6) (fld w 13 6) (fld w 7 6))
  | _ => .err .enc

/-- The words of major 0x2e (R133, R134 to R137). -/
def decVred (w : BitVec 32) : Decoded :=
  match (fld w 0 2).toNat with
  | 0 => .ok (.vredAdd (cv w) (fld w 19 6) (fld w 13 6) (fld w 7 6) (fld w 4 3) (fld w 2 2))
  | 1 => .ok (.vredMul (cv w) (fld w 19 6) (fld w 13 6) (fld w 7 6) (fld w 4 3) (fld w 2 2))
  | 2 => .ok (.vredMin (cv w) (fld w 19 6) (fld w 13 6) (fld w 7 6) (fld w 4 3) (fld w 2 2))
  | 3 => .ok (.vredMax (cv w) (fld w 19 6) (fld w 13 6) (fld w 7 6) (fld w 4 3) (fld w 2 2))
  | _ => .err .enc

/-- The words of major 0x2f (R133, R134 to R137). -/
def decVredb (w : BitVec 32) : Decoded :=
  match (fld w 0 2).toNat with
  | 0 => .ok (.vredbAnd (cv w) (fld w 19 6) (fld w 13 6) (fld w 7 6) (fld w 4 3) (fld w 2 2))
  | 1 => .ok (.vredbOr (cv w) (fld w 19 6) (fld w 13 6) (fld w 7 6) (fld w 4 3) (fld w 2 2))
  | 2 => .ok (.vredbXor (cv w) (fld w 19 6) (fld w 13 6) (fld w 7 6) (fld w 4 3) (fld w 2 2))
  | 3 => .ok (.vidxmax (cv w) (fld w 19 6) (fld w 13 6) (fld w 7 6) (fld w 4 3) (fld w 2 2))
  | _ => .err .enc

/-- The words of major 0x30 (R133, R134 to R137). -/
def decVscan (w : BitVec 32) : Decoded :=
  match (fld w 0 2).toNat with
  | 0 => .ok (.vscanAddInc (cv w) (fld w 19 6) (fld w 13 6) (fld w 7 6) (fld w 4 3) (fld w 2 2))
  | 1 => .ok (.vscanAddExc (cv w) (fld w 19 6) (fld w 13 6) (fld w 7 6) (fld w 4 3) (fld w 2 2))
  | 2 => .ok (.vscanMaxInc (cv w) (fld w 19 6) (fld w 13 6) (fld w 7 6) (fld w 4 3) (fld w 2 2))
  | 3 => .ok (.vscanMaxExc (cv w) (fld w 19 6) (fld w 13 6) (fld w 7 6) (fld w 4 3) (fld w 2 2))
  | _ => .err .enc

/-- The words of major 0x33 (R133, R134 to R137). -/
def decVsplit (w : BitVec 32) : Decoded :=
  match (fld w 0 2).toNat with
  | 0 => deepest (fld w 4 3) (fld w 7 6 == 0) (.vsplitMask (cv w) (fld w 19 6) (fld w 13 6) (fld w 2 2))
  | 1 => deepest (fld w 4 3) (fld w 2 2 == 0 && fld w 7 6 == 0) (.vsplitThree (cv w) (fld w 19 6) (fld w 13 6))
  | _ => .err .enc

/-- The words of major 0x34 (R133, R134 to R137). -/
def decVxl (w : BitVec 32) : Decoded :=
  match (fld w 0 2).toNat with
  | 0 => .ok (.vgatherr (cv w) (fld w 19 6) (fld w 13 6) (fld w 7 6) (fld w 4 3) (fld w 2 2))
  | 1 => .ok (.vpushl (cv w) (fld w 19 6) (fld w 13 6) (fld w 7 6) (fld w 4 3) (fld w 2 2))
  | 2 => pick (true) (fld w 4 3 == 0) (.vpermb (cv w) (fld w 19 6) (fld w 13 6) (fld w 7 6) (fld w 2 2))
  | 3 => pick (true) (fld w 7 6 == 0) (.vrev (cv w) (fld w 19 6) (fld w 13 6) (fld w 4 3) (fld w 2 2))
  | _ => .err .enc

/-- The words of major 0x39 (R133, R134 to R137). -/
def decSfu (w : BitVec 32) : Decoded :=
  match (fld w 7 6).toNat with
  | 0 => pick (fld w 1 1 == 0) (fld w 2 5 == 0) (.vexp (cv w) (fld w 19 6) (fld w 13 6) (fld w 0 1))
  | 1 => pick (fld w 0 2 == 0) (fld w 2 5 == 0) (.vln (cv w) (fld w 19 6) (fld w 13 6))
  | 2 => pick (fld w 0 2 == 0) (fld w 2 5 == 0) (.vrcp (cv w) (fld w 19 6) (fld w 13 6))
  | 3 => pick (fld w 0 2 == 0) (fld w 2 5 == 0) (.vrsq (cv w) (fld w 19 6) (fld w 13 6))
  | 4 => pick (fld w 0 2 == 0) (fld w 2 5 == 0) (.vsin (cv w) (fld w 19 6) (fld w 13 6))
  | 5 => pick (fld w 0 2 == 0) (fld w 2 5 == 0) (.vcos (cv w) (fld w 19 6) (fld w 13 6))
  | 6 => pick (fld w 0 2 == 0) (fld w 2 5 == 0) (.vtanh (cv w) (fld w 19 6) (fld w 13 6))
  | 7 => pick (fld w 0 2 == 0) (fld w 2 5 == 0) (.vsigm (cv w) (fld w 19 6) (fld w 13 6))
  | 8 => pick (fld w 0 2 == 0) (fld w 2 5 == 0) (.vrand (cv w) (fld w 19 6) (fld w 13 6))
  | _ => .err .enc

/-- The words of major 0x3c (R133, R134 to R137). -/
def decVamo (w : BitVec 32) : Decoded :=
  match (fld w 6 3).toNat with
  | 0 => pick (scopeOk (fld w 0 3)) (true) (.vamoAdd (cv w) (fld w 19 6) (fld w 15 4) (fld w 9 6) (fld w 5 1) (fld w 4 1) (fld w 3 1) (fld w 0 3))
  | 1 => pick (scopeOk (fld w 0 3)) (true) (.vamoAddsat (cv w) (fld w 19 6) (fld w 15 4) (fld w 9 6) (fld w 5 1) (fld w 4 1) (fld w 3 1) (fld w 0 3))
  | 2 => pick (scopeOk (fld w 0 3)) (true) (.vamoMin (cv w) (fld w 19 6) (fld w 15 4) (fld w 9 6) (fld w 5 1) (fld w 4 1) (fld w 3 1) (fld w 0 3))
  | 3 => pick (scopeOk (fld w 0 3)) (true) (.vamoMax (cv w) (fld w 19 6) (fld w 15 4) (fld w 9 6) (fld w 5 1) (fld w 4 1) (fld w 3 1) (fld w 0 3))
  | 4 => pick (scopeOk (fld w 0 3)) (true) (.vamoAnd (cv w) (fld w 19 6) (fld w 15 4) (fld w 9 6) (fld w 5 1) (fld w 4 1) (fld w 3 1) (fld w 0 3))
  | 5 => pick (scopeOk (fld w 0 3)) (true) (.vamoOr (cv w) (fld w 19 6) (fld w 15 4) (fld w 9 6) (fld w 5 1) (fld w 4 1) (fld w 3 1) (fld w 0 3))
  | 6 => pick (scopeOk (fld w 0 3)) (true) (.vamoXor (cv w) (fld w 19 6) (fld w 15 4) (fld w 9 6) (fld w 5 1) (fld w 4 1) (fld w 3 1) (fld w 0 3))
  | 7 => pick (scopeOk (fld w 0 3)) (true) (.vamoSwap (cv w) (fld w 19 6) (fld w 15 4) (fld w 9 6) (fld w 5 1) (fld w 4 1) (fld w 3 1) (fld w 0 3))
  | _ => .err .enc

/-- The words of major 0x3d (R133, R134 to R137). -/
def decVcw (w : BitVec 32) : Decoded :=
  match (fld w 6 3).toNat with
  | 0 => pick (scopeOk (fld w 0 3)) (fld w 5 1 == 0) (.vcas (cv w) (fld w 19 6) (fld w 15 4) (fld w 9 6) (fld w 4 1) (fld w 3 1) (fld w 0 3))
  | _ => pick (scopeOk (fld w 0 3)) (fld w 3 3 == 0) (.vwait (cv w) (fld w 19 6) (fld w 15 4) (fld w 9 6) (fld w 6 3) (fld w 0 3))

/-- The words of major 0x3e (R133, R134 to R137). -/
def decHblk (w : BitVec 32) : Decoded :=
  match (fld w 0 5).toNat with
  | 0 => pick (true) (fld w 5 2 == 0 && fld w 11 2 == 0) (.hnew (cv w) (fld w 19 6) (fld w 13 6) (fld w 7 4))
  | 1 => pick (true) (fld w 5 2 == 0 && fld w 11 2 == 0 && fld w 19 6 == 0) (.hbind (cv w) (fld w 13 6) (fld w 7 4))
  | 2 => pick (true) (fld w 5 2 == 0 && fld w 11 8 == 0) (.hup (cv w) (fld w 19 6) (fld w 7 4))
  | 3 => pick (true) (fld w 5 2 == 0 && fld w 11 14 == 0) (.hdown (cv w) (fld w 7 4))
  | 4 => pick (true) (fld w 5 2 == 0 && fld w 11 8 == 0) (.hweak (cv w) (fld w 19 6) (fld w 7 4))
  | 5 => pick (true) (fld w 5 2 == 0 && fld w 11 14 == 0) (.hrel (cv w) (fld w 7 4))
  | 6 => pick (true) (fld w 5 2 == 0 && fld w 11 8 == 0) (.hchk (cv w) (fld w 19 6) (fld w 7 4))
  | 7 => pick (true) (fld w 5 2 == 0 && fld w 11 2 == 0) (.hinfo (cv w) (fld w 19 6) (fld w 13 6) (fld w 7 4))
  | 8 => pick (true) (fld w 5 8 == 0) (.balloc (cv w) (fld w 19 6) (fld w 13 6))
  | 9 => pick (true) (fld w 5 2 == 0 && fld w 19 6 == 0) (.bfree (cv w) (fld w 13 6) (fld w 7 6))
  | 10 => pick (true) (fld w 5 2 == 0 && fld w 11 2 == 0 && fld w 17 2 == 0) (.bfork (cv w) (fld w 19 6) (fld w 13 4) (fld w 7 4))
  | 11 => pick (true) (fld w 5 2 == 0 && fld w 11 2 == 0) (.bcow (cv w) (fld w 19 6) (fld w 13 6) (fld w 7 4))
  | 12 => pick (true) (fld w 5 2 == 0 && fld w 23 2 == 0) (.bmap (cv w) (fld w 19 4) (fld w 13 6) (fld w 7 6))
  | 13 => pick (true) (fld w 5 2 == 0 && fld w 11 2 == 0) (.btlen (cv w) (fld w 19 6) (fld w 13 6) (fld w 7 4))
  | 14 => pick (true) (fld w 5 2 == 0 && fld w 11 14 == 0) (.brel (cv w) (fld w 7 4))
  | 15 => pick (true) (fld w 5 2 == 0) (.exbind (cv w) (fld w 19 6) (fld w 13 6) (fld w 11 2) (fld w 7 4))
  | 16 => pick ((fld w 11 2) != 0) (fld w 5 2 == 0) (.expoll (cv w) (fld w 19 6) (fld w 13 6) (fld w 11 2) (fld w 7 4))
  | 17 => pick (true) (fld w 5 2 == 0 && fld w 11 14 == 0) (.exrel (cv w) (fld w 7 4))
  | 18 => pick (true) (fld w 5 2 == 0) (.expin (cv w) (fld w 19 6) (fld w 13 6) (fld w 7 6))
  | 19 => pick (true) (fld w 5 2 == 0) (.exstat (cv w) (fld w 19 6) (fld w 13 6) (fld w 7 6))
  | _ => .err .enc

/-- The words of major 0x3f (R133, R134 to R137). -/
def decXeng (w : BitVec 32) : Decoded :=
  match (fld w 3 2).toNat with
  | 0 => pick ((fld w 0 3).toNat < 4) (true) (.xcopy (cv w) (fld w 21 4) (fld w 17 4) (fld w 11 6) (fld w 5 6) (fld w 0 3))
  | 1 => pick ((fld w 0 3).toNat < 2) (true) (.xpush (cv w) (fld w 21 4) (fld w 17 4) (fld w 11 6) (fld w 5 6) (fld w 0 3))
  | 2 => pick (fld w 0 3 == 0) (fld w 17 4 == 0) (.xfill (cv w) (fld w 21 4) (fld w 11 6) (fld w 5 6))
  | 3 => pick ((fld w 0 3).toNat < 2) (fld w 11 6 == 0 && fld w 21 4 == 0) (.vpref (cv w) (fld w 17 4) (fld w 5 6) (fld w 0 3))
  | _ => .err .enc

/-- The instruction a word stands for, or why it stands for none (R133, R138). -/
def decode (w : BitVec 32) : Decoded :=
  match (fld w 25 6).toNat with
  | 0 => decSys w
  | 1 => decSalu w
  | 2 => .ok (.addi (cv w) (fld w 19 6) (fld w 13 6) (fld w 0 13))
  | 3 => .ok (.andi (cv w) (fld w 19 6) (fld w 13 6) (fld w 0 13))
  | 4 => .ok (.ori (cv w) (fld w 19 6) (fld w 13 6) (fld w 0 13))
  | 5 => .ok (.xori (cv w) (fld w 19 6) (fld w 13 6) (fld w 0 13))
  | 6 => .ok (.slti (cv w) (fld w 19 6) (fld w 13 6) (fld w 0 13))
  | 7 => decShi w
  | 8 => .ok (.ldhi (cv w) (fld w 19 6) (fld w 0 19))
  | 9 => .ok (.addpc (cv w) (fld w 19 6) (fld w 0 19))
  | 10 => decSfp w
  | 11 => pick ((fld w 6 3) != 7) (true) (.sld (cv w) (fld w 19 6) (fld w 15 4) (fld w 9 6) (fld w 6 3) (fld w 0 6))
  | 12 => pick ((fld w 6 3).toNat < 4) (true) (.sst (cv w) (fld w 19 6) (fld w 15 4) (fld w 9 6) (fld w 6 3) (fld w 0 6))
  | 13 => decSamo w
  | 14 => decBra w
  | 15 => .ok (.jal (cv w) (fld w 19 6) (fld w 0 19))
  | 16 => .ok (.jalr (cv w) (fld w 19 6) (fld w 13 6) (fld w 0 13))
  | 17 => pick (true) (fld w 22 3 == 0) (.subbnz (cv w) (fld w 16 6) (fld w 10 6) (fld w 0 10))
  | 18 => decCfg w
  | 19 => decHart w
  | 20 => pick (true) (fld w 0 2 == 0) (.vadd (cv w) (fld w 19 6) (fld w 13 6) (fld w 7 6) (fld w 4 3) (fld w 2 2))
  | 21 => pick (true) (fld w 0 2 == 0) (.vsub (cv w) (fld w 19 6) (fld w 13 6) (fld w 7 6) (fld w 4 3) (fld w 2 2))
  | 22 => pick (true) (fld w 0 2 == 0) (.vmul (cv w) (fld w 19 6) (fld w 13 6) (fld w 7 6) (fld w 4 3) (fld w 2 2))
  | 23 => pick (true) (fld w 0 2 == 0) (.vmulh (cv w) (fld w 19 6) (fld w 13 6) (fld w 7 6) (fld w 4 3) (fld w 2 2))
  | 24 => pick (true) (fld w 0 2 == 0) (.vfma (cv w) (fld w 19 6) (fld w 13 6) (fld w 7 6) (fld w 4 3) (fld w 2 2))
  | 25 => pick (true) (fld w 0 2 == 0) (.vfms (cv w) (fld w 19 6) (fld w 13 6) (fld w 7 6) (fld w 4 3) (fld w 2 2))
  | 26 => pick (true) (fld w 0 2 == 0) (.vdiv (cv w) (fld w 19 6) (fld w 13 6) (fld w 7 6) (fld w 4 3) (fld w 2 2))
  | 27 => pick (true) (fld w 0 2 == 0) (.vrem (cv w) (fld w 19 6) (fld w 13 6) (fld w 7 6) (fld w 4 3) (fld w 2 2))
  | 28 => pick (true) (fld w 0 2 == 0) (.vmin (cv w) (fld w 19 6) (fld w 13 6) (fld w 7 6) (fld w 4 3) (fld w 2 2))
  | 29 => pick (true) (fld w 0 2 == 0) (.vmax (cv w) (fld w 19 6) (fld w 13 6) (fld w 7 6) (fld w 4 3) (fld w 2 2))
  | 30 => pick (true) (fld w 0 2 == 0) (.vand (cv w) (fld w 19 6) (fld w 13 6) (fld w 7 6) (fld w 4 3) (fld w 2 2))
  | 31 => pick (true) (fld w 0 2 == 0) (.vor (cv w) (fld w 19 6) (fld w 13 6) (fld w 7 6) (fld w 4 3) (fld w 2 2))
  | 32 => pick (true) (fld w 0 2 == 0) (.vxor (cv w) (fld w 19 6) (fld w 13 6) (fld w 7 6) (fld w 4 3) (fld w 2 2))
  | 33 => pick (true) (fld w 0 2 == 0) (.vshl (cv w) (fld w 19 6) (fld w 13 6) (fld w 7 6) (fld w 4 3) (fld w 2 2))
  | 34 => decVshr w
  | 35 => pick ((fld w 22 3).toNat < 6) (fld w 0 2 == 0) (.vcmp (cv w) (fld w 22 3) (fld w 19 3) (fld w 13 6) (fld w 7 6) (fld w 4 3) (fld w 2 2))
  | 36 => pick (true) (fld w 0 2 == 0) (.vsel (cv w) (fld w 19 6) (fld w 13 6) (fld w 7 6) (fld w 4 3) (fld w 2 2))
  | 37 => decVun w
  | 38 => pick (true) (fld w 0 2 == 0 && fld w 4 9 == 0) (.vbc (cv w) (fld w 19 6) (fld w 13 6) (fld w 2 2))
  | 39 => pick (true) (fld w 0 2 == 0) (.vadds (cv w) (fld w 19 6) (fld w 13 6) (fld w 7 6) (fld w 4 3) (fld w 2 2))
  | 40 => pick (true) (fld w 0 2 == 0) (.vabsd (cv w) (fld w 19 6) (fld w 13 6) (fld w 7 6) (fld w 4 3) (fld w 2 2))
  | 41 => pick (true) (fld w 0 2 == 0) (.vavg (cv w) (fld w 19 6) (fld w 13 6) (fld w 7 6) (fld w 4 3) (fld w 2 2))
  | 42 => decVslide w
  | 43 => decVmsk w
  | 44 => decVk w
  | 45 => decSeg w
  | 46 => decVred w
  | 47 => decVredb w
  | 48 => decVscan w
  | 49 => pick (true) (fld w 0 2 == 0 && fld w 4 9 == 0) (.vpack (cv w) (fld w 19 6) (fld w 13 6) (fld w 2 2))
  | 50 => pick (true) (fld w 0 2 == 0) (.vdist (cv w) (fld w 19 6) (fld w 13 6) (fld w 7 6) (fld w 4 3) (fld w 2 2))
  | 51 => decVsplit w
  | 52 => decVxl w
  | 53 => pick (true) (fld w 0 2 == 0) (.vmergek (cv w) (fld w 19 6) (fld w 13 6) (fld w 7 6) (fld w 4 3) (fld w 2 2))
  | 54 => pick (true) (fld w 0 2 == 0 && fld w 4 3 == 0 && fld w 10 3 == 0) (.vconfl (cv w) (fld w 19 6) (fld w 13 6) (fld w 7 3) (fld w 2 2))
  | 55 => pick (true) (fld w 0 2 == 0) (.mmac (cv w) (fld w 19 6) (fld w 13 6) (fld w 7 6) (fld w 4 3) (fld w 2 2))
  | 56 => pick (true) (fld w 0 2 == 0) (.vpmul (cv w) (fld w 19 6) (fld w 13 6) (fld w 7 6) (fld w 4 3) (fld w 2 2))
  | 57 => decSfu w
  | 58 => pick ((fld w 0 3).toNat < 6) ((modeUsesX (fld w 0 3) || (fld w 3 6) == 0)) (.vld (cv w) (fld w 19 6) (fld w 15 4) (fld w 9 6) (fld w 3 6) (fld w 0 3))
  | 59 => pick ((fld w 0 3).toNat < 5) ((modeUsesX (fld w 0 3) || (fld w 3 6) == 0)) (.vst (cv w) (fld w 19 6) (fld w 15 4) (fld w 9 6) (fld w 3 6) (fld w 0 3))
  | 60 => decVamo w
  | 61 => decVcw w
  | 62 => decHblk w
  | 63 => decXeng w
  | _ => .err .enc

/-- The word in the first four bytes, little-endian (R123), and the instruction it stands for. -/
def decodeBytes : List (BitVec 8) → Decoded
  | b0 :: b1 :: b2 :: b3 :: _ => decode (b3 ++ b2 ++ b1 ++ b0)
  | _ => .err .short

/-- The word of an instruction, CV first, each field where its format puts it (R124); an event row has no word and
is given the word zero, which is no instruction (R134). -/
def encode : Instr → BitVec 32
  | .ecall c => BitVec.ofBool c ++ 256#31
  | .ebreak c => BitVec.ofBool c ++ 512#31
  | .uret c => BitVec.ofBool c ++ 768#31
  | .sret c => BitVec.ofBool c ++ 1024#31
  | .fenceSv c s => BitVec.ofBool c ++ 160#28 ++ s
  | .fenceVs c s => BitVec.ofBool c ++ 192#28 ++ s
  | .fenceVv c s => BitVec.ofBool c ++ 224#28 ++ s
  | .fenceAll c s => BitVec.ofBool c ++ 256#28 ++ s
  | .rdsr c d r => BitVec.ofBool c ++ 0#6 ++ d ++ 9#11 ++ r
  | .wrsr c a r => BitVec.ofBool c ++ 0#12 ++ a ++ 10#5 ++ r
  | .setsr c d a r => BitVec.ofBool c ++ 0#6 ++ d ++ a ++ 11#5 ++ r
  | .clrsr c d a r => BitVec.ofBool c ++ 0#6 ++ d ++ a ++ 12#5 ++ r
  | .tlbinv c d a k => BitVec.ofBool c ++ 0#6 ++ d ++ a ++ 832#11 ++ k
  | .htinv c d a k => BitVec.ofBool c ++ 0#6 ++ d ++ a ++ 1792#12 ++ k
  | .vfsave c a h => BitVec.ofBool c ++ 0#12 ++ a ++ 240#9 ++ h
  | .vfrestore c a h => BitVec.ofBool c ++ 0#12 ++ a ++ 256#9 ++ h
  | .wfi c => BitVec.ofBool c ++ 4352#31
  | .add c d a b => BitVec.ofBool c ++ 1#6 ++ d ++ a ++ b ++ 0#7
  | .sub c d a b => BitVec.ofBool c ++ 1#6 ++ d ++ a ++ b ++ 1#7
  | .and c d a b => BitVec.ofBool c ++ 1#6 ++ d ++ a ++ b ++ 2#7
  | .or c d a b => BitVec.ofBool c ++ 1#6 ++ d ++ a ++ b ++ 3#7
  | .xor c d a b => BitVec.ofBool c ++ 1#6 ++ d ++ a ++ b ++ 4#7
  | .sll c d a b => BitVec.ofBool c ++ 1#6 ++ d ++ a ++ b ++ 5#7
  | .srl c d a b => BitVec.ofBool c ++ 1#6 ++ d ++ a ++ b ++ 6#7
  | .sra c d a b => BitVec.ofBool c ++ 1#6 ++ d ++ a ++ b ++ 7#7
  | .slt c d a b => BitVec.ofBool c ++ 1#6 ++ d ++ a ++ b ++ 8#7
  | .sltu c d a b => BitVec.ofBool c ++ 1#6 ++ d ++ a ++ b ++ 9#7
  | .min c d a b => BitVec.ofBool c ++ 1#6 ++ d ++ a ++ b ++ 10#7
  | .max c d a b => BitVec.ofBool c ++ 1#6 ++ d ++ a ++ b ++ 11#7
  | .minu c d a b => BitVec.ofBool c ++ 1#6 ++ d ++ a ++ b ++ 12#7
  | .maxu c d a b => BitVec.ofBool c ++ 1#6 ++ d ++ a ++ b ++ 13#7
  | .mul c d a b => BitVec.ofBool c ++ 1#6 ++ d ++ a ++ b ++ 14#7
  | .mulh c d a b => BitVec.ofBool c ++ 1#6 ++ d ++ a ++ b ++ 15#7
  | .mulhu c d a b => BitVec.ofBool c ++ 1#6 ++ d ++ a ++ b ++ 16#7
  | .div c d a b => BitVec.ofBool c ++ 1#6 ++ d ++ a ++ b ++ 17#7
  | .divu c d a b => BitVec.ofBool c ++ 1#6 ++ d ++ a ++ b ++ 18#7
  | .rem c d a b => BitVec.ofBool c ++ 1#6 ++ d ++ a ++ b ++ 19#7
  | .remu c d a b => BitVec.ofBool c ++ 1#6 ++ d ++ a ++ b ++ 20#7
  | .clz c d a => BitVec.ofBool c ++ 1#6 ++ d ++ a ++ 21#13
  | .ctz c d a => BitVec.ofBool c ++ 1#6 ++ d ++ a ++ 22#13
  | .popc c d a => BitVec.ofBool c ++ 1#6 ++ d ++ a ++ 23#13
  | .sext c d a w => BitVec.ofBool c ++ 1#6 ++ d ++ a ++ 0#4 ++ w ++ 24#7
  | .zext c d a w => BitVec.ofBool c ++ 1#6 ++ d ++ a ++ 0#4 ++ w ++ 25#7
  | .addi c d a i => BitVec.ofBool c ++ 2#6 ++ d ++ a ++ i
  | .andi c d a i => BitVec.ofBool c ++ 3#6 ++ d ++ a ++ i
  | .ori c d a i => BitVec.ofBool c ++ 4#6 ++ d ++ a ++ i
  | .xori c d a i => BitVec.ofBool c ++ 5#6 ++ d ++ a ++ i
  | .slti c d a i => BitVec.ofBool c ++ 6#6 ++ d ++ a ++ i
  | .slli c d a n => BitVec.ofBool c ++ 7#6 ++ d ++ a ++ 0#7 ++ n
  | .srli c d a n => BitVec.ofBool c ++ 7#6 ++ d ++ a ++ 32#7 ++ n
  | .srai c d a n => BitVec.ofBool c ++ 7#6 ++ d ++ a ++ 64#7 ++ n
  | .ldhi c d i => BitVec.ofBool c ++ 8#6 ++ d ++ i
  | .addpc c d i => BitVec.ofBool c ++ 9#6 ++ d ++ i
  | .sfaddF32 c d a b => BitVec.ofBool c ++ 10#6 ++ d ++ a ++ b ++ 0#7
  | .sfaddF64 c d a b => BitVec.ofBool c ++ 10#6 ++ d ++ a ++ b ++ 16#7
  | .sfsubF32 c d a b => BitVec.ofBool c ++ 10#6 ++ d ++ a ++ b ++ 1#7
  | .sfsubF64 c d a b => BitVec.ofBool c ++ 10#6 ++ d ++ a ++ b ++ 17#7
  | .sfmulF32 c d a b => BitVec.ofBool c ++ 10#6 ++ d ++ a ++ b ++ 2#7
  | .sfmulF64 c d a b => BitVec.ofBool c ++ 10#6 ++ d ++ a ++ b ++ 18#7
  | .sfdivF32 c d a b => BitVec.ofBool c ++ 10#6 ++ d ++ a ++ b ++ 3#7
  | .sfdivF64 c d a b => BitVec.ofBool c ++ 10#6 ++ d ++ a ++ b ++ 19#7
  | .sfmaF32 c d a b => BitVec.ofBool c ++ 10#6 ++ d ++ a ++ b ++ 4#7
  | .sfmaF64 c d a b => BitVec.ofBool c ++ 10#6 ++ d ++ a ++ b ++ 20#7
  | .sfsqrtF32 c d a => BitVec.ofBool c ++ 10#6 ++ d ++ a ++ 5#13
  | .sfsqrtF64 c d a => BitVec.ofBool c ++ 10#6 ++ d ++ a ++ 21#13
  | .sfminF32 c d a b => BitVec.ofBool c ++ 10#6 ++ d ++ a ++ b ++ 6#7
  | .sfminF64 c d a b => BitVec.ofBool c ++ 10#6 ++ d ++ a ++ b ++ 22#7
  | .sfmaxF32 c d a b => BitVec.ofBool c ++ 10#6 ++ d ++ a ++ b ++ 7#7
  | .sfmaxF64 c d a b => BitVec.ofBool c ++ 10#6 ++ d ++ a ++ b ++ 23#7
  | .sfcmpF32 c d a b o => BitVec.ofBool c ++ 10#6 ++ d ++ a ++ b ++ o ++ 8#5
  | .sfcmpF64 c d a b o => BitVec.ofBool c ++ 10#6 ++ d ++ a ++ b ++ o ++ 24#5
  | .sfcvtF32 c d a o => BitVec.ofBool c ++ 10#6 ++ d ++ a ++ 0#6 ++ o ++ 9#5
  | .sfcvtF64 c d a o => BitVec.ofBool c ++ 10#6 ++ d ++ a ++ 0#6 ++ o ++ 25#5
  | .sfmvF32 c d a => BitVec.ofBool c ++ 10#6 ++ d ++ a ++ 10#13
  | .sfmvF64 c d a => BitVec.ofBool c ++ 10#6 ++ d ++ a ++ 26#13
  | .sld c d h a w i => BitVec.ofBool c ++ 11#6 ++ d ++ h ++ a ++ w ++ i
  | .sst c d h a w i => BitVec.ofBool c ++ 12#6 ++ d ++ h ++ a ++ w ++ i
  | .samoAdd c d h i w q r s => BitVec.ofBool c ++ 13#6 ++ d ++ h ++ i ++ 0#3 ++ w ++ q ++ r ++ s
  | .samoAddsat c d h i w q r s => BitVec.ofBool c ++ 13#6 ++ d ++ h ++ i ++ 1#3 ++ w ++ q ++ r ++ s
  | .samoMin c d h i w q r s => BitVec.ofBool c ++ 13#6 ++ d ++ h ++ i ++ 2#3 ++ w ++ q ++ r ++ s
  | .samoMax c d h i w q r s => BitVec.ofBool c ++ 13#6 ++ d ++ h ++ i ++ 3#3 ++ w ++ q ++ r ++ s
  | .samoAnd c d h i w q r s => BitVec.ofBool c ++ 13#6 ++ d ++ h ++ i ++ 4#3 ++ w ++ q ++ r ++ s
  | .samoOr c d h i w q r s => BitVec.ofBool c ++ 13#6 ++ d ++ h ++ i ++ 5#3 ++ w ++ q ++ r ++ s
  | .samoXor c d h i w q r s => BitVec.ofBool c ++ 13#6 ++ d ++ h ++ i ++ 6#3 ++ w ++ q ++ r ++ s
  | .samoSwap c d h i w q r s => BitVec.ofBool c ++ 13#6 ++ d ++ h ++ i ++ 7#3 ++ w ++ q ++ r ++ s
  | .beq c a b o => BitVec.ofBool c ++ 112#9 ++ a ++ b ++ o
  | .bne c a b o => BitVec.ofBool c ++ 113#9 ++ a ++ b ++ o
  | .blt c a b o => BitVec.ofBool c ++ 114#9 ++ a ++ b ++ o
  | .bge c a b o => BitVec.ofBool c ++ 115#9 ++ a ++ b ++ o
  | .bltu c a b o => BitVec.ofBool c ++ 116#9 ++ a ++ b ++ o
  | .bgeu c a b o => BitVec.ofBool c ++ 117#9 ++ a ++ b ++ o
  | .jal c d i => BitVec.ofBool c ++ 15#6 ++ d ++ i
  | .jalr c d a i => BitVec.ofBool c ++ 16#6 ++ d ++ a ++ i
  | .subbnz c a b o => BitVec.ofBool c ++ 136#9 ++ a ++ b ++ o
  | .vcfg c n t => BitVec.ofBool c ++ 589824#21 ++ n ++ t
  | .vtag c d t => BitVec.ofBool c ++ 18#6 ++ d ++ 4#11 ++ t
  | .vsetvl c d a b => BitVec.ofBool c ++ 18#6 ++ d ++ a ++ 32#7 ++ b
  | .vsetvlg c d a b => BitVec.ofBool c ++ 18#6 ++ d ++ a ++ 48#7 ++ b
  | .part c n => BitVec.ofBool c ++ 37748992#27 ++ n
  | .cbld c d a k h => BitVec.ofBool c ++ 18#6 ++ d ++ a ++ 5#3 ++ k ++ h
  | .hspawn c d a o => BitVec.ofBool c ++ 19#6 ++ d ++ a ++ 0#3 ++ o
  | .hexit c => BitVec.ofBool c ++ 637535232#31
  | .hwait c a => BitVec.ofBool c ++ 1216#12 ++ a ++ 2048#13
  | .yield c => BitVec.ofBool c ++ 637537280#31
  | .gang c a => BitVec.ofBool c ++ 1216#12 ++ a ++ 4096#13
  | .gbar c => BitVec.ofBool c ++ 637539328#31
  | .lspop c d a => BitVec.ofBool c ++ 19#6 ++ d ++ a ++ 6144#13
  | .lspush c a => BitVec.ofBool c ++ 1216#12 ++ a ++ 7168#13
  | .vadd c d a b e m => BitVec.ofBool c ++ 20#6 ++ d ++ a ++ b ++ e ++ m ++ 0#2
  | .vsub c d a b e m => BitVec.ofBool c ++ 21#6 ++ d ++ a ++ b ++ e ++ m ++ 0#2
  | .vmul c d a b e m => BitVec.ofBool c ++ 22#6 ++ d ++ a ++ b ++ e ++ m ++ 0#2
  | .vmulh c d a b e m => BitVec.ofBool c ++ 23#6 ++ d ++ a ++ b ++ e ++ m ++ 0#2
  | .vfma c d a b e m => BitVec.ofBool c ++ 24#6 ++ d ++ a ++ b ++ e ++ m ++ 0#2
  | .vfms c d a b e m => BitVec.ofBool c ++ 25#6 ++ d ++ a ++ b ++ e ++ m ++ 0#2
  | .vdiv c d a b e m => BitVec.ofBool c ++ 26#6 ++ d ++ a ++ b ++ e ++ m ++ 0#2
  | .vrem c d a b e m => BitVec.ofBool c ++ 27#6 ++ d ++ a ++ b ++ e ++ m ++ 0#2
  | .vmin c d a b e m => BitVec.ofBool c ++ 28#6 ++ d ++ a ++ b ++ e ++ m ++ 0#2
  | .vmax c d a b e m => BitVec.ofBool c ++ 29#6 ++ d ++ a ++ b ++ e ++ m ++ 0#2
  | .vand c d a b e m => BitVec.ofBool c ++ 30#6 ++ d ++ a ++ b ++ e ++ m ++ 0#2
  | .vor c d a b e m => BitVec.ofBool c ++ 31#6 ++ d ++ a ++ b ++ e ++ m ++ 0#2
  | .vxor c d a b e m => BitVec.ofBool c ++ 32#6 ++ d ++ a ++ b ++ e ++ m ++ 0#2
  | .vshl c d a b e m => BitVec.ofBool c ++ 33#6 ++ d ++ a ++ b ++ e ++ m ++ 0#2
  | .vshrL c d a b e m => BitVec.ofBool c ++ 34#6 ++ d ++ a ++ b ++ e ++ m ++ 0#2
  | .vshrA c d a b e m => BitVec.ofBool c ++ 34#6 ++ d ++ a ++ b ++ e ++ m ++ 1#2
  | .vshrAr c d a b e m => BitVec.ofBool c ++ 34#6 ++ d ++ a ++ b ++ e ++ m ++ 2#2
  | .vcmp c o d a b e m => BitVec.ofBool c ++ 35#6 ++ o ++ d ++ a ++ b ++ e ++ m ++ 0#2
  | .vsel c d a b e m => BitVec.ofBool c ++ 36#6 ++ d ++ a ++ b ++ e ++ m ++ 0#2
  | .vabs c d a m => BitVec.ofBool c ++ 37#6 ++ d ++ a ++ 0#9 ++ m ++ 0#2
  | .vneg c d a m => BitVec.ofBool c ++ 37#6 ++ d ++ a ++ 8#9 ++ m ++ 0#2
  | .vnot c d a m => BitVec.ofBool c ++ 37#6 ++ d ++ a ++ 16#9 ++ m ++ 0#2
  | .vsqrt c d a m => BitVec.ofBool c ++ 37#6 ++ d ++ a ++ 24#9 ++ m ++ 0#2
  | .vclz c d a m => BitVec.ofBool c ++ 37#6 ++ d ++ a ++ 32#9 ++ m ++ 0#2
  | .vpopc c d a m => BitVec.ofBool c ++ 37#6 ++ d ++ a ++ 40#9 ++ m ++ 0#2
  | .vmv c d a m => BitVec.ofBool c ++ 37#6 ++ d ++ a ++ 48#9 ++ m ++ 0#2
  | .viota c d m => BitVec.ofBool c ++ 37#6 ++ d ++ 56#15 ++ m ++ 0#2
  | .vcvt c d a m => BitVec.ofBool c ++ 37#6 ++ d ++ a ++ 64#9 ++ m ++ 0#2
  | .vrscale c d a m => BitVec.ofBool c ++ 37#6 ++ d ++ a ++ 72#9 ++ m ++ 0#2
  | .vbc c d a m => BitVec.ofBool c ++ 38#6 ++ d ++ a ++ 0#9 ++ m ++ 0#2
  | .vadds c d a b e m => BitVec.ofBool c ++ 39#6 ++ d ++ a ++ b ++ e ++ m ++ 0#2
  | .vabsd c d a b e m => BitVec.ofBool c ++ 40#6 ++ d ++ a ++ b ++ e ++ m ++ 0#2
  | .vavg c d a b e m => BitVec.ofBool c ++ 41#6 ++ d ++ a ++ b ++ e ++ m ++ 0#2
  | .vslideUp c d a b e m => BitVec.ofBool c ++ 42#6 ++ d ++ a ++ b ++ e ++ m ++ 0#2
  | .vslideDn c d a b e m => BitVec.ofBool c ++ 42#6 ++ d ++ a ++ b ++ e ++ m ++ 1#2
  | .vmskAnd c d a b => BitVec.ofBool c ++ 344#9 ++ d ++ 0#3 ++ a ++ 0#3 ++ b ++ 0#7
  | .vmskOr c d a b => BitVec.ofBool c ++ 344#9 ++ d ++ 0#3 ++ a ++ 0#3 ++ b ++ 16#7
  | .vmskXor c d a b => BitVec.ofBool c ++ 344#9 ++ d ++ 0#3 ++ a ++ 0#3 ++ b ++ 32#7
  | .vmskAndn c d a b => BitVec.ofBool c ++ 344#9 ++ d ++ 0#3 ++ a ++ 0#3 ++ b ++ 48#7
  | .vmskNot c d a => BitVec.ofBool c ++ 344#9 ++ d ++ 0#3 ++ a ++ 64#13
  | .vmskCount c d a => BitVec.ofBool c ++ 43#6 ++ d ++ 0#3 ++ a.extractLsb' 3 3 ++ 0#3 ++ a.extractLsb' 0 3 ++ 80#7
  | .vmskFirst c d a => BitVec.ofBool c ++ 43#6 ++ d ++ 0#3 ++ a.extractLsb' 3 3 ++ 0#3 ++ a.extractLsb' 0 3 ++ 96#7
  | .vaddk c d p a q b => BitVec.ofBool c ++ 44#6 ++ d ++ p ++ a ++ q ++ b ++ 0#3
  | .vsubk c d p a q b => BitVec.ofBool c ++ 44#6 ++ d ++ p ++ a ++ q ++ b ++ 1#3
  | .vmulk c d p a q b => BitVec.ofBool c ++ 44#6 ++ d ++ p ++ a ++ q ++ b ++ 2#3
  | .vfmak c d p a q b => BitVec.ofBool c ++ 44#6 ++ d ++ p ++ a ++ q ++ b ++ 3#3
  | .vmink c d p a q b => BitVec.ofBool c ++ 44#6 ++ d ++ p ++ a ++ q ++ b ++ 4#3
  | .vmaxk c d p a q b => BitVec.ofBool c ++ 44#6 ++ d ++ p ++ a ++ q ++ b ++ 5#3
  | .vselk c d p a q b => BitVec.ofBool c ++ 44#6 ++ d ++ p ++ a ++ q ++ b ++ 6#3
  | .vcmpk c o d p a q b => BitVec.ofBool c ++ 44#6 ++ o ++ d ++ p ++ a ++ q ++ b ++ 7#3
  | .spush c d a b => BitVec.ofBool c ++ 45#6 ++ d ++ a ++ b ++ 0#7
  | .spop c d a b => BitVec.ofBool c ++ 45#6 ++ d ++ a ++ b ++ 1#7
  | .sdepth c d a => BitVec.ofBool c ++ 45#6 ++ d ++ a ++ 2#13
  | .sgetl c d a b e => BitVec.ofBool c ++ 45#6 ++ d ++ a ++ b ++ e ++ 3#4
  | .vflat c d a e => BitVec.ofBool c ++ 45#6 ++ d ++ a ++ 0#6 ++ e ++ 4#4
  | .sopen c d a b => BitVec.ofBool c ++ 45#6 ++ d ++ a ++ b ++ 5#7
  | .vredAdd c d a b e m => BitVec.ofBool c ++ 46#6 ++ d ++ a ++ b ++ e ++ m ++ 0#2
  | .vredMul c d a b e m => BitVec.ofBool c ++ 46#6 ++ d ++ a ++ b ++ e ++ m ++ 1#2
  | .vredMin c d a b e m => BitVec.ofBool c ++ 46#6 ++ d ++ a ++ b ++ e ++ m ++ 2#2
  | .vredMax c d a b e m => BitVec.ofBool c ++ 46#6 ++ d ++ a ++ b ++ e ++ m ++ 3#2
  | .vredbAnd c d a b e m => BitVec.ofBool c ++ 47#6 ++ d ++ a ++ b ++ e ++ m ++ 0#2
  | .vredbOr c d a b e m => BitVec.ofBool c ++ 47#6 ++ d ++ a ++ b ++ e ++ m ++ 1#2
  | .vredbXor c d a b e m => BitVec.ofBool c ++ 47#6 ++ d ++ a ++ b ++ e ++ m ++ 2#2
  | .vidxmax c d a b e m => BitVec.ofBool c ++ 47#6 ++ d ++ a ++ b ++ e ++ m ++ 3#2
  | .vscanAddInc c d a b e m => BitVec.ofBool c ++ 48#6 ++ d ++ a ++ b ++ e ++ m ++ 0#2
  | .vscanAddExc c d a b e m => BitVec.ofBool c ++ 48#6 ++ d ++ a ++ b ++ e ++ m ++ 1#2
  | .vscanMaxInc c d a b e m => BitVec.ofBool c ++ 48#6 ++ d ++ a ++ b ++ e ++ m ++ 2#2
  | .vscanMaxExc c d a b e m => BitVec.ofBool c ++ 48#6 ++ d ++ a ++ b ++ e ++ m ++ 3#2
  | .vpack c d a m => BitVec.ofBool c ++ 49#6 ++ d ++ a ++ 0#9 ++ m ++ 0#2
  | .vdist c d a b e m => BitVec.ofBool c ++ 50#6 ++ d ++ a ++ b ++ e ++ m ++ 0#2
  | .vsplitMask c d a m => BitVec.ofBool c ++ 51#6 ++ d ++ a ++ 7#9 ++ m ++ 0#2
  | .vsplitThree c d a => BitVec.ofBool c ++ 51#6 ++ d ++ a ++ 113#13
  | .vgatherr c d a b e m => BitVec.ofBool c ++ 52#6 ++ d ++ a ++ b ++ e ++ m ++ 0#2
  | .vpushl c d a b e m => BitVec.ofBool c ++ 52#6 ++ d ++ a ++ b ++ e ++ m ++ 1#2
  | .vpermb c d a b m => BitVec.ofBool c ++ 52#6 ++ d ++ a ++ b ++ 0#3 ++ m ++ 2#2
  | .vrev c d a e m => BitVec.ofBool c ++ 52#6 ++ d ++ a ++ 0#6 ++ e ++ m ++ 3#2
  | .vmergek c d a b e m => BitVec.ofBool c ++ 53#6 ++ d ++ a ++ b ++ e ++ m ++ 0#2
  | .vconfl c d a g m => BitVec.ofBool c ++ 54#6 ++ d ++ a ++ 0#3 ++ g ++ 0#3 ++ m ++ 0#2
  | .mmac c d a b e m => BitVec.ofBool c ++ 55#6 ++ d ++ a ++ b ++ e ++ m ++ 0#2
  | .vpmul c d a b e m => BitVec.ofBool c ++ 56#6 ++ d ++ a ++ b ++ e ++ m ++ 0#2
  | .vexp c d a v => BitVec.ofBool c ++ 57#6 ++ d ++ a ++ 0#12 ++ v
  | .vln c d a => BitVec.ofBool c ++ 57#6 ++ d ++ a ++ 128#13
  | .vrcp c d a => BitVec.ofBool c ++ 57#6 ++ d ++ a ++ 256#13
  | .vrsq c d a => BitVec.ofBool c ++ 57#6 ++ d ++ a ++ 384#13
  | .vsin c d a => BitVec.ofBool c ++ 57#6 ++ d ++ a ++ 512#13
  | .vcos c d a => BitVec.ofBool c ++ 57#6 ++ d ++ a ++ 640#13
  | .vtanh c d a => BitVec.ofBool c ++ 57#6 ++ d ++ a ++ 768#13
  | .vsigm c d a => BitVec.ofBool c ++ 57#6 ++ d ++ a ++ 896#13
  | .vrand c d a => BitVec.ofBool c ++ 57#6 ++ d ++ a ++ 1024#13
  | .vld c d h a x o => BitVec.ofBool c ++ 58#6 ++ d ++ h ++ a ++ x ++ o
  | .vst c d h a x o => BitVec.ofBool c ++ 59#6 ++ d ++ h ++ a ++ x ++ o
  | .vamoAdd c d h i o q r s => BitVec.ofBool c ++ 60#6 ++ d ++ h ++ i ++ 0#3 ++ o ++ q ++ r ++ s
  | .vamoAddsat c d h i o q r s => BitVec.ofBool c ++ 60#6 ++ d ++ h ++ i ++ 1#3 ++ o ++ q ++ r ++ s
  | .vamoMin c d h i o q r s => BitVec.ofBool c ++ 60#6 ++ d ++ h ++ i ++ 2#3 ++ o ++ q ++ r ++ s
  | .vamoMax c d h i o q r s => BitVec.ofBool c ++ 60#6 ++ d ++ h ++ i ++ 3#3 ++ o ++ q ++ r ++ s
  | .vamoAnd c d h i o q r s => BitVec.ofBool c ++ 60#6 ++ d ++ h ++ i ++ 4#3 ++ o ++ q ++ r ++ s
  | .vamoOr c d h i o q r s => BitVec.ofBool c ++ 60#6 ++ d ++ h ++ i ++ 5#3 ++ o ++ q ++ r ++ s
  | .vamoXor c d h i o q r s => BitVec.ofBool c ++ 60#6 ++ d ++ h ++ i ++ 6#3 ++ o ++ q ++ r ++ s
  | .vamoSwap c d h i o q r s => BitVec.ofBool c ++ 60#6 ++ d ++ h ++ i ++ 7#3 ++ o ++ q ++ r ++ s
  | .vcas c d h i q r s => BitVec.ofBool c ++ 61#6 ++ d ++ h ++ i ++ 0#4 ++ q ++ r ++ s
  | .vwait c d h i o s => BitVec.ofBool c ++ 61#6 ++ d ++ h ++ i ++ o ++ 0#3 ++ s
  | .hnew c d a h => BitVec.ofBool c ++ 62#6 ++ d ++ a ++ 0#2 ++ h ++ 0#7
  | .hbind c a h => BitVec.ofBool c ++ 3968#12 ++ a ++ 0#2 ++ h ++ 1#7
  | .hup c d h => BitVec.ofBool c ++ 62#6 ++ d ++ 0#8 ++ h ++ 2#7
  | .hdown c h => BitVec.ofBool c ++ 1015808#20 ++ h ++ 3#7
  | .hweak c d h => BitVec.ofBool c ++ 62#6 ++ d ++ 0#8 ++ h ++ 4#7
  | .hrel c h => BitVec.ofBool c ++ 1015808#20 ++ h ++ 5#7
  | .hchk c d h => BitVec.ofBool c ++ 62#6 ++ d ++ 0#8 ++ h ++ 6#7
  | .hinfo c d a h => BitVec.ofBool c ++ 62#6 ++ d ++ a ++ 0#2 ++ h ++ 7#7
  | .balloc c d a => BitVec.ofBool c ++ 62#6 ++ d ++ a ++ 8#13
  | .bfree c a b => BitVec.ofBool c ++ 3968#12 ++ a ++ b ++ 9#7
  | .bfork c d h g => BitVec.ofBool c ++ 62#6 ++ d ++ 0#2 ++ h ++ 0#2 ++ g ++ 10#7
  | .bcow c d a h => BitVec.ofBool c ++ 62#6 ++ d ++ a ++ 0#2 ++ h ++ 11#7
  | .bmap c h a b => BitVec.ofBool c ++ 248#8 ++ h ++ a ++ b ++ 12#7
  | .btlen c d a h => BitVec.ofBool c ++ 62#6 ++ d ++ a ++ 0#2 ++ h ++ 13#7
  | .brel c h => BitVec.ofBool c ++ 1015808#20 ++ h ++ 14#7
  | .exbind c d a m h => BitVec.ofBool c ++ 62#6 ++ d ++ a ++ m ++ h ++ 15#7
  | .expoll c d a m h => BitVec.ofBool c ++ 62#6 ++ d ++ a ++ m ++ h ++ 16#7
  | .exrel c h => BitVec.ofBool c ++ 1015808#20 ++ h ++ 17#7
  | .expin c d a b => BitVec.ofBool c ++ 62#6 ++ d ++ a ++ b ++ 18#7
  | .exstat c d a b => BitVec.ofBool c ++ 62#6 ++ d ++ a ++ b ++ 19#7
  | .xcopy c h g d a v => BitVec.ofBool c ++ 63#6 ++ h ++ g ++ d ++ a ++ 0#2 ++ v
  | .xpush c h g d a v => BitVec.ofBool c ++ 63#6 ++ h ++ g ++ d ++ a ++ 1#2 ++ v
  | .xfill c h d a => BitVec.ofBool c ++ 63#6 ++ h ++ 0#4 ++ d ++ a ++ 16#5
  | .vpref c g a v => BitVec.ofBool c ++ 1008#10 ++ g ++ 0#6 ++ a ++ 3#2 ++ v
  | .imageKeepClear _ => 0
  | .standbySwitch _ => 0
  | .quantumExpiry _ => 0
  | .vsetvlgWake _ => 0
  | .vsetvlgTimeout _ => 0
  | .vwaitWake _ => 0
  | .hwaitWake _ => 0
  | .wfiWake _ => 0
  | .interruptTaken _ => 0
  | .userTrap _ _ _ => 0
  | .trapToSupervisor _ _ _ => 0
  | .machineCheck _ _ _ _ => 0
  | .preemptToSaved _ => 0
  | .partcfgResume _ => 0
  | .endSaved _ => 0
  | .powerWindow _ _ => 0
  | .laneClockGate _ _ => 0
  | .lanePowerGate _ _ => 0
  | .heapInsert _ _ _ _ => 0
  | .heapCancel _ _ => 0
  | .heapRetire _ _ => 0
  | .requestEligible _ _ => 0
  | .hostMessage _ _ => 0
  | .pageInAllocate _ => 0
  | .pageInLand _ => 0
  | .tierReadFail _ => 0
  | .reclaimDestroy _ _ => 0
  | .engineTransferComplete _ _ => 0
  | .dataFlit .. => 0
  | .flagFlit .. => 0
  | .ackFlit _ _ => 0
  | .nakFlit _ _ => 0
  | .permitGrantFlit _ _ => 0
  | .permitReturnFlit _ _ => 0
  | .refusalFlit _ _ => 0
  | .resetFlit _ _ => 0
  | .permitWindow _ => 0
  | .portDown _ => 0
  | .peerUnreachable _ _ => 0
  | .hostMemAccess _ _ _ _ => 0
  | .hostTierAccess _ _ _ _ => 0
  | .accessTableWrite _ _ _ _ => 0
  | .hostRegisterWrite _ _ _ _ => 0
  | .quiesce _ => 0
  | .partitionResume _ => 0
  | .partitionReset _ => 0
  | .partitionLoad _ => 0
  | .repairLane _ _ _ => 0
  | .repairCluster _ _ => 0
  | .powerOff _ => 0
  | .loadImage => 0
  | .commitSecurityVersion => 0
  | .attest => 0
  | .railRaise _ => 0
  | .perstRelease => 0
  | .railOutOfRange _ => 0
  | .dramScrub _ => 0
  | .llcScrub _ => 0
  | .thermalThrottle _ => 0
  | .thermalRecover _ => 0
  | .thermtrip => 0
  | .railRemove _ => 0

/-- The bytes of a word as they lie in memory (R4, R123). -/
def wordBytes (w : BitVec 32) : List (BitVec 8) :=
  [w.extractLsb' 0 8, w.extractLsb' 8 8, w.extractLsb' 16 8, w.extractLsb' 24 8]

/-- The host's question: the instruction whose bits are `w`, numbered as the opcode table numbers them. Every row is
one word of 32 bits. -/
def decodeTableWord (nbits w : Nat) : Option Instr :=
  if nbits = 32 then
    match decodeBytes (wordBytes (BitVec.ofNat 32 w)) with
    | .ok i => some i
    | .err _ => none
  else none

end Sys2Proof
end

