-- ==== Sys2Proof/Machine/Mem.lean ====
section
/-!
DEFINITION. Memory: the physical map (R333), reads and writes of bytes with their uncorrectable errors (R368), the
access tables (R348 to R350), the page-table walk (R309 to R312) and the stale translations of R316.
-/

namespace Sys2Proof.Machine

/-- A run of bytes at one place. -/
abbrev Piece := Loc × Nat

namespace Loc

/-- The place `n` bytes further on. -/
def add : Loc → Nat → Loc
  | phys a, n => phys (a + n)
  | scratch c a, n => scratch c (a + n)
  | reg k f r e, _ => reg k f r e

/-- The aligned 8-byte word a byte lies in. -/
def word : Loc → Loc
  | phys a => phys (a / 8 * 8)
  | scratch c a => scratch c (a / 8 * 8)
  | l => l

/-- SVAL of the machine check that an error at a place raises, and its address (R370): 1 scratchpad, 5 register file,
6 DRAM, 7 tier data; 2 to 4 where the error of a word of memory lies in a cache. -/
def errorAt (caught : Table Nat) : Loc → BitVec 8 × BitVec 56
  | phys a =>
    let n := caught.get 0 (a / 8 * 8)
    (if n ≠ 0 then BitVec.ofNat 8 n else if 2 ^ 55 ≤ a then 7 else 6, BitVec.ofNat 56 (a / 8 * 8))
  | scratch _ a => (1, BitVec.ofNat 56 (a / 8 * 8))
  | reg _ _ r e => (5, BitVec.ofNat 56 (r % 256 + 256 * e))

end Loc

/-- The places of the bytes of a list of runs. -/
def bytesOf (l : List Piece) : List Loc := l.flatMap fun p => (List.range p.2).map p.1.add

/-- The runs of `n` bytes from byte `off` of some runs on. -/
def subRuns : List Piece → Nat → Nat → List Piece
  | [], _, _ => []
  | (l, k) :: t, off, n =>
    if n = 0 then []
    else if k ≤ off then subRuns t (off - k) n
    else
      let m := min n (k - off)
      (l.add off, m) :: subRuns t 0 (n - m)

namespace State

/-- The byte at a place. -/
def byteAt (s : State) : Loc → Byte
  | .phys a => Table.get Config.blankByte s.mem a
  | .scratch c a => Table.get Config.blankByte (s.clu c).scratch a
  | .reg .. => 0

/-- The bytes of a run as they stand. -/
def rawRun (s : State) : Piece → List Byte
  | (.phys a, n) => Table.getRun Config.blankByte s.mem a n
  | (.scratch c a, n) => Table.getRun Config.blankByte (s.clu c).scratch a n
  | (.reg .., n) => List.replicate n 0

/-- The bytes of some runs as they stand. -/
def raw (s : State) (l : List Piece) : List Byte := l.flatMap s.rawRun

/-- The state with the bytes of a run replaced. -/
def putRaw (s : State) (l : Loc) (b : List Byte) : State :=
  match l with
  | .phys a => { s with mem := Table.putRun Config.blankByte s.mem a b }
  | .scratch c a => s.modClu c fun x => { x with scratch := Table.putRun Config.blankByte x.scratch a b }
  | .reg .. => s

/-- The bytes of some runs replaced by the bytes of a list, in turn. -/
def putAll (s : State) : List Piece → List Byte → State
  | [], _ => s
  | (l, n) :: t, b => putAll (s.putRaw l (b.take n)) t (b.drop n)

/-- The words with an uncorrectable error that some bytes touch. -/
def badIn (s : State) (l : List Piece) : List Loc :=
  if s.bad.isEmpty then [] else dedup (((bytesOf l).map Loc.word).filter (s.bad.contains ·))

/-- `n` bytes of physical memory as a number, as the walker and the engines read them: 0 where a word holds an error
(R368). -/
def physNat (s : State) (a n : Nat) : Nat :=
  if s.badIn [(.phys a, n)] = [] then leNat (Table.getRun Config.blankByte s.mem a n) else 0

/-- An uncorrectable error the current hart has met: its machine check becomes pending (R369). -/
def meet (s : State) (l : Loc) (elem : Nat) : State :=
  let x := l.errorAt s.caught
  s.mod fun h => { h with checks := h.checks ++ [(h.sup, x.1, x.2, BitVec.ofNat 64 elem, none)] }

/-- An error met beside an instruction's operands, by an engine's slice or by the hart itself, once. -/
def note (s : State) (master : Option Nat) (l : Loc) : State :=
  let x := l.errorAt s.caught
  if s.h.checks.any fun y => y.1 = s.h.sup ∧ y.2.1 = x.1 ∧ y.2.2.1 = x.2 then s
  else s.mod fun h => { h with checks := h.checks ++ [(h.sup, x.1, x.2, 0, master)] }

/-- The current hart meets the errors of words that are read for its instruction beside its operands (R368): once each. -/
def meetAll (s : State) (l : List Piece) : State := (s.badIn l).foldl (note · none) s

/-- A load of an element's bytes: as they stand, or zeros and a machine check where a word holds an error (R368). -/
def load (s : State) (l : List Piece) (elem : Nat) : List Byte × State :=
  match s.badIn l with
  | [] => (s.raw l, s)
  | w :: _ => (List.replicate (bytesOf l).length 0, s.meet w elem)

/-- A byte-by-byte write that leaves the bytes of some words alone. -/
def putExcept (s : State) (skip : List Loc) : List (Loc × Byte) → State
  | [] => s
  | (l, b) :: t => putExcept (if skip.contains l.word then s else s.putRaw l [b]) skip t

/-- A word all of whose bytes a list of places names. -/
def whole (ls : List Loc) (w : Loc) : Bool := (List.range 8).all fun i => ls.any fun l => l = w.add i && l.word = w

/-- Words with an error that the bytes of a list of places cover whole are about to be replaced, and so repaired (R368). -/
def repair (s : State) (ls : List Loc) : State :=
  if s.bad.isEmpty then s else { s with bad := s.bad.filter fun w => !whole ls w }

/-- Bytes written where R368 lets them be: a word with an error that is covered whole is repaired, and one covered in part
is left alone. -/
def keep (s : State) (l : List Piece) (b : List Byte) : State :=
  match s.badIn l with
  | [] => s.putAll l b
  | ws =>
    let ls := bytesOf l
    putExcept (s.repair ls) (ws.filter fun w => !whole ls w) (ls.zip b)

/-- A store of an element's bytes: a partial store into a word with an error is not performed and reports it (R368). -/
def store (s : State) (l : List Piece) (b : List Byte) (elem : Nat) : State :=
  match s.badIn l with
  | [] => s.putAll l b
  | ws => (ws.filter fun w => !whole (bytesOf l) w).foldl (fun s w => s.meet w elem) (s.keep l b)

/-- `n` bytes of physical memory written from a number, as the engines write them (R368). -/
def putPhys (s : State) (a n v : Nat) : State := s.keep [(.phys a, n)] (leBytes n v)

/-- A copy an engine makes: each destination word whose source holds an error ends uncorrectable (R368). -/
def copyTaint (s : State) (src dst : List Piece) : State :=
  let b := s.raw src
  match s.badIn src with
  | [] => s.store dst b 0
  | ws =>
    let tainted := (((bytesOf src).zip (bytesOf dst)).filter fun x => ws.contains x.1.word).map (·.2.word)
    let s := s.store dst b 0
    { s with bad := dedup (s.bad ++ tainted) }

/-- A copy an engine makes for the current hart, which meets the errors of the source (R368). -/
def engineCopy (s : State) (src dst : List Piece) : State :=
  (s.badIn src).foldl (fun s w => s.meet w 0) (s.copyTaint src dst)

/-- An operation that no hart issues: what errors it meets are no hart's. -/
def noHart (s : State) (f : State → State) : State := (f s).mod fun h => { h with checks := s.h.checks }

end State

/-! ## The physical map and the access tables -/

/-- The target of a physical address, numbered as R351 numbers targets; none is a hole (R333). -/
def targetOf (a : Nat) : Option Nat :=
  if bits a 55 1 = 1 then some (16 + bits a 52 3)
  else if bits a 54 2 = 1 then some (152 + bits a 53 1)
  else if a >>> 40 = 0 ∧ bits a 0 36 < 48 * 2 ^ 30 then some (bits a 36 4)
  else none

/-- What an access needs of a page (R312) and of an access table (R349), and whether it is unit-stride or a stream, and so
bypasses the banks of the gather TLB (R315). -/
structure Want where
  r : Bool
  w : Bool
  x : Bool
  atomic : Bool
  stride : Bool := false
  deriving DecidableEq, Repr

/-- The rights of a load, a VWAIT or a source end (R312). -/
def Want.load : Want := { r := true, w := false, x := false, atomic := false }
/-- The rights of a store (R312). -/
def Want.store : Want := { r := false, w := true, x := false, atomic := false }
/-- The rights of an atomic (R312). -/
def Want.atomic_ : Want := { r := true, w := true, x := false, atomic := true }
/-- The rights of a fetch (R312). -/
def Want.fetch : Want := { r := false, w := false, x := true, atomic := false }

/-- The place of an access-table entry in `acl`: eight for each of 1,024 masters of each target (R349). -/
def aclKey (t m e : Nat) : Nat := t * 8192 + m * 8 + e

/-- A master may make an access of a target: some valid entry covers the unit with the rights it needs (R350). A fetch
reads. -/
def State.allowed (s : State) (m t unit : Nat) (w : Want) : Bool :=
  (List.range 8).any fun e =>
    let x := s.pkg.acl.get Access.reset (aclKey t m e)
    x.v && x.lo ≤ unit && unit ≤ x.hi && (!(w.r || w.x) || x.r) && (!w.w || x.w) && (!w.atomic || (x.a && x.r && x.w))

/-- The access of a master to the 64 KiB unit of a physical address. -/
def State.allowedAt (s : State) (m a : Nat) (w : Want) : Bool :=
  match targetOf a with
  | none => false
  | some t => s.allowed m t (bits a 16 40) w

/-! ## The page-table walk -/

/-- How a walk fails (R311). -/
inductive WalkErr where
  | notPresent | permission | malformed
  deriving DecidableEq, Repr

/-- Whether an entry's rights admit an access (R312); the supervisor level ignores U. -/
def rightsOk (w0 : Nat) (user : Bool) (w : Want) : Bool :=
  (!w.r || bits w0 3 1 = 1) && (!w.w || bits w0 4 1 = 1) && (!w.x || bits w0 5 1 = 1) && (!user || bits w0 6 1 = 1)

/-- The shift of the index of a level: 76 at the root, 16 at level 5 (R309). -/
def levelShift (level : Nat) : Nat := if level = 0 then 76 else 76 - 12 * level

/-- The log of the size of the page that a leaf's SZ names (R310). -/
def pageLog (w0 : Nat) : Nat := if bits w0 9 2 = 0 then 16 else if bits w0 9 2 = 1 then 24 else 32

/-- A reserved bit of an entry that is set (R310). -/
def reservedSet (w0 w1 : Nat) : Bool := bits w0 56 8 ≠ 0 || bits w0 12 4 ≠ 0 || bits w0 1 2 ≠ 0 || w1 >>> 15 ≠ 0

/-- What a leaf of a level must be (R311). -/
def leafOk (level w0 : Nat) : Bool :=
  (level = 4 && bits w0 9 2 = 2 || level = 5 && bits w0 9 2 < 2) && bits (bits w0 16 40 * 65536) 0 (pageLog w0) = 0

/-- How a leaf fails, in the order of the table of R311, or nothing. -/
def leafErr (asid level w0 w1 : Nat) (user : Bool) (w : Want) : Option WalkErr :=
  if bits w0 0 1 = 0 then some .notPresent
  else if bits w1 14 1 = 0 ∧ bits w1 0 14 ≠ asid then some .permission
  else if !rightsOk w0 user w then some .permission
  else if reservedSet w0 w1 || !leafOk level w0 then some .malformed
  else none

/-- The outcome of one way of walking: a failure, or the leaf with what leads to it. -/
structure Walked where
  err : Option WalkErr
  leaf : TlbEntry
  seen : List TlbEntry
  deriving DecidableEq, Repr

/-- The entry at an index of a table, as memory holds it. -/
def State.readPte (s : State) (asid : BitVec 14) (level va table : Nat) : TlbEntry :=
  let a := table + 16 * bits va (levelShift level) (if level = 0 then 4 else 12)
  { unit := .walk, asid := asid, level := level, path := va >>> levelShift level, pte := a, word0 := s.physNat a 8,
    word1 := s.physNat (a + 8) 8 }

/-- The replicas of a large leaf that differ from it (R311): the other entries of its aligned group that hold a leaf of
the same size. -/
def State.replicas (s : State) (x : TlbEntry) : List TlbEntry :=
  let n := if x.level = 5 ∧ bits x.word0 9 2 = 1 then 256 else if x.level = 4 ∧ bits x.word0 9 2 = 2 then 16 else 1
  if bits x.word0 11 1 = 0 ∨ n = 1 then []
  else
    let first := x.path / n * n
    ((List.range n).map fun i =>
      let a := x.pte - 16 * (x.path - first) + 16 * i
      { x with path := first + i, pte := a, word0 := s.physNat a 8, word1 := s.physNat (a + 8) 8 }).filter
      fun y => bits y.word0 11 1 = 1 ∧ bits y.word0 0 1 = 1 ∧ bits y.word0 9 2 = bits x.word0 9 2 ∧
        (y.word0 ≠ x.word0 ∨ y.word1 ≠ x.word1)

/-- Every way a walk of the levels from `level` down may go (R311, R316): each entry is the one memory holds or one the
walk cache still holds. -/
def State.walk (s : State) (cache : List TlbEntry) (asid : BitVec 14) (user : Bool) (w : Want) (va : Nat) :
    Nat → Nat → Nat → List TlbEntry → List Walked
  | 0, _, _, _ => []
  | fuel + 1, level, table, seen =>
    let x := s.readPte asid level va table
    let olds := if level = 0 then [] else
      cache.filter fun y => y.asid = asid ∧ y.level = level ∧ y.path = x.path ∧ bits y.word0 11 1 = 0 ∧
        (y.word0 ≠ x.word0 ∨ y.word1 ≠ x.word1)
    (x :: (s.replicas x ++ olds)).flatMap fun y =>
      if bits y.word0 0 1 = 0 then [{ err := some .notPresent, leaf := y, seen := seen }]
      else if bits y.word1 14 1 = 0 ∧ bits y.word1 0 14 ≠ asid.toNat then
        [{ err := some .permission, leaf := y, seen := seen }]
      else if bits y.word0 11 1 = 1 then
        [{ err := leafErr asid.toNat level y.word0 y.word1 user w, leaf := y, seen := seen }]
      else if reservedSet y.word0 y.word1 || bits y.word0 9 2 = 3 || level = 5 then [{ err := some .malformed, leaf := y, seen := seen }]
      else State.walk s cache asid user w va fuel (level + 1) (bits y.word0 16 40 * 65536)
        (if level = 0 then seen else seen ++ [y])

/-- A cached leaf serves a virtual address. -/
def covers (x : TlbEntry) (va : Nat) : Bool :=
  bits x.word0 11 1 = 1 && x.path * 2 ^ levelShift x.level / 2 ^ pageLog x.word0 == va / 2 ^ pageLog x.word0

/-- The spaces that translate accesses under an ASID (R286, R287, R352): those of the live harts that hold it, the current
hart's first; where none holds it, the one the slot recorded. -/
def State.spacesFor (s : State) (sp : Space) : List Space :=
  let l := dedup ((s.liveCtxs.map fun k => (s.hart k).space).filter fun x => x.asid = sp.asid)
  match l with
  | [] => [sp]
  | l => if s.h.space.asid = sp.asid then s.h.space :: l.filter (· ≠ s.h.space) else l

/-- The partitions whose harts share an ASID's cached entries (R352): the current one, and those in whose range it is. -/
def State.sharers (s : State) (a : BitVec 14) : List Nat :=
  (List.range 8).filter fun p => p = s.partNo ||
    ((s.part p).state ≠ 0 && (s.part p).asidlo ≤ a && a ≤ (s.part p).asidhi)

/-- The cached translations of an ASID that are in force: those that every partition that shares it still holds. -/
def State.tlbOf (s : State) (a : BitVec 14) : List TlbEntry :=
  (s.part s.partNo).tlb.filter fun x => x.asid = a ∧ (s.sharers a).all fun p => p = s.partNo || (s.part p).tlb.contains x

/-- How many entries a translation cache holds (R315). -/
def TlbUnit.size : TlbUnit → Nat
  | .gather .. => 256
  | .stride _ => 1
  | .l2 => 32768
  | .walk => 1024

/-- An entry put into its cache; where the cache is full one of its entries makes room, which of them is free (log 14). -/
def tlbPut (victim : Nat) (l : List TlbEntry) (x : TlbEntry) : List TlbEntry :=
  if l.contains x then l
  else if l.length < x.unit.size then l ++ [x]
  else
    let full := l.filter fun y => y.unit == x.unit
    (if full.length < x.unit.size then l
     else match full[victim % full.length]? with | some y => l.filter (· != y) | none => l) ++ [x]

/-- The bank of a gather TLB that serves a virtual address: virtual page bits 18:16 (R315). -/
def bankOf (va : Nat) : Nat := bits va 16 3

/-- The caches in which the current hart finds the leaf of a virtual address (R315). -/
def State.unitsFor (s : State) (stride : Bool) (va : Nat) : List TlbUnit :=
  [if stride then .stride s.cur else .gather s.clNo (bankOf va), .l2]

/-- A leaf as the caches take it up (R315): in the L2 TLB, and in its bank, or in every bank where it is large, or in the
unit-stride register. -/
def State.tlbLeaves (s : State) (stride : Bool) (va : Nat) (x : TlbEntry) : List TlbEntry :=
  { x with unit := .l2 } ::
    if stride then [{ x with unit := .stride s.cur }]
    else (if bits x.word0 9 2 = 0 then [bankOf va] else List.range 8).map fun b => { x with unit := .gather s.clNo b }

/-- The entry of a leaf with A set, and D after a write (R310). -/
def touched (w0 : Nat) (w : Want) : Nat := w0 ||| 128 ||| (if w.w then 256 else 0)

/-- The ways a translation of a virtual address may go: R286, R311 and R316 allow each. -/
def State.ways (s : State) (sp : Space) (user : Bool) (w : Want) (va : Nat) : List Walked :=
  let cache := s.tlbOf sp.asid
  let fresh := (s.spacesFor sp).flatMap fun x =>
    s.walk (cache.filter (·.unit == .walk)) x.asid user w va 6 0 x.ptroot.toNat []
  let held := (cache.filter fun x => (s.unitsFor w.stride va).contains x.unit && covers x va).map fun x =>
    { err := leafErr sp.asid.toNat x.level x.word0 x.word1 user w, leaf := x, seen := [] : Walked }
  dedup (fresh ++ held.filter fun x => !fresh.any fun y => y.err = x.err ∧ y.leaf.word0 = x.leaf.word0 ∧
    y.leaf.word1 = x.leaf.word1)

/-- The accessed and dirty bits that an access through a leaf sets in its entry (R310), which it reaches by its address
alone. -/
def State.touchPte (s : State) (x : TlbEntry) (w : Want) : State :=
  if touched x.word0 w = x.word0 ∨ s.badIn [(.phys x.pte, 8)] ≠ [] then s
  else s.putRaw (.phys x.pte) (leBytes 8 (touched (s.physNat x.pte 8) w))

/-- The entries a translation used in the caches of the partitions that share the ASID (R315); the old form of the leaf
leaves those it was found in. -/
def State.cacheWalk (s : State) (x : Walked) (w : Want) (va : Nat) : State :=
  let new := x.seen ++ s.tlbLeaves w.stride va { x.leaf with word0 := touched x.leaf.word0 w }
  let units := s.unitsFor w.stride va
  let stale (y : TlbEntry) : Bool := units.contains y.unit && { y with unit := x.leaf.unit } == x.leaf
  let victim := Config.choice s.seq
  { ((s.sharers x.leaf.asid).foldl (fun u p => u.modPart p fun q =>
      { q with tlb := new.foldl (tlbPut victim) (q.tlb.filter fun y => !stale y) }) s) with seq := s.seq + 1 }

/-- The errors of the entries that a failed walk read, which the current hart meets (R368). -/
def State.meetWalk (s : State) (x : Walked) : State :=
  s.meetAll ((x.leaf :: x.seen).map fun y => (.phys y.pte, 16))

/-- A translation of a virtual address: a failure, or the physical address (R311). It draws one of the ways it may go, sets
A and D (R310) and leaves the entries it used in the caches (R315). -/
def State.translate (s : State) (sp : Space) (user : Bool) (w : Want) (va : Nat) : Except WalkErr Nat × State :=
  let ways := s.ways sp user w va
  let (n, s) := s.pick ways.length
  match ways[n]? with
  | none => (.error .malformed, s)
  | some x =>
    match x.err with
    | some e => (.error e, s.meetWalk x)
    | none => (.ok (bits x.leaf.word0 16 40 * 65536 + va % 2 ^ pageLog x.leaf.word0), (s.touchPte x.leaf w).cacheWalk x w va)

/-- Which physical addresses an access may reach: a tier-space object's pages map the tier, a global or constant
object's do not (R313); an instruction or a frame may lie in either. -/
inductive TierRule where
  | only | never | either
  deriving DecidableEq, Repr

/-- A tier port that a partition uses; its own always is one (R337, R352). -/
def State.usesPort (s : State) (p d : Nat) : Bool := d = p || (s.part p).tports.getLsbD d

/-- A physical address that the current hart's cluster may reach as an access needs: no hole (R333), no tier port that
the partition does not name (R337), as R313 asks, and allowed by the target's access table (R350). -/
def State.reachable (s : State) (tr : TierRule) (w : Want) (a : Nat) : Bool :=
  let tier := bits a 55 1 = 1
  (match tr with | .only => tier | .never => !tier | .either => true) &&
    (!tier || s.usesPort s.partNo (bits a 52 3)) && s.allowedAt s.clNo a w

/-- The translation of the current hart's access, with the checks of R333, R313 and R350: a denied access is a
permission fault. -/
def State.xlate (s : State) (sp : Space) (user : Bool) (tr : TierRule) (w : Want) (va : Nat) :
    Except WalkErr Nat × State :=
  match s.translate sp user w va with
  | (.error e, s) => (.error e, s)
  | (.ok a, s) => if s.reachable tr w a then (.ok a, s) else (.error .permission, s)

/-- The runs of bytes of `n` bytes from a virtual address on, page by page (R314): the physical runs, or the failure and
the page it was met at. -/
def State.xlateRun (s : State) (sp : Space) (user : Bool) (tr : TierRule) (w : Want) :
    Nat → Nat → Nat → Except (WalkErr × Nat) (List Piece) × State
  | 0, _, _ => (.ok [], s)
  | fuel + 1, va, n =>
    if n = 0 then (.ok [], s)
    else
      let k := min n (65536 - va % 65536)
      match s.xlate sp user tr w va with
      | (.error e, s) => (.error (e, va / 65536), s)
      | (.ok a, s) =>
        match State.xlateRun s sp user tr w fuel (va + k) (n - k) with
        | (.error e, s) => (.error e, s)
        | (.ok l, s) => (.ok ((.phys a, k) :: l), s)

end Sys2Proof.Machine
end

