-- ==== Sys2Proof/Machine/Engine.lean ====
section
/-!
DEFINITION. The engines of the memory controllers: the Block Pool Engine and Perigee. Handle entries (R321, R322), pools
and block tables (R323, R324), the expert residency table (R326), holds and destruction (R70, R75, R76, R82).

An operation of an engine is written in `Eng`, which carries the state, the first address that an access table denied and
the words with an error it met. A denied operation is not performed as a whole (R350), so `Eng.bpe` answers the state
before it.
-/

namespace Sys2Proof.Machine

/-- What an engine operation carries: the state, the partition, the first slice's master number (R348), the address
denied, if any, the words with an error that it met (R368), and whether it works for the current hart. -/
structure EngState where
  s : State
  p : Nat
  master : Nat
  denied : Option Nat
  met : List Loc
  forHart : Bool

/-- An operation of an engine. -/
abbrev Eng := StateM EngState

namespace Eng

/-- The slice of a stack makes the accesses to it; what is no DRAM has no slice. -/
def admits (x : EngState) (w : Want) (a : Nat) : Bool :=
  match targetOf a with
  | some t => t < 16 && x.s.allowed (x.master + t) t (bits a 16 40) w
  | none => false

/-- The first byte of each 64 KiB unit that `n` bytes from `a` on touch (R350). -/
def unitsOf (a n : Nat) : List Nat :=
  if n = 0 then [] else (List.range ((a + n - 1) / 65536 - a / 65536 + 1)).map fun i => max a ((a / 65536 + i) * 65536)

/-- An access of `n` bytes checked in every unit it touches (R350); the words with an error that it touches are met. -/
def guard (a n : Nat) (w : Want) : Eng Unit := modify fun x =>
  let x := { x with met := x.met ++ x.s.badIn [(.phys a, n)] }
  if x.denied.isSome then x else { x with denied := (unitsOf a n).find? fun b => !admits x w b }

/-- `n` bytes of physical memory. -/
def read (a n : Nat) : Eng Nat := do
  guard a n Want.load
  return (← get).s.physNat a n

/-- `n` bytes of physical memory written. -/
def write (a n v : Nat) : Eng Unit := do
  guard a n Want.store
  modify fun x => { x with s := x.s.putPhys a n v }

/-- What follows is done for the current hart, which meets its errors. -/
def forHart : Eng Unit := modify fun x => { x with forHart := true }

/-- The state as the operation has it. -/
def state : Eng State := return (← get).s

/-- The state changed. -/
def onState (f : State → State) : Eng Unit := modify fun x => { x with s := f x.s }

/-- The partition's record. -/
def part : Eng Part := do let x ← get; return x.s.part x.p

/-- The partition's record changed. -/
def onPart (f : Part → Part) : Eng Unit := modify fun x => { x with s := x.s.modPart x.p f }

/-- The master number of the slice at a place (R348). -/
def sliceAt (first : Nat) : Loc → Option Nat
  | .phys a => some (first + (targetOf a).getD 0)
  | _ => none

/-- The state after an operation, its errors met by the current hart where it worked for it (R368). -/
def settled (x : EngState) : State :=
  if x.forHart then (dedup x.met).foldl (fun s w => s.note (sliceAt x.master w) w) x.s else x.s

/-- An operation of the Block Pool Engine that no hart issued, for a partition: nothing where an access table denies
it. -/
def quiet (s : State) (p : Nat) (f : Eng Unit) : State :=
  let (_, x) := f.run { s := s, p := p, master := 0x100, denied := none, met := [], forHart := false }
  if x.denied.isSome then s else x.s

/-- An operation of the Block Pool Engine for the current hart: the answer, or nothing and a machine check of SOURCE 8
where an access table denies it (R350, R370). -/
def bpe {α : Type} (s : State) (f : Eng α) : Option α × State :=
  let (a, x) := f.run { s := s, p := s.partNo, master := 0x100, denied := none, met := [], forHart := true }
  match x.denied with
  | none => (some a, settled x)
  | some d => (none, s.mod fun h => { h with checks := h.checks ++ [(h.sup, 8, BitVec.ofNat 56 d, 0, sliceAt 0x100 (.phys d))] })

/-- An operation of Perigee for a partition: the answer, or nothing where an access table denies it (R350). -/
def perigee {α : Type} (s : State) (p : Nat) (f : Eng α) : Option α × State :=
  let (a, x) := f.run { s := s, p := p, master := 0x110, denied := none, met := [], forHart := false }
  match x.denied with
  | none => (some a, settled x)
  | some _ => (none, s)

end Eng

open Eng

/-! ## Pools and blocks -/

/-- A pool's descriptor (R323). -/
structure Pool where
  addr : Nat
  base : Nat
  bslog : Nat
  en : Bool
  nblk : Nat
  free : Nat
  low : Nat
  high : Nat
  cnt : Nat
  deriving DecidableEq, Repr

/-- A pool's descriptor from its words. BSLOG's four bits hold 16 as 0 (log 43). -/
def Pool.ofWords (addr w0 w1 w2 w3 : Nat) : Pool :=
  { addr := addr, base := bits w0 16 40 * 65536, bslog := if bits w0 4 4 = 0 then 16 else bits w0 4 4, en := bits w0 0 1 = 1, nblk := bits w1 0 32,
    free := bits w1 32 32, low := bits w2 0 32, high := bits w2 32 32, cnt := bits w3 8 48 * 256 }

/-- The descriptor of a pool of a partition; with POOLS = 0 no pool is set up (R352). -/
def State.pool (s : State) (p pool : Nat) : Pool :=
  let base := (s.part p).pools.toNat
  let a := base + 32 * pool
  let x := Pool.ofWords a (s.physNat a 8) (s.physNat (a + 8) 8) (s.physNat (a + 16) 8) (s.physNat (a + 24) 8)
  if base = 0 then { x with en := false } else x

/-- The stacks of a partition (R352). -/
def State.stacksOf (s : State) (p : Nat) : List Nat := (List.range 16).filter fun i => (s.part p).hbmStacks.getLsbD i

/-- Bytes of a block. -/
def Pool.bs (q : Pool) : Nat := 2 ^ q.bslog

/-- The first byte of a block (R323). -/
def Pool.blockAt (q : Pool) (b : Nat) : Nat := q.base + b * q.bs

/-- The pools under reclaim once one has been looked at (R325): it is active from when FREE is below LOW until FREE
reaches HIGH. -/
def reclaimAfter (q : Pool) (n : Nat) (l : List Nat) : List Nat :=
  if q.en && q.free < q.low then dedup (n :: l) else if q.high ≤ q.free then l.filter (· ≠ n) else l

/-- The pools of a partition under reclaim as their descriptors stand (R325). -/
def State.underReclaim (s : State) (p : Nat) : List Nat :=
  let l := (s.part p).reclaiming
  if (s.part p).pools = 0 then l else (List.range 64).foldl (fun l n => reclaimAfter (s.pool p n) n l) l

namespace Eng

/-- A pool's descriptor, read by the engine. -/
def pool (n : Nat) : Eng Pool := do
  let x ← get
  let q := x.s.pool x.p n
  if (x.s.part x.p).pools = 0 then return q
  guard q.addr 32 Want.load
  return q

/-- How many entries a search that ended at an entry, or found none, has read. -/
def scanned (n : Nat) : Option Nat → Nat
  | some i => i + 1
  | none => n

/-- The count of a block. -/
def count (q : Pool) (b : Nat) : Eng Nat := read (q.cnt + 4 * b) 4

/-- Reclaim becomes active when FREE falls below LOW, and stops at HIGH (R325). -/
def watermark (n : Nat) : Eng Unit := do
  let q ← pool n
  onPart fun p => { p with reclaiming := reclaimAfter q n p.reclaiming }

/-- A block's count changed: FREE counts the blocks whose count is 0 (R323), and a block returns to the free list
exactly when its count reaches 0 (R80). -/
def setCount (n b : Nat) (v : Nat) : Eng Unit := do
  let q ← pool n
  let old ← count q b
  write (q.cnt + 4 * b) 4 v
  if old = 0 ∧ v ≠ 0 then write (q.addr + 12) 4 (q.free - 1)
  if old ≠ 0 ∧ v = 0 then write (q.addr + 12) 4 (q.free + 1)
  watermark n

/-- A block's count raised by one. DESIGN CHOICE: one of 2^32 - 1 becomes 0 (log 66). -/
def incCount (n b : Nat) : Eng Unit := do setCount n b ((← count (← pool n) b) + 1)

/-- A block's count dropped by one. -/
def decCount (n b : Nat) : Eng Unit := do setCount n b ((← count (← pool n) b) - 1)

/-- The lowest-numbered block whose count is 0 (R323). -/
def freeBlock (n : Nat) : Eng (Option Nat) := do
  let q ← pool n
  let s ← state
  let r := (List.range q.nblk).find? fun b => s.physNat (q.cnt + 4 * b) 4 = 0
  guard q.cnt (4 * scanned q.nblk r) Want.load
  return r

/-- A block taken from a pool's free list with count 1. -/
def takeBlock (n : Nat) : Eng (Option Nat) := do
  match ← freeBlock n with
  | none => return none
  | some b => setCount n b 1; return some b

end Eng

/-! ## Block tables -/

/-- An entry of a block table that maps nothing (R324). -/
def emptyBlock : Nat := 0xFFFFFFFF

/-- The header of a block table (R324). -/
structure BTable where
  addr : Nat
  entries : Nat
  pool : Nat
  rowlog : Nat
  fill : Nat
  deriving DecidableEq, Repr

/-- The block table at an address. -/
def State.btable (s : State) (a : Nat) : BTable :=
  { addr := a, entries := s.physNat a 4, pool := bits (s.physNat (a + 4) 1) 0 6, rowlog := s.physNat (a + 5) 1,
    fill := s.physNat (a + 8) 4 }

/-- The block that an entry of a table maps. -/
def State.mapped (s : State) (t : BTable) (e : Nat) : Option Nat :=
  if e < t.entries then
    let b := s.physNat (t.addr + 64 + 4 * e) 4
    if b = emptyBlock then none else some b
  else none

/-- Bytes of table storage for a number of entries: the header, four bytes each, in units of 256 (R324). -/
def tableBytes (entries : Nat) : Nat := (64 + 4 * entries + 255) / 256 * 256

/-- The gaps of the arena: the runs of bytes between what is allocated, in address order. -/
def arenaGaps : Nat → Nat → List (Nat × Nat) → List (Nat × Nat)
  | a, hi, [] => if a < hi then [(a, hi - a)] else []
  | a, hi, (b, n) :: l => (if a < b then [(a, b - a)] else []) ++ arenaGaps (max a (b + n)) hi l

/-- An allocation in its place among the others. -/
def arenaInsert (x : Nat × Nat) : List (Nat × Nat) → List (Nat × Nat)
  | [] => [x]
  | y :: l => if x.1 < y.1 then x :: y :: l else y :: arenaInsert x l

namespace Eng

/-- The header of the block table at an address, read by the engine. -/
def btable (a : Nat) : Eng BTable := do
  guard a 64 Want.load
  return (← state).btable a

/-- An entry of a table written. -/
def setEntry (t : BTable) (e b : Nat) : Eng Unit := write (t.addr + 64 + 4 * e) 4 b

/-- Storage of `n` bytes, a multiple of 256, taken from the partition's table arena (R324): which of the places that
are free is the device's choice. -/
def arenaTake (n : Nat) : Eng (Option Nat) := do
  let p ← part
  let lo := (p.arenaBase.toNat + 255) / 256 * 256
  let hi := p.arenaBase.toNat + p.arenaSize.toNat
  let gaps := (arenaGaps lo hi p.arena).filter fun g => n ≤ g.2
  let x ← get
  let (i, s) := x.s.pick gaps.length
  match gaps[i]? with
  | none => return none
  | some (a, len) =>
    let (j, s) := s.pick ((len - n) / 256 + 1)
    let a := a + 256 * j
    set { x with s := s }
    onPart fun p => { p with arena := arenaInsert (a, n) p.arena }
    return some a

/-- Storage returned to the arena. -/
def arenaGive (a : Nat) : Eng Unit := onPart fun p => { p with arena := p.arena.filter fun x => x.1 ≠ a }

/-- A new block table with its header and every entry given (R324). -/
def writeTable (a entries pool rowlog fill : Nat) (blocks : List Nat) : Eng Unit := do
  let b := leBytes 4 entries ++ leBytes 1 pool ++ leBytes 1 rowlog ++ leBytes 2 0 ++ leBytes 4 fill ++
    List.replicate 52 0 ++ blocks.flatMap (leBytes 4)
  guard a b.length Want.store
  onState fun s => s.keep [(.phys a, b.length)] b

/-- Every mapped entry of a table drops its count (R82). -/
def dropTable (t : BTable) : Eng Unit := do
  guard (t.addr + 64) (4 * t.entries) Want.load
  for e in List.range t.entries do
    match (← state).mapped t e with
    | none => pure ()
    | some b => decCount t.pool b

end Eng

/-! ## Handle entries -/

/-- A handle value (R69). -/
def handleValue (gen : BitVec 16) (weak : Bool) (index : BitVec 24) : Word :=
  gen ++ 0#23 ++ BitVec.ofBool weak ++ index

/-- The GEN of a handle value. -/
def valGen (v : Word) : BitVec 16 := v.extractLsb' 48 16
/-- The WEAK bit of a handle value. -/
def valWeak (v : Word) : Bool := v.getLsbD 24
/-- The INDEX of a handle value. -/
def valIndex (v : Word) : BitVec 24 := v.extractLsb' 0 24

/-- The entries of a space's handle table (R321). -/
def Space.htSize (sp : Space) : Nat := 2 ^ bits sp.htbase.toNat 56 5
/-- The physical address of the handle table (R321). -/
def Space.htAddr (sp : Space) : Nat := bits sp.htbase.toNat 12 44 * 4096
/-- The physical address of an entry (R321). -/
def Space.entryAt (sp : Space) (i : BitVec 24) : Nat := sp.htAddr + 64 * i.toNat
/-- The entries of a space's expert residency table (R326). -/
def Space.ertSize (sp : Space) : Nat := 2 ^ bits sp.ertbase.toNat 56 5
/-- The physical address of an expert's entry (R326). -/
def Space.expertAt (sp : Space) (e : Nat) : Nat := bits sp.ertbase.toNat 12 44 * 4096 + 32 * e

/-- A value that HBIND takes for malformed: reserved bits, or an INDEX beyond the table (R74, code 5). -/
def malformed (sp : Space) (v : Word) : Bool := v.extractLsb' 25 23 ≠ 0 || sp.htSize ≤ (valIndex v).toNat

/-- A handle entry (R321). -/
structure Entry where
  addr : Nat
  gen : BitVec 16
  blk : Bool
  keep : Bool
  paged : Bool
  space : Nat
  policy : Nat
  prio : Nat
  owner : Nat
  state : Nat
  scount : Nat
  wcount : Nat
  base : Nat
  length : Nat
  tbl : Nat
  peer : BitVec 16
  peerAsid : BitVec 14
  peerh : Word
  rstamp : Nat
  deriving DecidableEq, Repr

/-- An entry from its eight words. -/
def Entry.ofWords (a w0 w1 w2 w3 w4 w5 w6 w7 : Nat) : Entry :=
  { addr := a, gen := BitVec.ofNat 16 (w0 >>> 48), blk := bits w0 45 1 = 1, keep := bits w0 44 1 = 1,
    paged := bits w0 43 1 = 1, space := bits w0 40 3, policy := bits w0 38 2, prio := bits w0 35 3,
    owner := bits w0 24 8, state := bits w0 0 2, scount := bits w1 0 32, wcount := bits w1 32 32,
    base := w2 + bits w3 0 16 * 2 ^ 64, length := bits w4 0 48, tbl := bits w5 8 48 * 256,
    peer := BitVec.ofNat 16 w5, peerAsid := BitVec.ofNat 14 (w5 >>> 16), peerh := BitVec.ofNat 64 w6, rstamp := w7 }

/-- The entry at an address, as memory holds it. -/
def State.entry (s : State) (a : Nat) : Entry :=
  Entry.ofWords a (s.physNat a 8) (s.physNat (a + 8) 8) (s.physNat (a + 16) 8) (s.physNat (a + 24) 8)
    (s.physNat (a + 32) 8) (s.physNat (a + 40) 8) (s.physNat (a + 48) 8) (s.physNat (a + 56) 8)

/-- Word 0 of an entry that software writes: SPACE, POLICY, PRIO, OWNER (R322). -/
def softWord0 (w0 : Nat) : Nat := bits w0 35 8 * 2 ^ 35 + bits w0 24 8 * 2 ^ 24

/-- What a cache of handle entries keeps of an entry (R169, R322). -/
def State.copyOf (s : State) (asid : BitVec 14) (i : BitVec 24) (a : Nat) : HandleCopy :=
  { ert := false, asid := asid, index := i, addr := a,
    words := [softWord0 (s.physNat a 8), s.physNat (a + 16) 8, s.physNat (a + 24) 8, s.physNat (a + 32) 8,
      s.physNat (a + 40) 8, s.physNat (a + 48) 8] }

/-- An entry with the software's words taken from a cached copy, as a whole. -/
def State.entryVia (s : State) (a : Nat) (c : HandleCopy) : Entry :=
  match c.words with
  | [w0, w2, w3, w4, w5, w6] =>
    let now := s.physNat a 8
    Entry.ofWords a (now - softWord0 now + w0) (s.physNat (a + 8) 8) w2 w3 w4 w5 w6 (s.physNat (a + 56) 8)
  | _ => s.entry a

/-- The entry a binding names: which of the spaces that hold its ASID gives the table is the device's choice where they
differ (R286). -/
def State.spaceOf (s : State) (b : Binding) : Space × State :=
  let l := s.spacesFor b.space
  let tables := dedup (l.map (·.htbase))
  let (n, s) := s.pick tables.length
  (match l.find? fun x => some x.htbase = tables[n]? with | some x => x | none => b.space, s)

/-- The cached copies of an ASID's entries that are in force: those that every partition that shares it still holds
(R352). -/
def State.copiesOf (s : State) (a : BitVec 14) : List HandleCopy :=
  (s.part s.partNo).handles.filter fun c => c.asid = a ∧ (s.sharers a).all fun p => (s.part p).handles.contains c

/-- A copy taken into the caches of the partitions that share its ASID. -/
def State.cacheCopy (s : State) (c : HandleCopy) : State :=
  (s.sharers c.asid).foldl (fun s p => s.modPart p fun q =>
    { q with handles := if q.handles.contains c then q.handles else q.handles ++ [c] }) s

/-- The entry an access reads through a binding: the one memory holds or a cached one that no HTINV has discarded
(R169, R322). The access leaves its copy in the cache, and meets the errors of the entry's words (R368). -/
def State.view (s : State) (b : Binding) : Entry × State :=
  let (sp, s) := s.spaceOf b
  let a := sp.entryAt b.index
  let fresh := s.copyOf sp.asid b.index a
  let cached := (s.copiesOf sp.asid).filter fun c => c.ert = false ∧ c.index = b.index ∧ c.addr = a
  let ways := dedup (fresh :: cached)
  let (n, s) := s.pick ways.length
  let c := (ways[n]?).getD fresh
  (s.entryVia a c, (s.cacheCopy c).meetAll [(.phys a, 64)])

/-- The object of a binding is gone: for good, or its GEN differs, or its entry is not live (R76, R78). A strong slot's
object lives while the slot holds it (R75). -/
def Binding.isGone (b : Binding) (e : Entry) : Bool := b.weak && (b.gone || b.gen ≠ e.gen || e.state ≠ 1)

namespace Eng

/-- An entry, read by the engine. -/
def entry (a : Nat) : Eng Entry := do
  guard a 64 Want.load
  return (← state).entry a

/-- Word 0 of an entry changed at some bits. -/
def setWord0 (a lo w v : Nat) : Eng Unit := do write a 8 (putBits (← read a 8) lo w v)

/-- The counts of an entry written. -/
def setCounts (a scount wcount : Nat) : Eng Unit := write (a + 8) 8 (scount + wcount * 2 ^ 32)

/-- The cached copies of an entry discarded. -/
def forget (asid : BitVec 14) (i : BitVec 24) : Eng Unit := onPart fun p =>
  { p with handles := p.handles.filter fun c => !(!c.ert && c.asid == asid && c.index == i) }

end Eng

/-- The state with every weak slot on an entry gone for good (R76). -/
def State.markGone (s : State) (asid : BitVec 14) (i : BitVec 24) : State :=
  s.liveCtxs.foldl (fun s k => s.modHart k fun h =>
    { h with slots := h.slots.map fun x => (x.1, x.2.map fun b =>
      if b.weak && b.space.asid == asid && b.index == i then { b with gone := true } else b) }) s

/-! ## The expert residency table -/

/-- An expert's entry (R326). -/
structure Expert where
  addr : Nat
  misses : Nat
  binds : Nat
  bcount : Nat
  prio : Nat
  pool : Nat
  pinarr : Bool
  state : Nat
  handle : Word
  tier : Nat
  size : Nat
  deriving DecidableEq, Repr

/-- The expert's entry at an address, as memory holds it. -/
def State.expert (s : State) (a : Nat) : Expert :=
  let w0 := s.physNat a 8
  { addr := a, misses := bits w0 48 16, binds := bits w0 32 16, bcount := bits w0 16 16, prio := bits w0 9 3,
    pool := bits w0 3 6, pinarr := bits w0 2 1 = 1, state := bits w0 0 2, handle := BitVec.ofNat 64 (s.physNat (a + 8) 8),
    tier := bits (s.physNat (a + 16) 8) 0 56, size := bits (s.physNat (a + 24) 8) 0 32 }

/-- What Perigee's cache keeps of an expert's entry (R326): PRIO and POOL, TIER and SIZE. -/
def State.expertCopy (s : State) (sp : Space) (e : Nat) : HandleCopy :=
  let a := sp.expertAt e
  { ert := true, asid := sp.asid, index := BitVec.ofNat 24 e, addr := a,
    words := [bits (s.physNat a 8) 3 9, s.physNat (a + 16) 8, s.physNat (a + 24) 8] }

/-- An expert's entry with the software's words of a copy. -/
def Expert.withCopy (x : Expert) (c : HandleCopy) : Expert :=
  match c.words with
  | [w0, w2, w3] => { x with pool := bits w0 0 6, prio := bits w0 6 3, tier := bits w2 0 56, size := bits w3 0 32 }
  | _ => x

namespace Eng

/-- An expert's entry, read by Perigee's table unit. -/
def expert (a : Nat) : Eng Expert := do
  guard a 32 Want.load
  return (← state).expert a

/-- An expert's entry as Perigee's cached entries let it be (R326): the software's words are those memory holds or those
of a copy that no HTINV has discarded. The read leaves its copy in the cache. -/
def expertVia (sp : Space) (e : Nat) : Eng Expert := do
  let x ← expert (sp.expertAt e)
  let y ← get
  let fresh := y.s.expertCopy sp e
  let cached := (y.s.copiesOf sp.asid).filter fun c => c.ert = true ∧ c.index = fresh.index ∧ c.addr = fresh.addr
  let ways := dedup (fresh :: cached)
  let (n, s) := y.s.pick ways.length
  let c := (ways[n]?).getD fresh
  set { y with s := s.cacheCopy c }
  return x.withCopy c

/-- The ERT bind count of an expert changed (R218). -/
def bindCount (sp : Space) (e : Nat) (up : Bool) : Eng Unit := do
  let x ← expert (sp.expertAt e)
  setWord0 x.addr 16 16 (if up then x.bcount + 1 else x.bcount - 1)

/-- The destruction of an object, one event (R76): GEN moves on, the storage returns to its pool (R82) and its table to
the arena, every weak slot becomes gone, and an expert's copy leaves the ERT with Perigee's weak hold (R86, R327). The
entry is free with no weak hold left and dead otherwise (R322). -/
def destroy (sp : Space) (i : BitVec 24) : Eng Unit := do
  let a := sp.entryAt i
  let x ← entry a
  if x.blk then
    dropTable (← btable x.tbl)
    arenaGive x.tbl
  guard (sp.expertAt 0) (if x.blk && !x.paged then 32 * sp.ertSize else 0) Want.load
  let s ← state
  let copies := if x.blk && !x.paged then
      (List.range sp.ertSize).filter fun e =>
        let y := s.expert (sp.expertAt e)
        y.handle = handleValue x.gen true i && 2 ≤ y.state
    else []
  for e in copies do
    setWord0 (sp.expertAt e) 0 2 0
    write (sp.expertAt e + 8) 8 0
  let wc := x.wcount - copies.length
  setWord0 a 48 16 (x.gen.toNat + 1)
  setCounts a x.scount wc
  setWord0 a 0 2 (if wc = 0 then 0 else 2)
  forget sp.asid i
  onState fun s => s.markGone sp.asid i

/-- What a change of an entry's counts leads to (R75, R322): a live object with no holds left and KEEP clear is
destroyed, a dead entry with no weak hold left is free. -/
def settle (sp : Space) (i : BitVec 24) : Eng Unit := do
  let x ← entry (sp.entryAt i)
  if x.state = 1 && !x.keep && x.scount = 0 && x.wcount = 0 then destroy sp i
  else if x.state = 2 && x.wcount = 0 then setWord0 x.addr 0 2 0
  else pure ()

/-- A hold added to an entry. -/
def addHold (sp : Space) (i : BitVec 24) (weak : Bool) : Eng Unit := do
  let x ← entry (sp.entryAt i)
  if weak then setCounts x.addr x.scount (x.wcount + 1) else setCounts x.addr (x.scount + 1) x.wcount

/-- A hold taken from an entry, with no consequence yet; RSTAMP takes the TIME at which SCOUNT becomes 0 (R321). -/
def subHold (sp : Space) (i : BitVec 24) (weak : Bool) : Eng Unit := do
  let x ← entry (sp.entryAt i)
  if weak then setCounts x.addr x.scount (x.wcount - 1)
  else
    setCounts x.addr (x.scount - 1) x.wcount
    if x.scount = 1 then
      let y ← get
      write (x.addr + 56) 8 (y.s.time y.p)

/-- A hold dropped (R75). -/
def dropHold (sp : Space) (i : BitVec 24) (weak : Bool) : Eng Unit := do
  subHold sp i weak
  settle sp i

/-- A slot's binding released: its hold, if it has one, and the expert it counts for (R70, R218). -/
def release (b : Binding) : Eng Unit := do
  match b.expert with
  | none => pure ()
  | some e => bindCount b.space e false
  if b.hold then dropHold b.space b.index b.weak

/-- The indexes that page-ins of a space have taken (R327, step 2). -/
def taken (sp : Space) : Eng (List Nat) := do
  return (← state).pkg.pageq.flatMap fun q => q.2.filterMap fun x =>
    if x.space.asid = sp.asid then x.alloc.map (·.1) else none

/-- The lowest-numbered free entry of a space's table (R322). -/
def freeIndex (sp : Space) : Eng (Option (BitVec 24)) := do
  let used ← taken sp
  let s ← state
  let r := (List.range sp.htSize).find? fun i => !used.contains i && (s.entry (sp.htAddr + 64 * i)).state = 0
  guard sp.htAddr (64 * scanned sp.htSize r) Want.load
  return r.map (BitVec.ofNat 24)

/-- A new live entry (R322): the current GEN is kept. -/
def newEntry (sp : Space) (i : BitVec 24) (blk paged : Bool) (policy prio scount wcount length tbl : Nat) : Eng Unit := do
  let a := sp.entryAt i
  let x ← entry a
  write a 8 (x.gen.toNat * 2 ^ 48 + (if blk then 2 ^ 45 else 0) + (if paged then 2 ^ 43 else 0) + policy * 2 ^ 38 +
    prio * 2 ^ 35 + 1)
  setCounts a scount wcount
  write (a + 16) 8 0
  write (a + 24) 8 0
  write (a + 32) 8 length
  write (a + 40) 8 tbl
  write (a + 48) 8 0
  write (a + 56) 8 0
  forget sp.asid i

end Eng

/-- A slot of the current hart. -/
def State.slot (s : State) (h : BitVec 4) : Option Binding := s.h.slots.get none h.toNat

/-- A slot of the current hart bound or unbound. -/
def State.setSlot (s : State) (h : BitVec 4) (b : Option Binding) : State :=
  s.mod fun x => { x with slots := x.slots.set none h.toNat b }

/-- A binding with a hold, made now: it records the space in force (R287). -/
def State.bindingOf (s : State) (weak : Bool) (gen : BitVec 16) (i : BitVec 24) (expert : Option Nat) : Binding :=
  { weak := weak, hold := true, gone := false, gen := gen, index := i, space := s.h.space, expert := expert }

end Sys2Proof.Machine
end

