-- ==== Sys2Proof/Machine/Access.lean ====
section
/-!
DEFINITION. Accesses through a slot: the checks of R74 in their order, the spaces of R72, and the places of an element's
bytes (R313, R314).
-/

namespace Sys2Proof.Machine

/-- An exception on its way to its handler (R317): its code, the value UVAL or SVAL receives, whether a vector
instruction raised it, the ESTART its frame records, and the word of a vector instruction that goes on from its frame,
which the frame keeps in its queue (R319). -/
structure Trap where
  code : BitVec 8
  val : Word
  vec : Bool
  estart : Nat
  word : Option (BitVec 32) := none
  deriving DecidableEq, Repr

/-- The accesses that R72 tells apart. -/
inductive Use where
  | sld | vld | cbld | vpref | store | atomic | wait | copyFrom | copyTo | pushFrom | pushTo | frame | frameIn
  deriving DecidableEq, Repr

/-- Accesses that a gone weak slot answers without a trap (R77, R78). -/
def Use.soft : Use → Bool
  | .sld | .vld | .vpref => true
  | _ => false

/-- Accesses that write, which a shared block stops (R83). -/
def Use.writes : Use → Bool
  | .store | .atomic | .copyTo | .frame => true
  | _ => false

/-- Accesses that need natural alignment (R73). -/
def Use.aligned : Use → Bool
  | .atomic | .wait => true
  | _ => false

/-- What an access needs of pages and access tables (R312). -/
def Use.want : Use → Want
  | .sld | .vld | .cbld | .vpref | .wait | .copyFrom | .pushFrom | .frameIn => Want.load
  | .store | .copyTo | .pushTo | .frame => Want.store
  | .atomic => Want.atomic_

/-- Whether a space admits an access of a hart of a cluster (R72). -/
def admits (e : Entry) (cl : Nat) (u : Use) : Bool :=
  match e.space with
  | 0 => u ≠ .pushTo
  | 1 => e.owner == cl % 24 && u ≠ .pushTo
  | 2 => u == .sld || u == .vld || u == .cbld || u == .vpref || u == .copyFrom
  | 3 => u == .copyFrom || u == .copyTo || u == .pushFrom || u == .pushTo
  | 4 => u == .sld || u == .vld || u == .vpref || u == .copyFrom
  | _ => false

/-- An element of an access: its index, its byte offset, which the address rules compute without wrapping, and its bytes. -/
structure Elem where
  idx : Nat
  off : Int
  len : Nat
  deriving DecidableEq, Repr

/-- What the checks of R74 find first. -/
inductive Failed where
  | unbound | gone | space
  | bounds (e : Nat)
  | unmapped (e : Nat)
  | align (e : Nat)
  | shared (e entry : Nat)
  deriving DecidableEq, Repr

/-- The table entries that an element's bytes fall into (R81). -/
def entriesOf (bs : Nat) (x : Elem) : List Nat :=
  let lo := x.off.toNat / bs
  (List.range ((x.off.toNat + x.len - 1) / bs - lo + 1)).map (lo + ·)

/-- Check 4: in bounds, the sum computed without wrapping (R73). -/
def inBounds (e : Entry) (x : Elem) : Bool := 0 ≤ x.off && x.off.toNat + x.len ≤ e.length

/-- The address on which alignment is judged (R73). -/
def alignBase (e : Entry) : Nat := if e.blk then 0 else e.base

/-- Checks 5 to 7 of R74 for the elements of a paged object. -/
def pagedChecks (s : State) (e : Entry) (u : Use) (l : List Elem) : Option Failed :=
  let t := s.btable e.tbl
  let q := s.pool s.partNo t.pool
  match l.find? fun x => (entriesOf q.bs x).any fun n => (s.mapped t n).isNone with
  | some x => some (.unmapped x.idx)
  | none =>
    match if u.aligned then l.find? fun x => x.off.toNat % x.len ≠ 0 else none with
    | some x => some (.align x.idx)
    | none =>
      if !u.writes then none
      else
        let hit := l.findSome? fun x => ((entriesOf q.bs x).find? fun n =>
          match s.mapped t n with
          | some b => 1 < s.physNat (q.cnt + 4 * b) 4
          | none => false).map fun n => (x.idx, n)
        hit.map fun y => .shared y.1 y.2

/-- The words that checks 5 to 7 read: the table's header and its pool's descriptor, the entries of the elements, and for a
write the counts of their blocks (R323, R324). -/
def pagedWords (s : State) (e : Entry) (u : Use) (l : List Elem) : List Piece :=
  let t := s.btable e.tbl
  let q := s.pool s.partNo t.pool
  let ns := dedup (l.flatMap (entriesOf q.bs))
  (.phys e.tbl, 12) :: (.phys q.addr, 32) :: (ns.map fun n => (.phys (t.addr + 64 + 4 * n), 4)) ++
    if u.writes then ns.filterMap fun n => (s.mapped t n).map fun b => (.phys (q.cnt + 4 * b), 4) else []

/-- The errors that the checks of an access meet (R368): those of the words they read. -/
def State.meetChecks (s : State) (e : Entry) (u : Use) (l : List Elem) : State :=
  if s.bad.isEmpty || !e.paged || !l.all (inBounds e) then s else s.meetAll (pagedWords s e u l)

/-- Checks 4 to 7 of R74 over the active elements. -/
def elemChecks (s : State) (e : Entry) (u : Use) (l : List Elem) : Option Failed :=
  match l.find? fun x => !inBounds e x with
  | some x => some (.bounds x.idx)
  | none =>
    if e.paged then pagedChecks s e u l
    else (if u.aligned then l.find? fun x => (alignBase e + x.off.toNat) % x.len ≠ 0 else none).map fun x => .align x.idx

/-- Checks 2 and 3 of R74 on a bound slot. -/
def slotChecks (s : State) (b : Binding) (e : Entry) (u : Use) : Option Failed :=
  if b.isGone e then some .gone else if !admits e s.clNo u then some .space else none

/-- UVAL of a handle-bounds trap (R74). -/
def boundsVal (elem code : Nat) (h : BitVec 4) : Word := BitVec.ofNat 64 (elem % 2 ^ 32 * 2 ^ 32 + code * 16 + h.toNat)

/-- The trap that a failed check raises (R74, R78, R84); a failed check records ESTART = 0. -/
def Failed.trap (vec : Bool) (h : BitVec 4) : Failed → Trap
  | .unbound => { code := 16, val := boundsVal 0 1 h, vec := vec, estart := 0 }
  | .gone => { code := 17, val := h.zeroExtend 64, vec := vec, estart := 0 }
  | .space => { code := 16, val := boundsVal 0 2 h, vec := vec, estart := 0 }
  | .bounds e => { code := 16, val := boundsVal e 0 h, vec := vec, estart := 0 }
  | .unmapped e => { code := 16, val := boundsVal e 3 h, vec := vec, estart := 0 }
  | .align e => { code := 16, val := boundsVal e 4 h, vec := vec, estart := 0 }
  | .shared e n => { code := 18, val := BitVec.ofNat 64 (e % 2 ^ 32 * 2 ^ 32 + n % 2 ^ 16 * 2 ^ 16 + h.toNat), vec := vec,
                     estart := 0 }

/-- The trap of a failed translation (R317): codes 5 to 7 from the scalar agent, 8 to 10 from the vector agent. -/
def walkTrap (vec : Bool) (e : WalkErr) (val : Word) (estart : Nat) : Trap :=
  let k : BitVec 8 := match e with | .notPresent => 0 | .permission => 1 | .malformed => 2
  { code := (if vec then 8 else 5) + k, val := val, vec := vec, estart := estart }

/-- The trap of an instruction, whose word its frame keeps. -/
def Trap.of (t : Trap) (word : BitVec 32) : Trap := { t with word := some word }

/-- The trap of a word that is no instruction, or of an instruction that its operands make illegal (R138). -/
def illTrap (sub : Nat) (word : BitVec 32) : Trap :=
  { code := 1, val := BitVec.ofNat 64 (sub * 2 ^ 32 + word.toNat), vec := false, estart := 0 }

/-! ## Where bytes lie -/

/-- How the bytes of one slot's object are reached; `stride` says that the access is unit-stride or a stream (R315). -/
structure Place where
  sp : Space
  user : Bool
  use : Use
  ent : Entry
  stride : Bool := false
  deriving DecidableEq, Repr

/-- The place as a VLD or VST of a mode reaches it: unit-stride in MODE 0, a stream in MODE 5 (R199, R203). -/
def Place.inMode (p : Place) (mode : Nat) : Place := { p with stride := mode = 0 || mode = 5 }

/-- What an access of a place needs. -/
def Place.want (p : Place) : Want := { p.use.want with stride := p.stride }

/-- The bytes of a unit that is translated at once: a 64 KiB page (R314), or a block. -/
def Place.unit (s : State) (p : Place) : Nat :=
  if p.ent.blk then (s.pool s.partNo (s.btable p.ent.tbl).pool).bs else 65536

/-- The first byte's number in the space that is cut into units: the virtual address, or the offset in a block table. -/
def Place.addr (p : Place) (off : Nat) : Nat := if p.ent.blk then off else p.ent.base + off

/-- The tier rule of an object's space (R313). -/
def Place.tier (p : Place) : TierRule := if p.ent.space = 4 then .only else .never

/-- The physical address of a unit (R313): a page through the page tables, a block through the block table. SVAL of a
fault is the virtual page; a block has none and leaves the value open. -/
def Place.unitAt (s : State) (p : Place) (k : Nat) : Except (WalkErr × Word) Nat × State :=
  if p.ent.blk then
    let t := s.btable p.ent.tbl
    let q := s.pool s.partNo t.pool
    let a := q.blockAt (match s.mapped t k with | some b => b | none => 0)
    if s.reachable p.tier p.want a then (.ok a, s)
    else (.error (.permission, Config.freeWord s.seq), { s with seq := s.seq + 1 })
  else
    match s.xlate p.sp p.user p.tier p.want (k * 65536) with
    | (.ok a, s) => (.ok a, s)
    | (.error e, s) => (.error (e, BitVec.ofNat 64 k), s)

/-- The units an instruction has translated, each once (R314). -/
abbrev Memo := List (Nat × Nat)

/-- A unit's physical address, translated when the instruction first meets it. -/
def Place.lookup (s : State) (p : Place) (m : Memo) (k : Nat) : Except (WalkErr × Word) Nat × Memo × State :=
  match m.find? fun x => x.1 = k with
  | some x => (.ok x.2, m, s)
  | none =>
    match p.unitAt s k with
    | (.ok a, s) => (.ok a, (k, a) :: m, s)
    | (.error e, s) => (.error e, m, s)

/-- The runs of `n` bytes from byte `a` on, unit by unit: the runs found, and the failure that ended them. -/
def Place.runs (p : Place) (unit : Nat) : Nat → Nat → Nat → Memo → State →
    List Piece × Option (WalkErr × Word) × Memo × State
  | 0, _, _, m, s => ([], none, m, s)
  | fuel + 1, a, n, m, s =>
    if n = 0 then ([], none, m, s)
    else
      let k := min n (unit - a % unit)
      match p.lookup s m (a / unit) with
      | (.error e, m, s) => ([], some e, m, s)
      | (.ok b, m, s) =>
        let (l, e, m, s) := Place.runs p unit fuel (a + k) (n - k) m s
        ((.phys (b + a % unit), k) :: l, e, m, s)

/-- The runs of an element's bytes. Scratchpad bytes need no translation (R313). DESIGN CHOICE: a bank offset at or beyond
the 2 MiB of R3 has a byte of its own (log 65). -/
def Place.elem (p : Place) (x : Elem) (m : Memo) (s : State) : List Piece × Option (WalkErr × Word) × Memo × State :=
  if p.ent.space = 1 then ([(.scratch s.clNo (p.ent.base + x.off.toNat), x.len)], none, m, s)
  else
    let u := p.unit s
    p.runs u (x.len / u + 2) (p.addr x.off.toNat) x.len m s

/-- The runs of the elements, in order, up to the first that fails: the elements found, the failure with the number of
bytes of its element that were found, and the state. -/
def Place.elems (p : Place) : List Elem → Memo → State →
    List (Elem × List Piece) × Option (Elem × Nat × WalkErr × Word) × Memo × State
  | [], m, s => ([], none, m, s)
  | x :: l, m, s =>
    match p.elem x m s with
    | (ps, some (e, v), m, s) => ([], some (x, (ps.map (·.2)).sum, e, v), m, s)
    | (ps, none, m, s) =>
      let (r, f, m, s) := Place.elems p l m s
      ((x, ps) :: r, f, m, s)

/-- Runs that follow one another joined. -/
def joinRuns : List Piece → List Piece
  | [] => []
  | (l, n) :: t =>
    match joinRuns t with
    | (l', n') :: r => if l.add n = l' then (l, n + n') :: r else (l, n) :: (l', n') :: r
    | [] => [(l, n)]

/-- Where a byte of a place stands for the judging of overlap (R112): a bank offset of a cluster, a block offset of an
object, or a virtual address of an ASID. -/
def Place.key (p : Place) (cl : Nat) (x : Elem) : (Nat × Nat) × Int :=
  if p.ent.space = 1 then ((1, cl), p.ent.base + x.off)
  else if p.ent.blk then ((2, p.ent.addr), x.off)
  else ((0, p.sp.asid.toNat), p.ent.base + x.off)

/-- The bytes of a list of elements of a place, as one range (R111): of the whole object where the elements are a stream's. -/
def Place.span (p : Place) (cl : Nat) (writes whole : Bool) (l : List Elem) : List Span :=
  let at_ (off : Int) : (Nat × Nat) × Int := p.key cl { idx := 0, off := off, len := 1 }
  if whole then [{ space := (at_ 0).1, lo := (at_ 0).2, hi := (at_ 0).2 + p.ent.length, writes := writes }]
  else
    match l with
    | [] => []
    | x :: r =>
      let lo : Int := r.foldl (fun (a : Int) (y : Elem) => min a y.off) x.off
      let hi : Int := r.foldl (fun (a : Int) (y : Elem) => max a (y.off + (y.len : Int))) (x.off + (x.len : Int))
      [{ space := (at_ 0).1, lo := (at_ lo).2, hi := (at_ lo).2 + (hi - lo), writes := writes }]

/-- What a slot answers to an access once its checks are run. -/
inductive Reached where
  /-- every check passes -/
  | ok (p : Place)
  /-- a gone weak slot, for an access that takes it without a trap (R77) -/
  | gone
  /-- a trap (R74) -/
  | trap (t : Trap)
  deriving DecidableEq, Repr

/-- The checks of R74 on a slot, in order, over the elements of an access, which may depend on the entry (R92): the
first that fails, or the place, with the elements. -/
def State.checks (s : State) (h : BitVec 4) (u : Use) (f : State → Entry → List Elem) :
    Except Failed Place × List Elem × State :=
  match s.slot h with
  | none => (.error .unbound, [], s)
  | some b =>
    let (e, s) := s.view b
    match slotChecks s b e u with
    | some x => (.error x, [], s)
    | none =>
      let l := f s e
      match elemChecks s e u l with
      | some x => (.error x, l, s.meetChecks e u l)
      | none => (.ok { sp := b.space, user := s.user, use := u, ent := e }, l, s.meetChecks e u l)

/-- The order number of a check (R74). -/
def Failed.order : Failed → Nat
  | .unbound => 1 | .gone => 2 | .space => 3 | .bounds _ => 4 | .unmapped _ => 5 | .align _ => 6 | .shared .. => 7

/-- What a slot answers to an access, with the elements. -/
def State.reachBy (s : State) (h : BitVec 4) (u : Use) (vec : Bool) (f : State → Entry → List Elem) :
    Reached × List Elem × State :=
  match s.checks h u f with
  | (.ok p, l, s) => (.ok p, l, s)
  | (.error .gone, l, s) => (if u.soft then .gone else .trap (Failed.gone.trap vec h), l, s)
  | (.error x, l, s) => (.trap (x.trap vec h), l, s)

/-- The checks of R74 on a slot over given elements. -/
def State.reach (s : State) (h : BitVec 4) (u : Use) (vec : Bool) (l : List Elem) : Reached × State :=
  let (r, _, s) := s.reachBy h u vec fun _ _ => l
  (r, s)

/-- The outcome of an access of one element. -/
inductive Got where
  | runs (l : List Piece)
  | gone
  | trap (t : Trap)
  deriving DecidableEq, Repr

/-- The state after an access that has failed: a scalar instruction that faults has had no effect (R319), so the bits and
cached entries of the pages it did reach are as before; the errors met stay. -/
def State.unwound (s : State) (vec : Bool) (t : State) : State := if vec then t else { s with seq := t.seq, h := t.h }

/-- An access of one element through a slot: the runs of its bytes, gone, or the trap. -/
def State.one (s : State) (h : BitVec 4) (u : Use) (vec : Bool) (off : Int) (len : Nat) : Got × State :=
  let x : Elem := { idx := 0, off := off, len := len }
  match s.reach h u vec [x] with
  | (.trap t, s) => (.trap t, s)
  | (.gone, s) => (.gone, s)
  | (.ok p, s) =>
    match p.elem x [] s with
    | (_, some (e, v), _, t) => (.trap (walkTrap vec e v 0), s.unwound vec t)
    | (l, none, _, s) => (.runs l, s)

end Sys2Proof.Machine
end

