-- ==== Sys2Proof/Machine/Sched.lean ====
section
/-!
DEFINITION. Contexts and slots: switching between contexts, the ready queue (R22, R298), gangs (R25, R26), the lanes a
grant receives (R296), and the end of a hart (R24, R376, R299).
-/

namespace Sys2Proof.Machine

/-- The lane groups of four that U of R296 admits in a partition: (WATTS - 125) / 5.5, rounded down. -/
def groupLimit (pcap : Word) : Nat := (2 * (bits pcap.toNat 0 16 - 125)) / 11

namespace State

/-- The state with another context's registers in `h`. -/
def switchTo (s : State) (k : Nat) : State :=
  if k = s.cur then s
  else
    let t := s.harts.set Hart.reset s.cur s.h
    { s with cur := k, h := t.get Hart.reset k, harts := t.set Hart.reset k Hart.reset }

/-- An operation on another context, as if it were the current one. -/
def onCtx (s : State) (k : Nat) (f : State → State) : State := (f (s.switchTo k)).switchTo s.cur

/-- The active contexts of a cluster. -/
def actives (s : State) (cl : Nat) : List Nat := (ctxsOf cl).filter fun k => (s.hart k).life = .active

/-- The width of a cluster: its number of lane slots (R18). -/
def width (s : State) (cl : Nat) : Nat := 2 ^ (s.clu cl).pw.toNat

/-- A lane group of a cluster is under repair, and granted to no one (R17, R354). -/
def underRepair (s : State) (cl g : Nat) : Bool := (s.clu cl).copying.any fun x => s.cycles < x.2 && x.1 / 4 == g

/-- The lane groups of a slot that a grant can take. -/
def openGroups (s : State) (cl n : Nat) : List Nat := (slotGroups (s.clu cl).pw n).filter fun g => !s.underRepair cl g

/-- The lane groups that a slot must have for a hart: those of the grant it holds, and one where it holds none. -/
def groupsNeeded (s : State) (k : Nat) : Nat := if (s.hart k).granted then max 1 ((s.hart k).lg / 4) else 1

/-- The slot a hart of a cluster takes: of those that no hart holds and whose groups that are not under repair suffice it,
the lowest-numbered one (log 48). -/
def freeSlot (s : State) (cl k : Nat) : Option Nat :=
  (List.range (s.width cl)).find? fun n =>
    !((s.actives cl).any fun k => (s.hart k).slot = n) && s.groupsNeeded k ≤ (s.openGroups cl n).length

/-- A hart takes a slot (R298); the grant it brings holds groups there. -/
def takeSlot (s : State) (k n : Nat) : State :=
  s.modHart k fun h => { h with life := .active, slot := n, since := s.cycles,
                                groups := if h.granted then (s.openGroups (k / 16) n).take (h.lg / 4) else [] }

/-- Free slots go to the head of the ready queue (R298). -/
def fillSlots (s : State) (cl : Nat) : Nat → State
  | 0 => s
  | fuel + 1 =>
    match (s.clu cl).ready with
    | [] => s
    | k :: q =>
      match s.freeSlot cl k with
      | none => s
      | some n => fillSlots ((s.modClu cl fun c => { c with ready := q }).takeSlot k n) cl fuel

/-- A context's hart has ended. -/
def ended (s : State) (k : Nat) : Bool := (s.hart k).life = .free

/-- A hart becomes standby-ready at the tail of the queue, and takes a slot at once if one is free (R298). -/
def makeReady (s : State) (k : Nat) : State :=
  let s := s.modHart k fun h => { h with life := .standby, park := none }
  (s.modClu (k / 16) fun c => { c with ready := c.ready ++ [k] }).fillSlots (k / 16) 16

/-- A parked hart's wake condition holds (R22). A saved hart runs no more than before, but is parked no longer. -/
def wake (s : State) (k : Nat) : State :=
  match (s.hart k).life with
  | .standby => s.makeReady k
  | _ => s.modHart k fun h => { h with park := none }

/-- Contexts woken in turn. -/
def wakeAll (s : State) (l : List Nat) : State := l.foldl wake s

/-- The registers of a gang (R25). -/
def gangOf (s : State) (cl : Nat) (g : BitVec 3) : Gang := (s.clu cl).gangs.get Gang.reset g.toNat

/-- A gang's registers changed. -/
def modGang (s : State) (cl : Nat) (g : BitVec 3) (f : Gang → Gang) : State :=
  s.modClu cl fun c => { c with gangs := c.gangs.set Gang.reset g.toNat (f (s.gangOf cl g)) }

/-- The barrier completes: PHASE moves on, ARRIVED and GFIX clear, and every parked member wakes, in one step (R26). -/
def completeBarrier (s : State) (cl : Nat) (g : BitVec 3) : State :=
  (s.modGang cl g fun x => { x with phase := x.phase + 1, arrived := 0, gfix := false }).wakeAll
    ((ctxsOf cl).filter fun k => (s.hart k).life ≠ .free ∧ (s.hart k).gang = g ∧ (s.hart k).park = some .gbar)

/-- A hart leaves its gang (R26). One that was parked in the barrier no longer counts among the members parked there. -/
def leaveGang (s : State) (k : Nat) : State :=
  let h := s.hart k
  if h.gang = 0 then s
  else
    let cl := k / 16
    let g := h.gang
    let s := s.modGang cl g fun x =>
      let m := x.members - 1
      { x with members := m, arrived := if h.park = some .gbar then x.arrived - 1 else x.arrived,
               gfix := if m = 0 then false else x.gfix }
    let s := s.modHart k fun h => { h with gang := 0 }
    let x := s.gangOf cl g
    if 1 ≤ x.arrived ∧ x.arrived = x.members then s.completeBarrier cl g else s

/-- A hart joins a gang (R25). -/
def joinGang (s : State) (k : Nat) (g : BitVec 3) : State :=
  (s.modGang (k / 16) g fun x => { x with members := x.members + 1 }).modHart k fun h => { h with gang := g }

/-- The lane groups that the grants in force of a partition hold, but for one context's own (R296): a grant holds them
while its hart holds a slot. -/
def heldGroups (s : State) (p except : Nat) : Nat :=
  ((s.liveCtxs.filter fun k => k / 384 = p ∧ k ≠ except).map fun k =>
    let h := s.hart k
    if h.life = .active ∧ h.granted then h.lg / 4 else 0).sum

/-- The lanes that a context's slot can give: its own but for the groups under repair. -/
def lanesOpen (s : State) (k : Nat) : Nat := 4 * (s.openGroups (k / 16) (s.hart k).slot).length

/-- The lanes a hart receives at a grant point (R296): 4 at the least (log 49). -/
def lanesFor (s : State) (k : Nat) : Nat :=
  let p := k / 384
  let pcap := (s.part p).pcap
  let lh := max 4 (s.lanesOpen k)
  if bits pcap.toNat 16 1 = 0 then lh
  else
    let room := groupLimit pcap - s.heldGroups p k
    if lh / 4 ≤ room then lh else if room = 0 then 4 else 4 * room

/-- The lanes of the current hart's next grant. While its gang's grant is fixed it keeps those it has (R27). -/
def grantLanes (s : State) : Nat :=
  let n := s.lanesFor s.cur
  if s.h.gang ≠ 0 ∧ (s.gangOf s.clNo s.h.gang).gfix ∧ s.h.granted then max 4 (min (s.lanesOpen s.cur) (max n s.h.lg)) else n

/-- A grant of the current hart with the lane groups it holds: as many of its slot's as the lanes take, none under repair
(R17, R296). -/
def holdLanes (s : State) (lg : Nat) : State :=
  s.mod fun h => { h with lg := lg, granted := true, groups := (s.openGroups s.clNo h.slot).take (lg / 4) }

/-- A restore is a grant point (R29, R296): a grant that it puts in force again takes the lanes of that moment, and keeps
those it had while its gang's grant is fixed (R27). -/
def regrant (s : State) : State := if s.h.granted then s.holdLanes s.grantLanes else s.mod fun h => { h with groups := [] }

/-- A PART stops every hart of a cluster from issuing (R19): the context whose PART waits still stands at it. -/
def partStops (s : State) (cl : Nat) : Bool :=
  match (s.clu cl).parting with
  | some (k, pc) => (s.hart k).life = .active && (s.hart k).park.isNone && (s.hart k).pc = pc
  | none => false

/-- The ready tokens of a context, one of each expert of an ASID: each such expert has one ready hold (R89). -/
def readyExperts (s : State) (k : Nat) : List (Space × Nat) :=
  (((s.clu (k / 16)).tokens.filter fun t => t.hart = k ∧ t.ready.isSome).foldl (fun l t =>
    if l.any fun x => x.1.asid = t.space.asid ∧ x.2 = t.expert then l else l ++ [(t.space, t.expert)]) [])

/-- A hart's tokens leave the wait queue and its ready holds drop (R24, R89). -/
def discardTokens (s : State) (k : Nat) : State :=
  let l := s.readyExperts k
  let s := s.modClu (k / 16) fun c => { c with tokens := c.tokens.filter fun t => t.hart ≠ k }
  l.foldl (fun s x => Eng.quiet s (k / 384) do
    let e ← Eng.expert (x.1.expertAt x.2)
    Eng.dropHold x.1 (valIndex e.handle) false) s

/-- Every bound slot of a hart drops its hold (R24). -/
def releaseAll (s : State) (k : Nat) : State :=
  let l := (s.hart k).slots.filterMap (·.2)
  let s := l.foldl (fun s b => Eng.quiet s (k / 384) (Eng.release b)) s
  s.modHart k fun h => { h with slots := [] }

/-- The staging that a context's stopped transfers hold returns to the arena (R221). -/
def releaseStaging (s : State) (k : Nat) : State :=
  let h := s.hart k
  let l := h.restart.stage.toList ++ (s.pkg.frames.filter fun f => f.key = h.key ∧ f.live).filterMap (·.restart.stage)
  s.modPart (k / 384) fun p => { p with arena := p.arena.filter fun x => !l.contains x.1 }

/-- A store of the current hart performed, of those it has not yet performed (R103). -/
def performOne (s : State) (x : Pending) : State := s.store x.runs x.bytes x.elem

/-- A context's stores not yet performed (R103) are performed, oldest first. `seen` looks at memory after each. -/
def performWith (s : State) (seen : State → State) (k : Nat) : State :=
  if (s.hart k).stores = [] then s
  else s.onCtx k fun s =>
    s.h.stores.foldl (fun s x => seen (s.performOne x)) (s.mod fun h => { h with stores := [] })

/-- A context's stores performed as its hart ends. -/
def performStores (s : State) (k : Nat) : State := s.performWith id k

/-- A hart ends (R24): its stores are performed, it leaves its gang, its holds drop, its tokens are discarded and its context is free. Its
generation stays with the context (R21). -/
def endHart (s : State) (k : Nat) : State :=
  let s := ((((s.performStores k).leaveGang k).releaseAll k).discardTokens k).releaseStaging k
  let s := s.modHart k fun h => { Hart.reset with hgen := h.hgen, space := Space.reset (s.part (k / 384)).asidlo }
  (s.modClu (k / 16) fun c => { c with ready := c.ready.filter (· ≠ k) }).fillSlots (k / 16) 16

/-- The handle tables of a partition (R75, R322): those last in force for each ASID, those its live harts and their slots
name, the image's, and those of its page-ins. -/
def tablesOf (s : State) (p : Nat) : List Space :=
  let live := s.liveCtxs.filter fun k => k / 384 = p
  dedup ((s.part p).known ++ (live.map fun k => (s.hart k).space) ++ (live.flatMap fun k =>
    (s.hart k).slots.filterMap fun x => x.2.map (·.space)) ++ (s.part p).image.map (·.1) ++
    s.pkg.pageq.flatMap fun q => (q.2.filter (·.part = p)).map (·.space))

/-- The tables in force for an ASID take the place of those that were (R286). -/
def noteSpace (s : State) (p : Nat) (sp : Space) : State :=
  s.modPart p fun x => { x with known := sp :: x.known.filter (·.asid ≠ sp.asid) }

/-- The hart id of a context (R21). -/
def hidOf (s : State) (k : Nat) : BitVec 20 := (s.hart k).hgen ++ BitVec.ofNat 4 k

/-- A key for a context, drawn from the entropy source (R290). -/
def drawKey (s : State) (k : Nat) : State :=
  { s.modHart k (fun h => { h with key := Config.entropy s.seq }) with seq := s.seq + 1 }

/-- A record of a partition's error log (R371): the ring keeps the newest 63, the head counts all. -/
def logRecord (s : State) (p : Nat) (source kind : BitVec 8) (master : Nat) (hid : BitVec 32) (value extra : Word) :
    State :=
  let r : LogRecord := { time := s.time p, source := source, kind := kind, master := BitVec.ofNat 16 master, hid := hid,
                         value := value, extra := extra }
  let s := s.modPart p fun x => { x with logHead := x.logHead + 1, log := (r :: x.log).take 63 }
  if kind = 0 then s else { s with pkg := { s.pkg with msi := s.pkg.msi + 1 } }

end State

end Sys2Proof.Machine
end

