-- ==== Sys2Proof/Machine/Shake.lean ====
section
/-!
DEFINITION. SHAKE256, with which frames are sealed (R290), images and keys digested (R360, R364) and measurements
extended (R363), and CRC-32C, which guards flits (R339). The spec names these functions; what they compute is FIPS 202's
and the Castagnoli polynomial's.
-/

namespace Sys2Proof.Machine.Shake

/-- The 64-bit lane `i` of a string of bits held as one number. -/
def laneOf (n i : Nat) : Nat := bits n (64 * i) 64

/-- The plane of five lanes `y` of the state: 320 bits. -/
def planeOf (n y : Nat) : Nat := bits n (320 * y) 320

/-- A lane turned left by `k` of its 64 places. -/
def turn (v k : Nat) : Nat := v * 2 ^ k % 2 ^ 64 + v / 2 ^ (64 - k)

/-- A plane with each lane in the place of its neighbour below: lane x takes lane x + 1. -/
def nextLane (n : Nat) : Nat := n / 2 ^ 64 + laneOf n 0 * 2 ^ 256

/-- Theta: every column takes the parities of two others, which are the same for the five planes. -/
def mixColumns (n : Nat) : Nat :=
  let parity := planeOf n 0 ^^^ planeOf n 1 ^^^ planeOf n 2 ^^^ planeOf n 3 ^^^ planeOf n 4
  let up := nextLane parity
  let other := (List.range 5).foldl (fun acc x =>
    acc + (laneOf parity ((x + 4) % 5) ^^^ turn (laneOf up x) 1) * 2 ^ (64 * x)) 0
  n ^^^ (List.range 5).foldl (fun acc y => acc + other * 2 ^ (320 * y)) 0

/-- The walk that rho and pi share: from lane (1, 0) on, lane (x, y) moves to (y, 2x + 3y), and step t turns it by the
t-th triangular number. Each entry names the lane, its new place and the turn. -/
def walk : Nat → Nat → Nat → Nat → List (Nat × Nat × Nat)
  | 0, _, _, _ => []
  | left + 1, t, x, y =>
    let y' := (2 * x + 3 * y) % 5
    (x + 5 * y, y + 5 * y', (t + 1) * (t + 2) / 2 % 64) :: walk left (t + 1) y y'

/-- Rho and pi: lane 0 stays, the others go where the walk takes them. -/
def turnLanes (n : Nat) : Nat :=
  (walk 24 0 1 0).foldl (fun acc st => acc + turn (laneOf n st.1) st.2.2 * 2 ^ (64 * st.2.1)) (laneOf n 0)

/-- Chi on one plane. -/
def chiPlane (v : Nat) : Nat :=
  let one := nextLane v
  v ^^^ (nextLane one &&& (2 ^ 320 - 1 - one))

/-- Chi on the five planes. -/
def chi (n : Nat) : Nat := (List.range 5).foldl (fun acc y => acc + chiPlane (planeOf n y) * 2 ^ (320 * y)) 0

/-- One step of the shift register that gives iota its bits: x^8 + x^6 + x^5 + x^4 + 1. -/
def shiftStep (r : Nat) : Nat := if r < 128 then 2 * r else (2 * r) ^^^ 0x171

/-- The constant that a round takes from the register's next seven bits, at places 0, 1, 3, 7, 15, 31 and 63, and the
register after them. -/
def iotaBits (r : Nat) : Nat × Nat :=
  (List.range 7).foldl (fun a j => (a.1 + a.2 % 2 * 2 ^ (2 ^ j - 1), shiftStep a.2)) (0, r)

/-- Some rounds of the permutation, from a state of the register on. -/
def rounds : Nat → Nat → Nat → Nat
  | 0, _, n => n
  | left + 1, r, n => rounds left (iotaBits r).2 (chi (turnLanes (mixColumns n)) ^^^ (iotaBits r).1)

/-- The permutation of 1,600 bits: 24 rounds. -/
def permute (n : Nat) : Nat := rounds 24 1 n

/-- A message taken in, 136 bytes at a time; its last bytes end with the suffix of SHAKE and the closing bit. `left` bounds
the number of blocks. -/
def takeIn : Nat → Nat → List Byte → Nat
  | 0, n, _ => n
  | left + 1, n, m =>
    if m.length < 136 then permute (n ^^^ (leNat m ^^^ (0x1F * 256 ^ m.length ^^^ 0x80 * 256 ^ 135)))
    else takeIn left (permute (n ^^^ leNat (m.take 136))) (m.drop 136)

/-- The first `n` bytes of SHAKE256 of a message, for `n` up to 136. -/
def shake256 (m : List Byte) (n : Nat) : List Byte := leBytes n (takeIn (m.length / 136 + 1) 0 m)

/-- One byte of CRC-32C, bits least significant first. -/
def crcByte (c : Nat) (b : Byte) : Nat :=
  (List.range 8).foldl (fun c _ => if c % 2 = 1 then (c / 2) ^^^ 0x82F63B78 else c / 2) (c ^^^ b.toNat)

/-- CRC-32C of some bytes. -/
def crc32c (l : List Byte) : Nat := (l.foldl crcByte 0xFFFFFFFF) ^^^ 0xFFFFFFFF

end Sys2Proof.Machine.Shake
end

