-- ==== Sys2Proof/Machine/Frames.lean ====
section
/-!
DEFINITION. Frames: their size, header, seal and place (R288 to R292, R377), and what a restore makes of the hart.

The header bytes that software may read are in memory as R289 lays them out. The opaque bytes are a free value, drawn
with the frame's number, and the seal is SHAKE256 over key and bytes (R290); `pkg.frames` keeps what each sealed frame
restores. A frame in memory is good when its seal is that of a sealed frame under the hart's key and matches the bytes.
-/

namespace Sys2Proof.Machine

/-- The registers that an NREG code gives: 8, 16, 32 or 64 (R160). -/
def nregOf (vtype : Word) : Nat := 8 * 2 ^ bits vtype.toNat 8 2

/-- The lengths entries over every register and level: K of R291. -/
def lengthEntries (v : Table VReg) : Nat := (v.map fun x => (x.2.levels.map List.length).sum).sum

/-- A transfer as a return takes it up (R221, R345). What a read fills is found again, since the pages may have moved
(log 46); a frame restored once more holds the transfers as it stopped them, and their permits went with the first. -/
def Xfer.resumed (live : Bool) (x : Xfer) : Xfer :=
  { x with stale := !x.push, permits := if live then x.permits else [] }

/-- The size of a frame (R291): A is 0 without lane state, Q vector instructions are queued, T transfers are stopped and V
elements are parked. -/
def frameSize (lanes : Bool) (l nreg k q t v : Nat) : Nat :=
  let a := if lanes then l * 32768 + 917504 + 64 * nreg + 4 * k else 0
  (1024 + a + 32 * q + 128 * t + 128 * ((v + 1023) / 1024) + 127) / 128 * 128

namespace Hart

/-- The element count of a parked VWAIT (R291). -/
def waitElems (h : Hart) : Nat := match h.park with | some (.vwait l) => l.length | _ => 0

/-- The lane state of a hart (R288). -/
def lanes (h : Hart) : Lanes :=
  { v := h.v, m := h.m, vtype := h.vtype, vlr := h.vlr, vlc := h.vlc, fcsr := h.fcsr, exsplit := h.exsplit, lg := h.lg,
    granted := h.granted }

/-- The lane state restored; under another width than it was saved at, the registers read zero at depth 0 and the grant
is empty (R377, R19). -/
def setLanes (h : Hart) (same : Bool) (x : Lanes) : Hart :=
  let h := { h with m := x.m, vtype := x.vtype, fcsr := x.fcsr, exsplit := x.exsplit }
  if same then { h with v := x.v, vlr := x.vlr, vlc := x.vlc, lg := x.lg, granted := x.granted }
  else
    { h with v := blankAll x.v, vlr := 0, vlc := 0, estart := 0, resuming := false, restart := Restart.none, granted := false,
             groups := [] }

end Hart

namespace State

/-- The bytes of a frame but for its seal: the header, s56 to s63 in kind 1, and opaque bytes (R289). -/
def frameBytes (s : State) (kind size serial : Nat) (pc : Word) (estart : Nat) (scr : List Word) : List Byte :=
  leBytes 4 0x4F46524D ++ leBytes 4 size ++ leBytes 1 kind ++ leBytes 1 s.pw.toNat ++
    leBytes 1 (bits s.h.vtype.toNat 8 2) ++ leBytes 1 0 ++ leBytes 4 (s.hidOf s.cur).toNat ++ leBytes 8 pc.toNat ++
    leBytes 8 estart ++ List.replicate 16 0 ++ scr.flatMap (fun w => leBytes 8 w.toNat) ++
    (List.range (size - 112)).map fun i => Config.frameByte serial (112 + i)

/-- The seal of a frame under a key (R290). -/
def sealOf (key : BitVec 256) (b : List Byte) : List Byte :=
  Shake.shake256 (leBytes 32 key.toNat ++ b.take 32 ++ b.drop 48) 16

/-- s56 to s63, for a frame of kind 1. -/
def scrOf (s : State) : List Word := (List.range 8).map fun i => s.h.s.get 0 (56 + i)

/-- The frame that the current hart's state makes: its size, its bytes with the seal, and what it restores. -/
def makeFrame (s : State) (kind : Nat) (pc : Word) (estart : Nat) : Nat × List Byte × Frame :=
  let serial := s.seq
  let lanes := kind ≠ 1
  let size := frameSize lanes s.lanes (nregOf s.h.vtype) (lengthEntries s.h.v) s.h.queue.length s.h.xfers.length
    s.h.waitElems
  let scr := if kind = 1 then s.scrOf else List.replicate 8 0
  let b := s.frameBytes kind size serial pc estart scr
  let sl := sealOf s.h.key b
  (size, b.take 32 ++ sl ++ b.drop 48,
    { serial := serial, sealed := sl, key := s.h.key, kind := kind, pw := s.pw, pc := pc, estart := estart,
      resuming := estart ≠ 0, restart := s.h.restart, scr := scr, lanes := s.h.lanes, park := s.h.park, xfers := s.h.xfers,
      queue := s.h.queue, live := kind ≠ 2 })

/-- A sealed frame stored at its place. -/
def putFrame (s : State) (l : List Piece) (b : List Byte) (f : Frame) : State :=
  let s := s.store l b 0
  { s with pkg := { s.pkg with frames := f :: s.pkg.frames }, seq := s.seq + 1 }

/-- A frame of the current hart written at a virtual address: the state with it, or the page that did not translate
(R291, R320). The supervisor's frames ignore U. -/
def writeFrame (s : State) (kind : Nat) (va : Word) (pc : Word) (estart : Nat) : Except Word State × State :=
  let (size, b, f) := s.makeFrame kind pc estart
  match s.xlateRun s.h.space (kind = 0 && s.user) .never Want.store (size / 65536 + 2) va.toNat size with
  | (.error (_, page), s) => (.error (BitVec.ofNat 64 page), s)
  | (.ok l, s) => (.ok (s.putFrame l b f), s)

/-- What a frame's bytes in memory restore: a frame the hart's key sealed, of an accepted kind, whose seal its bytes
match (R288, R290). -/
def goodFrame (s : State) (kinds : List Nat) (b : List Byte) : Option Frame :=
  match s.pkg.frames.find? fun f => f.key = s.h.key ∧ f.sealed = (b.drop 32).take 16 with
  | none => none
  | some f => if kinds.contains f.kind ∧ sealOf f.key b = f.sealed then some f else none

/-- The answer of a frame read: the frame, a seal that fails, or a page that does not translate. -/
inductive Unsealed where
  | good (f : Frame)
  | bad
  | fault (e : WalkErr) (page : Nat)

/-- The frame at a virtual address of the current hart (R166, R167). -/
def readFrame (s : State) (kinds : List Nat) (user : Bool) (va : Word) : Unsealed × State :=
  match s.xlateRun s.h.space user .either Want.load 2 va.toNat 1024 with
  | (.error (e, p), s) => (.fault e p, s)
  | (.ok l, s) =>
    let head := s.raw l
    let size := leNat ((head.drop 4).take 4)
    if (s.pkg.frames.find? fun f => f.key = s.h.key ∧ f.sealed = (head.drop 32).take 16).isNone then (.bad, s)
    else
      match s.xlateRun s.h.space user .either Want.load (size / 65536 + 2) va.toNat size with
      | (.error (e, p), s) => (.fault e p, s)
      | (.ok l, s) =>
        let (b, s) := s.load l 0
        match s.goodFrame kinds b with
        | some f => (.good f, s)
        | none => (.bad, s)

/-- What every frame restores: the pc, ESTART with what its restart needs, the queued vector instructions and the
transfers it stopped; with lane state, that too (R288, R377). A return ends the convoy (log 47). -/
def restore (s : State) (f : Frame) : State :=
  let same := f.pw = s.pw
  let live := s.pkg.frames.any fun x => x.serial = f.serial && x.live
  let frames := s.pkg.frames.map fun x => if x.serial = f.serial then { x with live := false } else x
  { s with pkg := { s.pkg with frames := frames } }.mod fun h =>
    let h := { h with pc := f.pc, estart := f.estart, resuming := f.resuming,
                      restart := { f.restart with stage := if live then f.restart.stage else none },
                      queue := f.queue, xfers := h.xfers ++ f.xfers.map (Xfer.resumed live), convoy := [] }
    if f.kind = 1 then h else h.setLanes same f.lanes

end State

end Sys2Proof.Machine
end

