-- ==== Sys2Proof/Machine/Fabric.lean ====
section
/-!
DEFINITION. The Dzigar fabric, sending side: the peer-slot map (R341), flits and their CRC (R339), ports and replay
(R340), and permits (R344).

A port numbers the flits it must be able to replay from 1 on; acks and naks are not numbered. A flit that finds the 256
of the replay buffer taken waits. A transfer's bytes are acknowledged when no port holds a flit of it.
-/

namespace Sys2Proof.Machine

/-- A valid entry of a partition's peer-slot map (R341). -/
structure PeerSlot where
  quota : Nat
  ports : Nat
  peer : BitVec 16
  deriving DecidableEq, Repr

/-- A flit's TYPE (R339). -/
inductive FlitType where
  | idle | data | flag | ack | nak | grant | permit | refusal | reset
  deriving DecidableEq, Repr

/-- The code of a TYPE. -/
def FlitType.code : FlitType → Nat
  | idle => 0 | data => 1 | flag => 2 | ack => 3 | nak => 4 | grant => 5 | permit => 6 | refusal => 7 | reset => 8

/-- The fields of a flit (R339). -/
structure Flit where
  type : Nat
  seq : BitVec 12
  epoch : BitVec 4
  ack : BitVec 12
  src : BitVec 16
  dst : BitVec 16
  tag : BitVec 32
  k : Nat
  payload : List Byte
  deriving DecidableEq, Repr

namespace Flit

/-- Bytes 0 to 251 of a flit. -/
def body (f : Flit) : List Byte :=
  leBytes 2 f.type ++ leBytes 2 (f.epoch.toNat * 4096 + f.seq.toNat) ++ leBytes 2 f.ack.toNat ++ leBytes 2 0 ++
    leBytes 2 f.src.toNat ++ leBytes 2 f.dst.toNat ++ leBytes 4 f.tag.toNat ++ leBytes 6 f.k ++
    leBytes 2 f.payload.length ++ f.payload ++ List.replicate (228 - f.payload.length) 0

/-- The 256 bytes of a flit. -/
def bits2048 (f : Flit) : BitVec 2048 := BitVec.ofNat 2048 (leNat (f.body ++ leBytes 4 (Shake.crc32c f.body)))

/-- The fields of 256 bytes, and whether their CRC is right. -/
def parse (b : BitVec 2048) : Flit × Bool :=
  let l := leBytes 256 b.toNat
  let n (i k : Nat) : Nat := leNat ((l.drop i).take k)
  ({ type := n 0 1, seq := BitVec.ofNat 12 (n 2 2), epoch := BitVec.ofNat 4 (n 2 2 / 4096), ack := BitVec.ofNat 12 (n 4 2),
     src := BitVec.ofNat 16 (n 8 2), dst := BitVec.ofNat 16 (n 10 2), tag := BitVec.ofNat 32 (n 12 4), k := n 16 6,
     payload := (l.drop 24).take (min 224 (n 22 2)) },
   n 252 4 == Shake.crc32c (l.take 252))

end Flit

/-- UVAL of a refusal (R343). -/
def refusalVal (reason : Nat) (h : BitVec 4) : Word := BitVec.ofNat 64 (reason * 256 + 96 + h.toNat)

namespace State

/-- The places of a read's bytes found again after it was stopped: its checks run and its pages are translated as the
tables now stand. -/
def findEnds (s : State) (x : Xfer) : Except Trap Xfer × State :=
  match x.ends with
  | none => (.ok { x with stale := false }, s)
  | some (h, offs) =>
    let l : List Elem := ((List.range offs.length).zip offs).map fun y => { idx := y.1, off := y.2, len := 1 }
    match s.checks h .copyTo fun _ _ => l with
    | (.error f, _, s) => (.error (f.trap true h), s)
    | (.ok p, _, s) =>
      match p.elems l [] s with
      | (_, some (_, _, e, v), _, s) => (.error (walkTrap true e v 0), s)
      | (found, none, _, s) =>
        (.ok { x with dest := joinRuns (found.flatMap (·.2)), spans := p.span s.clNo true false l, stale := false }, s)

/-- An entry of a partition's peer-slot map, if it is valid (R341). -/
def peerSlot (s : State) (p i : Nat) : Option PeerSlot :=
  let base := (s.part p).peersBase.toNat
  let w := s.physNat (base + 8 * i) 8
  if base = 0 ∨ bits w 63 1 = 0 then none
  else some { quota := bits w 48 8, ports := bits w 32 16, peer := BitVec.ofNat 16 w }

/-- The first valid slot that names a peer. -/
def slotOfPeer (s : State) (p : Nat) (peer : BitVec 16) : Option (Nat × PeerSlot) :=
  (List.range 256).findSome? fun i => match s.peerSlot p i with
    | some x => if x.peer = peer then some (i, x) else none
    | none => none

/-- The peer number of a partition (R339). -/
def peerNumber (p : Nat) : BitVec 16 := Config.deviceNumber ++ BitVec.ofNat 3 p

/-- A port of the package. -/
def port (s : State) (q : Nat) : Port := s.pkg.ports.get Port.reset q

/-- A port changed. -/
def modPort (s : State) (q : Nat) (f : Port → Port) : State :=
  { s with pkg := { s.pkg with ports := s.pkg.ports.set Port.reset q (f (s.port q)) } }

/-- What a partition knows of a peer, by its number. -/
def peer (s : State) (p n : Nat) : Peer := (s.part p).peers.get Peer.reset n

/-- What a partition knows of a peer changed. -/
def modPeer (s : State) (p n : Nat) (f : Peer → Peer) : State :=
  s.modPart p fun x => { x with peers := x.peers.set Peer.reset n (f (s.peer p n)) }

/-- The ports of a peer slot that are up: partition p has ports 16p to 16p + 15 (R339, R341). -/
def upPorts (s : State) (p : Nat) (x : PeerSlot) : List Nat :=
  ((List.range 16).filter fun i => bits x.ports i 1 = 1 ∧ (s.port (16 * p + i)).up).map (16 * p + ·)

/-- Every port of a peer slot has been down for 50 µs, 85,000 cycles (R341, R6). -/
def peerCut (s : State) (p i : Nat) : Bool :=
  match s.peerSlot p i with
  | none => false
  | some ps => ((List.range 16).filter fun j => bits ps.ports j 1 = 1).all fun j =>
      !(s.port (16 * p + j)).up && 85000 ≤ s.cycles - (s.port (16 * p + j)).downAt

/-- A numbered flit put on a port's link and into its replay buffer. It keeps the EPOCH it was made in (R346). -/
def launch (s : State) (p q : Nat) (f : Flit) : State :=
  let x := s.port q
  let f := { f with seq := x.seqOut + 1, ack := x.lastIn, src := peerNumber p }
  s.modPort q fun x => { x with seqOut := x.seqOut + 1, replay := x.replay ++ [f.bits2048], link := f.bits2048 :: x.link }

/-- A port's replay buffer has room for one more flit (R340). -/
def hasRoom (s : State) (q : Nat) : Bool := (s.port q).replay.length < 256 && (s.port q).waiting.isEmpty

/-- A flit sent over a port, or held there until the replay buffer has room for it (R340). -/
def transmit (s : State) (p q : Nat) (f : Flit) : State :=
  if s.hasRoom q then s.launch p q f else s.modPort q fun x => { x with waiting := x.waiting ++ [f.bits2048] }

/-- The flits that wait at a port sent as far as there is room. -/
def sendWaiting (s : State) (p q : Nat) : Nat → State
  | 0 => s
  | fuel + 1 =>
    match (s.port q).waiting with
    | [] => s
    | b :: l =>
      if 256 ≤ (s.port q).replay.length then s
      else sendWaiting ((s.modPort q fun x => { x with waiting := l }).launch p q (Flit.parse b).1) p q fuel

/-- An ack or a nak put on a port's link. -/
def answer (s : State) (p q : Nat) (t : FlitType) (dst : BitVec 16) : State :=
  let f : Flit := { type := t.code, seq := 0, epoch := (s.part p).epoch, ack := (s.port q).lastIn, src := peerNumber p,
                    dst := dst, tag := 0, k := 0, payload := [] }
  s.modPort q fun x => { x with link := f.bits2048 :: x.link }

/-- A control flit sent to a peer over the first of its ports that is up; none where no port is. -/
def control (s : State) (p : Nat) (x : PeerSlot) (t : FlitType) (tag : BitVec 32) (k : Nat) (payload : List Byte) : State :=
  match s.upPorts p x with
  | [] => s
  | q :: _ => s.transmit p q { type := t.code, seq := 0, epoch := (s.part p).epoch, ack := 0, src := 0, dst := x.peer,
                               tag := tag, k := k, payload := payload }

/-- The transfers of a context, with those its frames carry while it is stopped (R288, R345). -/
def xfersOf (s : State) (k : Nat) : List Xfer :=
  (s.hart k).xfers ++ (s.pkg.frames.filter fun f => f.key = (s.hart k).key ∧ f.live).flatMap (·.xfers)

/-- The permits that a partition's transfers hold from a peer (R344, R345). -/
def heldFrom (s : State) (p : Nat) (peer : BitVec 16) : Nat :=
  ((s.liveCtxs.filter fun k => k / 384 = p).map fun k =>
    (((s.xfersOf k).filter fun x => x.push ∧ x.peer = peer).map fun x => x.permits.length).sum).sum

/-- Some port still holds an unacknowledged flit of a transfer. -/
def unacked (s : State) (p : Nat) (tag : BitVec 32) : List Flit :=
  ((List.range 16).flatMap fun i => ((s.port (16 * p + i)).replay ++ (s.port (16 * p + i)).waiting).map fun b =>
    (Flit.parse b).1).filter fun f => f.tag = tag ∧ (f.type = 1 ∨ f.type = 2)

/-- The flits of some tags leave every replay buffer of a partition. -/
def dropFlits (s : State) (p : Nat) (tags : List (BitVec 32)) : State :=
  let stays (b : BitVec 2048) : Bool :=
    let f := (Flit.parse b).1
    !((f.type = 1 || f.type = 2) && tags.contains f.tag)
  (List.range 16).foldl (fun s i => s.modPort (16 * p + i) fun x =>
    { x with replay := x.replay.filter stays, waiting := x.waiting.filter stays }) s

/-- The first byte of a transfer that the receiver has not acknowledged (R343). -/
def firstUnacked (s : State) (p : Nat) (x : Xfer) : Nat :=
  if x.push then (((s.unacked p x.tag).filter fun f => f.type = 1).map (·.k)).foldl min x.moved else x.moved

/-- The chunks that a run of bytes touches: each needs its permit before its first flit (R344). -/
def chunksIn (a n : Nat) : List Nat := ((List.range (n / 65536 + 2)).map (a / 65536 + ·)).filter fun j =>
  65536 * j < a + n && a < 65536 * (j + 1)

/-- The next flit of a sending transfer, which lies in one chunk, if the chunk's permit is there or can be taken and a port
has room. Its flits take the ports in turn (R341). -/
def sendOne (s : State) (p : Nat) (x : Xfer) : Option (State × Xfer) :=
  match s.slotOfPeer p x.peer with
  | none => none
  | some (_, ps) =>
    let ports := (s.upPorts p ps).filter s.hasRoom
    match ports[x.sent % ports.length]? with
    | none => none
    | some q =>
      if x.moved < x.total then
        let n := min (min 224 (x.total - x.moved)) (65536 - x.moved % 65536)
        let need := (chunksIn x.moved n).filter fun j => !x.permits.contains j
        if need ≠ [] ∧ (s.peer p x.peer.toNat).window < s.heldFrom p x.peer + need.length then none
        else
          let f : Flit := { type := 1, seq := 0, epoch := (s.part p).epoch, ack := 0, src := 0, dst := x.peer, tag := x.tag,
                            k := x.moved, payload := (x.payload.drop (x.moved - x.start)).take n }
          some (s.transmit p q f, { x with moved := x.moved + n, permits := x.permits ++ need, sent := x.sent + 1 })
      else if x.flag.isSome ∧ !x.flagSent ∧ s.unacked p x.tag = [] then
        some (s.transmit p q { type := 2, seq := 0, epoch := (s.part p).epoch, ack := 0, src := 0, dst := x.peer,
                               tag := x.tag, k := x.total, payload := [] }, { x with flagSent := true, sent := x.sent + 1 })
      else none

/-- A transfer of a context replaced. -/
def putXfer (s : State) (k : Nat) (x : Xfer) : State :=
  s.modHart k fun h => { h with xfers := h.xfers.map fun y => if y.tag = x.tag then x else y }

/-- A context's transfers move: while it is active, and while a PART drains its cluster and it is standby (R19, R345). -/
def moves (s : State) (k : Nat) : Bool :=
  (s.hart k).life = .active || ((s.hart k).life = .standby && s.partStops (k / 16))

/-- The flits of a context's sending transfers that can go now, of which transfer first being a free choice. A stopped
hart's transfers stand still (R345). -/
def pump (s : State) (k : Nat) : Nat → State
  | 0 => s
  | fuel + 1 =>
    if !s.moves k then s
    else
      let l := (s.hart k).xfers.filter fun x => x.push && x.refused.isNone && (s.sendOne (k / 384) x).isSome
      let (n, t) := s.pick l.length
      match l[n]?.bind (t.sendOne (k / 384)) with
      | none => s
      | some (t, x) => pump (t.putXfer k x) k fuel

/-- A push that its instruction goes on with, after a page of its source that was not there (R120): it has sent what it
had, and keeps its permits. -/
def carried (s : State) (x : Xfer) : Bool :=
  s.h.resuming && s.h.restart.tag == some x.tag && x.push && x.moved == x.total && x.refused.isNone &&
    (s.unacked s.partNo x.tag).isEmpty

/-- The current hart has transfers that must end before it can go on (R319). -/
def unsettled (s : State) : Bool := s.h.xfers.any fun x => !s.carried x

/-- A push may start behind the hart's transfers (R277): they are pushes that nobody has refused, and with it there are at
most eight (R291). -/
def pushesOn (s : State) : Bool :=
  (s.h.xfers.all fun x => x.push && x.refused.isNone) && (s.h.xfers.length < 8 || s.h.xfers.any s.carried)

/-- A transfer has moved all its bytes, its flag has gone, nothing of it waits for an acknowledgement, and its permits
have come back. -/
def xferDone (s : State) (p : Nat) (x : Xfer) : Bool :=
  x.refused.isNone && x.moved == x.total && (x.push || x.relay.isNone) && (x.flag.isNone || x.flagSent) &&
    x.permits.isEmpty && (s.unacked p x.tag).isEmpty

/-- The flits that every context of a partition can send now. -/
def pumpAll (s : State) (p : Nat) : State :=
  (s.liveCtxs.filter fun k => k / 384 = p ∧ (s.hart k).xfers ≠ []).foldl (fun s k =>
    s.pump k (((s.hart k).xfers.map fun x => x.payload.length / 224 + x.payload.length / 65536 + 3).sum)) s

end State

end Sys2Proof.Machine
end

