-- ==== Sys2Proof/Machine/Ops.lean ====
section
/-!
DEFINITION. Taking an exception, and returning from one: the shared operations of every trap (R165, R283, R284, R317 to
R320, R376) and of URET and SRET (R166, R167).

A trap is taken at a pc: that of the trapping instruction, or the next one where the instruction has completed. Where a
queued vector instruction raises it, the instruction goes back to the head of the queue and the pc is the scalar unit's
(R319). Every entry ends the convoy (log 47).
-/

namespace Sys2Proof.Machine

/-- SCAUSE of a trap (R285). -/
def causeWord (int spl : Bool) (code : BitVec 8) : Word :=
  BitVec.ofBool int ++ BitVec.ofBool spl ++ 0#54 ++ code

/-- UCAUSE of a user-level trap: BUSY, VEC and CODE (R318). -/
def userCause (vec : Bool) (code : BitVec 8) : Word := 1#1 ++ 0#54 ++ BitVec.ofBool vec ++ code

/-- The causes whose handler is the user's (R317). -/
def userCode (code : BitVec 8) : Bool := 16 ≤ code.toNat && code.toNat ≤ 20

/-- What an instruction would take that issued now. -/
def Hart.modes (h : Hart) : Modes := { s := h.s, c := h.c, vtype := h.vtype, fcsr := h.fcsr, exsplit := h.exsplit }

/-- A hart with what an instruction took at its issue (R58, R127, R163): NREG and the flags are no part of it. -/
def Hart.withModes (h : Hart) (m : Modes) : Hart :=
  { h with s := m.s, c := m.c, vtype := (h.vtype &&& ~~~7) ||| (m.vtype &&& 7),
           fcsr := (h.fcsr &&& ~~~0x700) ||| (m.fcsr &&& 0x700), exsplit := m.exsplit }

/-- A vector instruction as it enters the queue. -/
def Hart.captured (h : Hart) (word : BitVec 32) (spans : List Span) : Queued :=
  { word := word, pc := h.pc, modes := h.modes, spans := spans }

/-- The hart whose trap is taken (R319). A queued instruction that raised it is at the head of the queue again, and the
scalar side is as it stood; so is a vector instruction of user level that raised it in place, and the pc is past it. A
shared-block write with nothing run ahead has its pc at the instruction (R267). -/
def Hart.unqueued (h : Hart) (t : Trap) : Hart :=
  match h.front with
  | some f =>
    if t.code = 18 ∧ f.rest = [] ∧ f.pc = f.self.pc + 4 then
      { h.withModes f.modes with queue := [], pc := f.self.pc, front := none }
    else { h.withModes f.modes with queue := f.self :: f.rest, pc := f.pc, front := none }
  | none =>
    match t.word with
    | some w => if h.sup ∨ t.code = 18 then h else { h with queue := h.captured w [] :: h.queue, pc := h.pc + 4 }
    | none => h

namespace State

/-- The registers an entry to the supervisor writes (R283). -/
def enterSup (s : State) (cause val : Word) (estart : Nat) : State :=
  s.mod fun h => { h with scause := cause, sval := val, sup := true, pc := h.stvec, park := none, convoy := [], resuming := false,
                          restart := Restart.none, estart := estart, queue := [], front := none }

/-- A trap to the supervisor while STVEC reads 0 ends the hart and logs the trap (R376). -/
def endUnhandled (s : State) (cause val : Word) : State :=
  let hid := (s.hidOf s.cur).zeroExtend 32
  (s.endHart s.cur).logRecord s.partNo 9 2 s.clNo hid cause val

/-- A trap to the supervisor (R283, R284, R376), or an interrupt (R282). From user level the frame of kind 1 holds the
context; where it cannot be written, code 11 is taken with SPL = 1 and there is no frame (R320). -/
def supTrap (s : State) (int : Bool) (code : BitVec 8) (val pc : Word) (estart : Nat) : State :=
  if s.h.stvec = 0 then s.endUnhandled (causeWord int s.h.sup code) val
  else if s.h.sup then s.enterSup (causeWord int true code) val s.h.estart
  else
    match s.writeFrame 1 s.h.sframe pc estart with
    | (.ok t, _) => (t.enterSup (causeWord int false code) val estart).mod fun h => { h with xfers := [] }
    | (.error page, t) => t.enterSup (causeWord false true 11) page estart

/-- A user-level trap (R318): to UTVEC with a frame of kind 0 at UFRAME. It goes to the supervisor with the same code
and value when the hart is at supervisor level, when UTVEC is 0 and when BUSY is set; a frame that cannot be written is a
frame fault (R320). -/
def userTrap (s : State) (vec : Bool) (code : BitVec 8) (val pc : Word) (estart : Nat) : State :=
  if s.h.sup ∨ s.h.utvec = 0 ∨ s.h.ucause.getLsbD 63 then s.supTrap false code val pc estart
  else
    match s.writeFrame 0 s.h.uframe pc estart with
    | (.ok t, _) => t.mod fun h => { h with ucause := userCause vec code, uval := val, pc := h.utvec, convoy := [],
                                            resuming := false, restart := Restart.none, estart := estart,
                                            xfers := [], queue := [], front := none }
    | (.error page, t) => t.supTrap false 11 page pc estart

/-- An exception delivered to its handler (R317). -/
def deliver (s : State) (t : Trap) (pc : Word) : State :=
  if userCode t.code then s.userTrap t.vec t.code t.val pc t.estart else s.supTrap false t.code t.val pc t.estart

/-- The instruction raises an exception. Every earlier instruction and engine transfer has completed by then (R319), so
the hart first waits for its transfers. -/
def raise (s : State) (t : Trap) : Out :=
  if s.unsettled then s.wait else .next ((s.mod (·.unqueued t)).deliver t (s.h.unqueued t).pc)

/-- The instruction at the pc raises illegal-instruction with a sub-cause (R138). -/
def illegal (s : State) (sub : Nat) (word : BitVec 32) : Out := s.raise (illTrap sub word)

/-- The instruction raises the lowest of the sub-causes whose condition holds (R138), or goes on. -/
def legal (s : State) (word : BitVec 32) (conds : List (Bool × Nat)) (f : Unit → Out) : Out :=
  match conds.find? (·.1) with
  | some x => s.illegal x.2 word
  | none => f ()

/-- A scalar instruction that waits until the hart's transfers are performed (R119, R164). -/
def drained (s : State) (f : State → Out) : Out := if s.h.xfers ≠ [] then s.wait else f s

/-- A system call or breakpoint: the trap saves the frame once the convoy has drained, as pre-emption does, with the
transfers it stopped (R165), and ESTART of a queued instruction that is being resumed (R289). With no handler the hart's
transfers drain first (R376). -/
def callTrap (s : State) (code : BitVec 8) (val pc : Word) : Out :=
  if s.h.stvec = 0 ∧ s.h.xfers ≠ [] then s.wait else .next (s.supTrap false code val pc s.h.startOf)

/-- The return from a user-level trap (R166). -/
def userReturn (s : State) : Out :=
  if s.h.xfers ≠ [] then s.wait
  else
    match s.readFrame [0] s.user s.h.uframe with
    | (.good f, s) => .next ((s.restore f).mod fun h => { h with ucause := h.ucause &&& ~~~(1#64 <<< 63) }).regrant
    | (.bad, s) => s.raise { code := 12, val := s.h.uframe, vec := false, estart := 0 }
    | (.fault e p, s) => s.raise (walkTrap false e (BitVec.ofNat 64 p) 0)

/-- s56 to s63 taken from a frame of kind 1 (R283). -/
def setScr (s : State) (l : List Word) : State :=
  s.mod fun h => { h with s := (List.range 8).foldl (fun t i => t.set 0 (56 + i) (l.getD i 0)) h.s }

/-- The return from the supervisor (R167): to user level, in the context of the frame at SFRAME. A hart has at most eight
transfers (R291): where those of the frame and its own are more, it waits for its own. -/
def supReturn (s₀ : State) : Out :=
  match s₀.readFrame [1, 3] false s₀.h.sframe with
  | (.good f, s) =>
    if 8 < s₀.h.xfers.length + f.xfers.length then s₀.wait
    else
      let s := (s.restore f).mod fun h => { h with sup := false, park := f.park }
      .next (if f.kind = 1 then s.setScr f.scr else s.regrant)
  | (.bad, s) => s.raise { code := 12, val := s.h.sframe, vec := false, estart := 0 }
  | (.fault e p, s) => s.raise (walkTrap false e (BitVec.ofNat 64 p) 0)

end State

end Sys2Proof.Machine
end

