-- ==== Sys2Proof/Machine/Operands.lean ====
section
/-!
DEFINITION. Operands of vector instructions: the layouts of registers (R28, R43 to R47), masks (R129, R173), the segment
stack and the depth of action (R35, R36, R128), scalar operands (R51, R127), writing a result (R48, R55), and the checks
that every vector instruction passes before it does anything (R126, R30, R14, R138).
-/

namespace Sys2Proof.Machine

namespace Ty

/-- Bytes of a block of 64 elements (R46, R47). -/
def blockBytes : Ty → Nat
  | q w => 8 * w + 8
  | int _ w true => 8 * w
  | t => 8 * t.width

/-- The capacity of a register of `b` bytes (R28). -/
def capacity (t : Ty) (b : Nat) : Nat := if t.blocked then 64 * (b / t.blockBytes) else 8 * b / t.width

/-- The bit of a register that holds bit `j` of element `i`. -/
def bitAt (t : Ty) (i j : Nat) : Nat :=
  match t with
  | .q w => i / 64 * (64 * (w + 1)) + 64 * (j + 1) + i % 64
  | .int _ w true => i / 64 * (64 * w) + 64 * j + i % 64
  | t => i * t.width + j

/-- The bits of element `i`. -/
def get (t : Ty) (r i : Nat) : Nat :=
  if t.blocked then
    (List.range t.width).foldl (fun a j => a + (bits r (t.bitAt i j) 1) <<< j) 0
  else bits r (i * t.width) t.width

/-- A register with the bits of element `i` replaced. -/
def set (t : Ty) (r i v : Nat) : Nat :=
  if t.blocked then
    (List.range t.width).foldl (fun a j => putBits a (t.bitAt i j) 1 (bits v j 1)) r
  else putBits r (i * t.width) t.width v

/-- The scale byte E of an element's block (R47). -/
def scaleE (t : Ty) (r i : Nat) : Nat := match t with | .q w => bits r (i / 64 * (64 * (w + 1))) 8 | _ => 127

/-- The value of element `i`, and the flags of reading it. -/
def value (t : Ty) (r i : Nat) : Num × Flags :=
  match t with
  | .q w =>
    let e := t.scaleE r i
    if e = 255 then (.nan false, 0) else (.ofSigned (intValue true w (t.get r i)) (e - 127), 0)
  | t => tyValue t (t.get r i)

end Ty

/-- The type of a register's tag. -/
def VReg.ty (v : VReg) : Ty := (tyOf v.tag).getD (.int true 64 false)

/-- The depth of a register's stack (R35). -/
def VReg.depth (v : VReg) : Nat := v.levels.length

/-! ## The segment stack -/

/-- Sums of runs of a list: entry j of the first list says how many entries of the second it takes. -/
def collapse : List Nat → List Nat → List Nat
  | [], _ => []
  | p :: ps, l => (l.take p).sum :: collapse ps (l.drop p)

/-- How many elements each segment of the first of some levels covers (R35). -/
def elemsPer : List (List Nat) → List Nat
  | [] => []
  | [l] => l
  | l :: m :: t => collapse l (elemsPer (m :: t))

/-- A segment: the number of its first element, and its elements. -/
abbrev Seg := Nat × Nat

/-- Segments laid out one after another. -/
def layout : Nat → List Nat → List Seg
  | _, [] => []
  | a, n :: l => (a, n) :: layout (a + n) l

/-- The segments at a depth: at depth 0 the whole register is one segment of G elements (R35, R375). -/
def VReg.segs (v : VReg) (g d : Nat) : List Seg :=
  if d = 0 then [(0, g)] else layout 0 (elemsPer (v.levels.drop (d - 1)))

/-- The depth a DEP field names for a stack of depth `n`: 7 is the current depth (R36); none where it is greater. -/
def depthOf (dep : BitVec 3) (n : Nat) : Option Nat :=
  if dep = 7 then some n else if dep.toNat ≤ n then some dep.toNat else none

/-- The segment an element lies in, as its index, first element and length; none in no segment (R375). -/
def segAt (l : List Seg) (i : Nat) : Option (Nat × Seg) :=
  ((List.range l.length).zip l).find? fun x => x.2.1 ≤ i && i < x.2.1 + x.2.2

/-- The segment of each element below `g`, in order, with the element's position. Laid out once, since segments are
contiguous and in order. -/
def segMap (l : List Seg) (g : Nat) : List (Option (Nat × Nat)) :=
  let cells := (((List.range l.length).zip l).flatMap fun x => (List.range x.2.2).map fun p => some (x.1, p)).take g
  cells ++ List.replicate (g - cells.length) none

namespace State

/-- The registers in use (R160). -/
def nreg (s : State) : Nat := nregOf s.h.vtype

/-- Bytes of a register (R28). -/
def regBytes (s : State) : Nat := s.lanes * 32768 / s.nreg

/-- A vector register. -/
def vreg (s : State) (r : Nat) : VReg := s.h.v.get VReg.reset r

/-- A vector register replaced. -/
def setVreg (s : State) (r : Nat) (v : VReg) : State := s.mod fun h => { h with v := h.v.set VReg.reset r v }

/-- The element capacity of a register under its tag (R28). -/
def capacity (s : State) (r : Nat) : Nat := (s.vreg r).ty.capacity s.regBytes

/-- G: the elements a grant covers (R172). -/
def g (s : State) : Nat := s.h.vlr * s.h.vlc

/-- A bit of a mask register; m0 reads as all ones (R173). -/
def maskBit (s : State) (m i : Nat) : Bool := m = 0 || bits (s.h.m.get 0 m) i 1 = 1

/-- A mask register written at some bits; a write to m0 is discarded (R129, R173). -/
def setMask (s : State) (m v : Nat) : State :=
  if m = 0 then s else s.mod fun h => { h with m := h.m.set 0 m v }

/-- The default mask DM of VTYPE (R160). -/
def dm (s : State) : Nat := bits s.h.vtype.toNat 0 2

/-- VTYPE.SAT (R160). -/
def sat (s : State) : Bool := bits s.h.vtype.toNat 2 1 = 1

/-- The active elements under a mask, in rising order (R30). -/
def active (s : State) (m : Nat) : List Nat := (List.range s.g).filter (s.maskBit m)

/-- A scalar's bits read in a type (R51): the low bits of the register; the value as an element holds it. -/
def scalarBits (s : State) (t : Ty) (r : BitVec 6) : Nat := bits (s.rd r).toNat 0 (match t with | .q _ => 64 | t => t.width)

/-- A scalar's value in a type (R51, R182): for a block-scaled type, outside VBC too, the signed 64-bit integer it holds
(log 51). -/
def scalarNum (s : State) (t : Ty) (r : BitVec 6) : Num × Flags :=
  match t with
  | .q _ => (.ofInt (s.rd r).toInt, 0)
  | t => tyValue t (s.scalarBits t r)

end State

/-- An element's bits as a scalar register holds them (R51): signed types are sign-extended, the others zero-extended. -/
def toScalar (t : Ty) (b : Nat) : Word :=
  match t with
  | .int true w _ => BitVec.ofInt 64 (intValue true w b)
  | _ => BitVec.ofNat 64 b

/-! ## Writing a result -/

/-- What an element-wise operation gives for an element: an exact value to be fitted, or bits written as they are (R176,
R177), with the flags raised so far. -/
inductive Ans where
  | val (x : Num) (fl : Flags)
  | raw (b : Nat) (fl : Flags)
  deriving DecidableEq, Repr

/-- The flags an answer carries. -/
def Ans.flags : Ans → Flags | val _ f => f | raw _ f => f

/-- The least e with m · 2^e' ≤ M · 2^e, for m > 0 (R48). -/
def leastScale (m : Nat) (e' : Int) (top : Nat) : Int :=
  let start : Int := e' + m.log2 - top.log2 - 2
  match (List.range 5).find? fun (i : Nat) => !Num.lt (.fin false top (start + i)) (.fin false m e') with
  | some i => start + (i : Int)
  | none => start + 5

/-- The scale e that R48, step 2, chooses for some results, clamped. -/
def chooseScale (w : Nat) (xs : List Num) : Int :=
  let mags := xs.filterMap fun x => match x with | .fin _ m e => if m = 0 then none else some (m, e) | _ => none
  let top := max (2 ^ (w - 1) - 1) 1
  match mags.map fun x => leastScale x.1 x.2 top with
  | [] => 0
  | e :: l => max (-127) (min 127 (l.foldl max e))

/-- One active element written under a scale (R48, steps 3, 4, 6, 7). -/
def fitK (w : Nat) (rm : RM) (e : Int) (x : Num) : Nat × Flags :=
  match x with
  | .fin .. =>
    let (v, i) := roundInt rm (x.scale (-e))
    let c := clampInt true w v
    (wrapInt w c, Flags.when_ (c ≠ v) Flags.of ||| Flags.when_ (i || c ≠ v) Flags.nx |||
      Flags.when_ (c = 0 && !x.isZero) Flags.uf)
  | _ => (0, Flags.nv)

/-- A block of a qW register written (R48): `res` gives the active elements' results, by position in the block. -/
def writeBlock (w : Nat) (rm : RM) (r b : Nat) (res : List (Nat × Num)) : Nat × Flags :=
  let t := Ty.q w
  let idle := (List.range 64).filter fun j => !res.any fun x => x.1 = j
  let keep := idle.any fun j => t.get r (64 * b + j) ≠ 0
  let at0 := b * (64 * (w + 1))
  let e := if keep then (bits r at0 8 : Int) - 127 else chooseScale w (res.map (·.2))
  let r := putBits r at0 64 (e + 127).toNat
  res.foldl (fun a x => let (k, f) := fitK w rm e x.2; (t.set a.1 (64 * b + x.1) k, a.2 ||| f)) (r, 0)

/-- Bits written into elements as they are. -/
def writeBits (t : Ty) (r : Nat) (l : List (Nat × Nat)) : Nat := l.foldl (fun a x => t.set a x.1 x.2) r

/-- The answers that are values. -/
def valuesOf (l : List (Nat × Ans)) : List (Nat × Num) :=
  l.filterMap fun x => match x.2 with | .val v _ => some (x.1, v) | .raw .. => none

/-- The answers that are bits. -/
def rawsOf (l : List (Nat × Ans)) : List (Nat × Nat) :=
  l.filterMap fun x => match x.2 with | .raw b _ => some (x.1, b) | .val .. => none

/-- The active elements' answers written into a register's bits, each value fitted once (R48, R55), and the flags. Bits
that go into a block-scaled register are its integers k as they are, under the scale the block has (log 52). -/
def writeAns (t : Ty) (rm : RM) (fit : Num → Nat × Flags) (r : Nat) (l : List (Nat × Ans)) : Nat × Flags :=
  let fl := l.foldl (fun f x => f ||| x.2.flags) 0
  match t with
  | .q w =>
    let vals := valuesOf l
    let r := writeBits t r ((rawsOf l).map fun x => (x.1, 0))
    let (r, fl) := (dedup (vals.map fun x => x.1 / 64)).foldl (fun a b =>
      let (r, f) := writeBlock w rm a.1 b ((vals.filter fun x => x.1 / 64 = b).map fun x => (x.1 % 64, x.2))
      (r, a.2 ||| f)) (r, fl)
    (writeBits t r (rawsOf l), fl)
  | t => l.foldl (fun a x =>
      match x.2 with
      | .val v _ => let (b, f) := fit v; (t.set a.1 x.1 b, a.2 ||| f)
      | .raw b _ => (t.set a.1 x.1 b, a.2)) (r, fl)

/-! ## The checks of a vector instruction -/

/-- The convoy paths (R14, R133). -/
inductive Path where
  | ew | xl | mx | sf | ld | st | aw | en
  deriving DecidableEq, Repr

/-- A path's number in the convoy's record. -/
def Path.no : Path → Nat
  | .ew => 0 | .xl => 1 | .mx => 2 | .sf => 3 | .ld => 4 | .st => 5 | .aw => 6 | .en => 7

/-- What makes a vector instruction illegal before it starts, beside its path and the grant (R138). -/
structure Illegal where
  reg : Bool := false
  tag : Bool := false
  depth : Bool := false

namespace State

/-- A register that an instruction names at or beyond NREG (R126). -/
def beyond (s : State) (regs : List Nat) : Bool := regs.any fun r => s.nreg ≤ r

/-- A register that an instruction names whose capacity is below the grant (R30). -/
def short (s : State) (regs : List Nat) : Bool := regs.any fun r => s.capacity r < s.g

/-- A vector instruction on its path: the checks of R138 in the order of their codes, with the check of the grant given,
then its effect, once it waits for nothing. -/
def issueWhen (s : State) (waits : State → Bool) (c : Bool) (p : Path) (word : BitVec 32) (regs : State → List Nat)
    (bad : State → Illegal) (grant : State → Bool) (f : State → Out) : Out :=
  s.onHart c fun s =>
    let x := bad s
    s.legal word [(s.beyond (regs s) || x.reg, 4), (x.tag, 5), (x.depth, 6), (s.h.convoy.contains p.no, 7),
      (grant s, 8)] fun _ =>
      if waits s then s.wait else f (s.mod fun h => { h with convoy := p.no :: h.convoy })

/-- A vector instruction that waits until the hart's engine transfers are complete: it writes nothing before an earlier
transfer's fault is known (R319). -/
def issue (s : State) (c : Bool) (p : Path) (word : BitVec 32) (regs : State → List Nat) (bad : State → Illegal)
    (grant : State → Bool) (f : State → Out) : Out :=
  s.issueWhen unsettled c p word regs bad grant f

/-- The instruction goes on at a later step: it has used its path once. -/
def unpathed (s : State) : State := s.mod fun h => { h with convoy := h.convoy.drop 1 }

/-- A vector instruction whose registers all need the grant's capacity (R30). -/
def vector (s : State) (c : Bool) (p : Path) (word : BitVec 32) (regs : List Nat) (bad : State → Illegal)
    (f : State → Out) : Out :=
  s.issue c p word (fun _ => regs) bad (fun s => s.short regs) f

/-- A segment overflow (R37, R174, R292): one of the conditions that hold, as condition and bits 3:0 of UVAL; else the
instruction goes on. -/
def overflow (s : State) (word : BitVec 32) (conds : List (Nat × Nat)) (f : State → Out) : Out :=
  if conds.isEmpty then f s
  else
    let (n, s) := s.pick conds.length
    let x := conds.getD n (0, 0)
    s.raise { code := 19, val := BitVec.ofNat 64 (16 * x.1 + x.2), vec := true, estart := 0, word := some word }

/-- A result descriptor's own limit (R292): at most 32,768 lengths entries a lane, over all registers. -/
def tooLong (s : State) (r : Nat) (levels : List (List Nat)) : Bool :=
  let others := lengthEntries (s.h.v.filter fun x => x.1 ≠ r)
  32768 * s.lanes < others + (levels.map List.length).sum

/-- The limits that a stack would break in a register (R37, R292): a level's entries or the elements beyond the
register's capacity, a depth above 8, too many lengths entries of the hart. DESIGN CHOICE: of several levels that are too
long, or of a level and N, the lowest level is named (log 38). -/
def stackLimits (s : State) (r : Nat) (levels : List (List Nat)) : List (Nat × Nat) :=
  let cap := s.capacity r
  let d := levels.length
  let long := ((List.range d).zip levels).find? fun x => cap < x.2.length
  let many := d ≠ 0 && cap < (levels.getD (d - 1) []).sum
  (match long with | some x => [(0, x.1 + 1)] | none => if many then [(0, d)] else []) ++
    (if 8 < d then [(1, 9)] else []) ++ (if s.tooLong r levels then [(4, d)] else [])

/-- A register with new bits and another register's stack and open bits (R39); its tag stays. -/
def putVec (s : State) (r bits : Nat) (from_ : VReg) : State :=
  s.setVreg r { s.vreg r with bits := bits, levels := from_.levels, headOpen := from_.headOpen, tailOpen := from_.tailOpen }

/-- The fitting of the current hart into a type from a kind (R55). -/
def fitter (s : State) (t : Ty) (k : Kind) : Num → Nat × Flags := fitTy t k s.rm s.sat

end State

/-- The value of an element of a register, and the flags of reading it as a number (R52, R59). -/
def VReg.num (v : VReg) (i : Nat) : Num × Flags := let (x, f) := v.ty.value v.bits i; (x, f ||| x.readNv)

end Sys2Proof.Machine
end

