-- ==== Sys2Proof/Machine/Cfg.lean ====
section
/-!
DEFINITION. Configuration: VCFG, VTAG, VSETVL, VSETVLG, PART and CBLD (R15, R19, R27, R29, R44, R154, R155).
-/

namespace Sys2Proof.Machine

/-- The grant of R29 from the element capacity, the row and the column request. -/
def grantOf (ecap rows cols : Nat) : Nat × Nat :=
  if rows = 0 ∨ cols = 0 then (0, 0)
  else
    let c := min cols ecap
    (min rows (ecap / c), c)

/-- A later grant of a gang's phase (R27): the requests and bounds of R29, and no more than the fixed rows and columns. -/
def laterGrant (ecap grow gcol rows cols : Nat) : Nat × Nat :=
  let g := grantOf ecap rows cols
  (min grow g.1, min gcol g.2)

namespace State

/-- E of R29: the least capacity over the registers in use. -/
def leastCapacity (s : State) : Nat :=
  ((List.range s.nreg).map s.capacity).foldl min (s.capacity 0)

/-- The element capacity under a number of lanes (R29). -/
def ecap (s : State) (lg : Nat) : Nat := s.leastCapacity * lg / s.lanes

/-- The lanes that the occupancy manager grants the hart, in force from now on; its lane groups are powered (R297). -/
def takeLanes (s : State) (lg : Nat) : State :=
  let s := s.holdLanes lg
  s.modClu s.clNo fun c => { c with gates := s.h.groups.foldl (fun t g => t.set .on g .on) c.gates }

/-- A grant returned: VLR and VLC, and the two scalars (R29). -/
def giveGrant (s : State) (d : BitVec 6) (g : Nat × Nat) : State :=
  let s := s.mod fun h => { h with vlr := g.1, vlc := g.2 }
  (s.wr d (BitVec.ofNat 64 g.1)).wr (d + 1) (BitVec.ofNat 64 g.2)

/-- The grant of VSETVL (R29). -/
def setvl (s : State) (d : BitVec 6) (rows cols : Nat) : State :=
  let lg := s.grantLanes
  ((s.takeLanes lg).giveGrant d (grantOf (s.ecap lg) rows cols))

/-- The grant of VSETVLG (R27), or nothing where the hart parks because it would receive fewer lanes than the phase's
first grant and that shortfall alone makes its rows or columns smaller. -/
def setvlg (s : State) (d : BitVec 6) (rows cols : Nat) (mayPark : Bool) : Option State :=
  if s.h.gang = 0 then some (s.setvl d rows cols)
  else
    let x := s.gangOf s.clNo s.h.gang
    let lg := s.grantLanes
    if !x.gfix then
      let g := grantOf (s.ecap lg) rows cols
      let t := s.modGang s.clNo s.h.gang fun x =>
        { x with grow := BitVec.ofNat 21 g.1, gcol := BitVec.ofNat 21 g.2, gfix := true, lfix := lg }
      some ((t.takeLanes lg).giveGrant d g)
    else
      let full := min x.lfix s.lanes
      let g := laterGrant (s.ecap lg) x.grow.toNat x.gcol.toNat rows cols
      let g' := laterGrant (s.ecap full) x.grow.toNat x.gcol.toNat rows cols
      if mayPark && lg < full && (g.1 < g'.1 || g.2 < g'.2) then none
      else some ((s.takeLanes lg).giveGrant d g)

/-- What PART does to every live hart of the cluster that is active or standby (R19, step 4). -/
def clearLanes (h : Hart) : Hart :=
  { h with v := blankAll h.v, vlr := 0, vlc := 0, estart := 0, resuming := false, restart := Restart.none,
           granted := false, groups := [], convoy := [], area := none }

/-- PART (R19): the width, the registers of every live hart, the gangs' fixed grants, then the slots in HCTX order. -/
def setWidth (s : State) (pw : BitVec 2) : State :=
  let cl := s.clNo
  let live := (ctxsOf cl).filter fun k => (s.hart k).life = .active ∨ (s.hart k).life = .standby
  let act := s.actives cl
  let s := s.modClu cl fun c => { c with pw := pw, parting := none, gangs := c.gangs.filterMap fun p =>
    let x := { p.2 with gfix := false }
    if x = Gang.reset then none else some (p.1, x) }
  let s := live.foldl (fun s k => s.modHart k clearLanes) s
  let n := 2 ^ pw.toNat
  let s := ((List.range act.length).zip act).foldl (fun s x =>
    if x.1 < n then s.modHart x.2 fun h => { h with slot := x.1 }
    else
      let parked := (s.hart x.2).park.isSome
      let s := s.modHart x.2 fun h => { h with life := .standby }
      if parked then s else s.modClu cl fun c => { c with ready := c.ready ++ [x.2] }) s
  let s := s.fillSlots cl 16
  (s.actives cl).foldl (fun s k => s.onCtx k fun s => s.holdLanes (s.lanesFor s.cur)) s

/-- A transfer of a context is still to drain: it moves, or was stopped and can go on. One whose places are not to be found
waits for its trap. -/
def toDrain (s : State) (k : Nat) (x : Xfer) : Bool :=
  !x.stale || (match ((s.switchTo k).findEnds x).1 with | .ok _ => true | .error _ => false)

/-- Some hart of the current cluster has engine transfers that have not drained, or stores or, while it is active, queued
instructions (R19, step 2). -/
def clusterBusy (s : State) : Bool := (ctxsOf s.clNo).any fun k =>
  let h := s.hart k
  h.life ≠ .saved && (h.xfers.any (s.toDrain k) || !h.stores.isEmpty || (h.life = .active && !h.queue.isEmpty))

/-- Constant-bank words written from bytes, eight each (R155). -/
def setConsts (s : State) (l : List Piece) : Nat → Nat → State
  | _, 0 => s
  | d, n + 1 =>
    let s := setConsts s l d n
    let (b, s) := s.load (subRuns l (8 * n) 8) 0
    s.mod fun h => { h with c := h.c.set 0 (d + n) (BitVec.ofNat 64 (leNat b)) }

end State

/-- VCFG (R15, R29, R154). -/
def execVcfg (c : Bool) (n : BitVec 2) (t : BitVec 8) (s : State) : Out :=
  s.onHart c fun s =>
    s.legal (encode (.vcfg c n t)) [((tyOf t).isNone, 5)] fun _ =>
      let s := s.mod fun h =>
        { h with vtype := BitVec.ofNat 64 (putBits h.vtype.toNat 8 2 n.toNat), vlr := 0, vlc := 0, convoy := [],
                 v := (List.range (8 * 2 ^ n.toNat)).foldl (fun v i => v.set VReg.reset i { VReg.reset with tag := t }) [] }
      .next (s.takeLanes s.grantLanes).adv

/-- VTAG (R44, R154): the bits and the descriptor stay. -/
def execVtag (c : Bool) (d : BitVec 6) (t : BitVec 8) (s : State) : Out :=
  s.onHart c fun s =>
    s.legal (encode (.vtag c d t)) [(s.beyond [d.toNat], 4), ((tyOf t).isNone, 5)] fun _ =>
      .next (s.setVreg d.toNat { s.vreg d.toNat with tag := t }).endConvoy.adv

/-- VSETVL (R16, R29, R154). -/
def execVsetvl (c : Bool) (d a b : BitVec 6) (s : State) : Out :=
  s.onHart c fun s =>
    s.legal (encode (.vsetvl c d a b)) [(d == 63, 4)] fun _ =>
      .next (s.setvl d (s.rd a).toNat (s.rd b).toNat).endConvoy.adv

/-- VSETVLG (R27, R154). A hart that parks keeps its pc past the instruction and receives its grant when it wakes. -/
def execVsetvlg (c : Bool) (d a b : BitVec 6) (s : State) : Out :=
  s.onHart c fun s =>
    s.legal (encode (.vsetvlg c d a b)) [(d == 63, 4)] fun _ =>
      match s.setvlg d (s.rd a).toNat (s.rd b).toNat true with
      | some t => .next t.endConvoy.adv
      | none =>
        .next ((s.mod fun h => { h with park := some (.grant d (s.rd a).toNat (s.rd b).toNat s.cycles) }).endConvoy.adv)

/-- PART (R19): every hart of the cluster stops issuing, and it waits until every convoy and every engine transfer of the
cluster has drained. The encoding admits n of 1, 2, 4 and 8 only (R136). -/
def execPart (c : Bool) (n : BitVec 4) (s : State) : Out :=
  s.onHart c fun s =>
    if s.clusterBusy then .next (s.modClu s.clNo fun x => { x with parting := some (s.cur, s.h.pc) })
    else .next (s.adv.setWidth (BitVec.ofNat 2 n.toNat.log2))

/-- CBLD (R155, R154): a fault or trap writes no constant. -/
def execCbld (c : Bool) (d a k : BitVec 6) (h : BitVec 4) (s : State) : Out :=
  s.onHart c fun s =>
    let n := k.toNat + 1
    s.legal (encode (.cbld c d a k h)) [(64 < d.toNat + n, 4)] fun _ =>
      match s.one h .cbld false (s.rd a).toInt (8 * n) with
      | (.trap t, s) => s.raise t
      | (.gone, s) => s.raise (Failed.gone.trap false h)
      | (.runs l, s) => .next (s.setConsts l d.toNat n).endConvoy.adv

end Sys2Proof.Machine
end

