-- ==== Sys2Proof/Machine/Scalar.lean ====
section
/-!
DEFINITION. Scalar integer instructions (R142 to R147). Every source is read before the destination is written, results
are modulo 2^64, and no flag is set.
-/

namespace Sys2Proof.Machine

/-- The shift amount of a register: bits 5:0 (R143). -/
def shamt (b : Word) : Nat := (b.extractLsb' 0 6).toNat

/-- 1 or 0 (R143). -/
def ofCond (c : Bool) : Word := if c then 1 else 0

/-- The high 64 bits of the signed product (R143). -/
def mulHigh (a b : Word) : Word := BitVec.ofInt 64 ((a.toInt * b.toInt) / 2 ^ 64)

/-- The high 64 bits of the unsigned product (R143). -/
def mulHighU (a b : Word) : Word := BitVec.ofNat 64 (a.toNat * b.toNat / 2 ^ 64)

/-- The signed quotient, rounded toward zero; -1 by zero, and -2^63 for its overflow (R143, R144). -/
def divSigned (a b : Word) : Word := if b = 0 then BitVec.allOnes 64 else BitVec.ofInt 64 (a.toInt.tdiv b.toInt)

/-- The unsigned quotient; all ones by zero (R144). -/
def divUnsigned (a b : Word) : Word := if b = 0 then BitVec.allOnes 64 else BitVec.ofNat 64 (a.toNat / b.toNat)

/-- The signed remainder, with the sign of the dividend; the dividend by zero (R143, R144). -/
def remSigned (a b : Word) : Word := if b = 0 then a else BitVec.ofInt 64 (a.toInt.tmod b.toInt)

/-- The unsigned remainder; the dividend by zero (R144). -/
def remUnsigned (a b : Word) : Word := if b = 0 then a else BitVec.ofNat 64 (a.toNat % b.toNat)

/-- The number of zero bits below the lowest set bit, of bits 0 to n - 1. -/
def trailing (a : Word) : Nat → Nat → Nat
  | 0, i => i
  | n + 1, i => if a.getLsbD i then i else trailing a n (i + 1)

/-- Trailing zero bits; 64 of zero (R143). -/
def ctz64 (a : Word) : Nat := trailing a 64 0

/-- Leading zero bits; 64 of zero (R143). -/
def clz64 (a : Word) : Nat := if a = 0 then 64 else 63 - a.toNat.log2

/-- Set bits (R143). -/
def popc64 (a : Word) : Nat := ((List.range 64).filter fun i => a.getLsbD i).length

/-- The width that SEXT and ZEXT name: 8, 16 or 32 (R134). -/
def extWidth (w : BitVec 2) : Nat := 8 * 2 ^ w.toNat

/-- The low bits of a word, sign-extended (R142). -/
def sextLow (n : Nat) (a : Word) : Word := ((a.setWidth n).signExtend 64)

/-- The low bits of a word, zero-extended (R142). -/
def zextLow (n : Nat) (a : Word) : Word := ((a.setWidth n).zeroExtend 64)


/-- ADD (R143). -/
def execAdd (c : Bool) (d a b : BitVec 6) (s : State) : Out :=
  s.scalar c fun s => s.wr d (s.rd a + s.rd b)

/-- SUB (R143). -/
def execSub (c : Bool) (d a b : BitVec 6) (s : State) : Out :=
  s.scalar c fun s => s.wr d (s.rd a - s.rd b)

/-- AND (R143). -/
def execAnd (c : Bool) (d a b : BitVec 6) (s : State) : Out :=
  s.scalar c fun s => s.wr d (s.rd a &&& s.rd b)

/-- OR (R143). -/
def execOr (c : Bool) (d a b : BitVec 6) (s : State) : Out :=
  s.scalar c fun s => s.wr d (s.rd a ||| s.rd b)

/-- XOR (R143). -/
def execXor (c : Bool) (d a b : BitVec 6) (s : State) : Out :=
  s.scalar c fun s => s.wr d (s.rd a ^^^ s.rd b)

/-- SLL (R143). -/
def execSll (c : Bool) (d a b : BitVec 6) (s : State) : Out :=
  s.scalar c fun s => s.wr d (s.rd a <<< shamt (s.rd b))

/-- SRL (R143). -/
def execSrl (c : Bool) (d a b : BitVec 6) (s : State) : Out :=
  s.scalar c fun s => s.wr d (s.rd a >>> shamt (s.rd b))

/-- SRA (R143). -/
def execSra (c : Bool) (d a b : BitVec 6) (s : State) : Out :=
  s.scalar c fun s => s.wr d ((s.rd a).sshiftRight (shamt (s.rd b)))

/-- SLT (R143). -/
def execSlt (c : Bool) (d a b : BitVec 6) (s : State) : Out :=
  s.scalar c fun s => s.wr d (ofCond ((s.rd a).slt (s.rd b)))

/-- SLTU (R143). -/
def execSltu (c : Bool) (d a b : BitVec 6) (s : State) : Out :=
  s.scalar c fun s => s.wr d (ofCond ((s.rd a).ult (s.rd b)))

/-- MIN (R143). -/
def execMin (c : Bool) (d a b : BitVec 6) (s : State) : Out :=
  s.scalar c fun s => s.wr d (if (s.rd b).slt (s.rd a) then s.rd b else s.rd a)

/-- MAX (R143). -/
def execMax (c : Bool) (d a b : BitVec 6) (s : State) : Out :=
  s.scalar c fun s => s.wr d (if (s.rd a).slt (s.rd b) then s.rd b else s.rd a)

/-- MINU (R143). -/
def execMinu (c : Bool) (d a b : BitVec 6) (s : State) : Out :=
  s.scalar c fun s => s.wr d (if (s.rd b).ult (s.rd a) then s.rd b else s.rd a)

/-- MAXU (R143). -/
def execMaxu (c : Bool) (d a b : BitVec 6) (s : State) : Out :=
  s.scalar c fun s => s.wr d (if (s.rd a).ult (s.rd b) then s.rd b else s.rd a)

/-- MUL (R143). -/
def execMul (c : Bool) (d a b : BitVec 6) (s : State) : Out :=
  s.scalar c fun s => s.wr d (s.rd a * s.rd b)

/-- MULH (R143). -/
def execMulh (c : Bool) (d a b : BitVec 6) (s : State) : Out :=
  s.scalar c fun s => s.wr d (mulHigh (s.rd a) (s.rd b))

/-- MULHU (R143). -/
def execMulhu (c : Bool) (d a b : BitVec 6) (s : State) : Out :=
  s.scalar c fun s => s.wr d (mulHighU (s.rd a) (s.rd b))

/-- DIV (R144). -/
def execDiv (c : Bool) (d a b : BitVec 6) (s : State) : Out :=
  s.scalar c fun s => s.wr d (divSigned (s.rd a) (s.rd b))

/-- DIVU (R144). -/
def execDivu (c : Bool) (d a b : BitVec 6) (s : State) : Out :=
  s.scalar c fun s => s.wr d (divUnsigned (s.rd a) (s.rd b))

/-- REM (R144). -/
def execRem (c : Bool) (d a b : BitVec 6) (s : State) : Out :=
  s.scalar c fun s => s.wr d (remSigned (s.rd a) (s.rd b))

/-- REMU (R144). -/
def execRemu (c : Bool) (d a b : BitVec 6) (s : State) : Out :=
  s.scalar c fun s => s.wr d (remUnsigned (s.rd a) (s.rd b))

/-- CLZ (R143). -/
def execClz (c : Bool) (d a : BitVec 6) (s : State) : Out :=
  s.scalar c fun s => s.wr d (BitVec.ofNat 64 (clz64 (s.rd a)))

/-- CTZ (R143). -/
def execCtz (c : Bool) (d a : BitVec 6) (s : State) : Out :=
  s.scalar c fun s => s.wr d (BitVec.ofNat 64 (ctz64 (s.rd a)))

/-- POPC (R143). -/
def execPopc (c : Bool) (d a : BitVec 6) (s : State) : Out :=
  s.scalar c fun s => s.wr d (BitVec.ofNat 64 (popc64 (s.rd a)))

/-- SEXT (R143). -/
def execSext (c : Bool) (d a : BitVec 6) (w : BitVec 2) (s : State) : Out :=
  s.scalar c fun s => s.wr d (sextLow (extWidth w) (s.rd a))

/-- ZEXT (R143). -/
def execZext (c : Bool) (d a : BitVec 6) (w : BitVec 2) (s : State) : Out :=
  s.scalar c fun s => s.wr d (zextLow (extWidth w) (s.rd a))

/-- ADDI (R145). -/
def execAddi (c : Bool) (d a : BitVec 6) (i : BitVec 13) (s : State) : Out :=
  s.scalar c fun s => s.wr d (s.rd a + i.signExtend 64)

/-- ANDI (R145). -/
def execAndi (c : Bool) (d a : BitVec 6) (i : BitVec 13) (s : State) : Out :=
  s.scalar c fun s => s.wr d (s.rd a &&& i.signExtend 64)

/-- ORI (R145). -/
def execOri (c : Bool) (d a : BitVec 6) (i : BitVec 13) (s : State) : Out :=
  s.scalar c fun s => s.wr d (s.rd a ||| i.signExtend 64)

/-- XORI (R145). -/
def execXori (c : Bool) (d a : BitVec 6) (i : BitVec 13) (s : State) : Out :=
  s.scalar c fun s => s.wr d (s.rd a ^^^ i.signExtend 64)

/-- SLTI (R145). -/
def execSlti (c : Bool) (d a : BitVec 6) (i : BitVec 13) (s : State) : Out :=
  s.scalar c fun s => s.wr d (ofCond ((s.rd a).slt (i.signExtend 64)))

/-- SLLI (R146). -/
def execSlli (c : Bool) (d a n : BitVec 6) (s : State) : Out :=
  s.scalar c fun s => s.wr d (s.rd a <<< n.toNat)

/-- SRLI (R146). -/
def execSrli (c : Bool) (d a n : BitVec 6) (s : State) : Out :=
  s.scalar c fun s => s.wr d (s.rd a >>> n.toNat)

/-- SRAI (R146). -/
def execSrai (c : Bool) (d a n : BitVec 6) (s : State) : Out :=
  s.scalar c fun s => s.wr d ((s.rd a).sshiftRight n.toNat)

/-- LDHI (R147). -/
def execLdhi (c : Bool) (d : BitVec 6) (i : BitVec 19) (s : State) : Out :=
  s.scalar c fun s => s.wr d (i.signExtend 64 <<< 13)

/-- ADDPC (R147): the pc is the instruction's address. -/
def execAddpc (c : Bool) (d : BitVec 6) (i : BitVec 19) (s : State) : Out :=
  s.scalar c fun s => s.wr d (s.h.pc + i.signExtend 64 <<< 13)

end Sys2Proof.Machine
end

