-- ==== Sys2Proof/Machine/Control.lean ====
section
/-!
DEFINITION. Control flow (R12, R152, R153).
-/

namespace Sys2Proof.Machine

/-- The target of a branch of a signed word offset (R125). -/
def branchTo (s : State) (o : BitVec 10) : Word := s.h.pc + (o.signExtend 64 <<< 2)

/-- A branch taken or not (R152). -/
def State.branch (s : State) (taken : Bool) (o : BitVec 10) : State := if taken then s.jump (branchTo s o) else s.adv

/-- A conditional branch (R152). -/
def branchIf (c : Bool) (cond : State → Bool) (o : BitVec 10) (s : State) : Out :=
  s.onHart c fun s => .next (s.branch (cond s) o)


/-- BEQ (R152). -/
def execBeq (c : Bool) (a b : BitVec 6) (o : BitVec 10) (s : State) : Out := branchIf c (fun s => s.rd a == s.rd b) o s

/-- BNE (R152). -/
def execBne (c : Bool) (a b : BitVec 6) (o : BitVec 10) (s : State) : Out := branchIf c (fun s => s.rd a != s.rd b) o s

/-- BLT (R152). -/
def execBlt (c : Bool) (a b : BitVec 6) (o : BitVec 10) (s : State) : Out := branchIf c (fun s => (s.rd a).slt (s.rd b)) o s

/-- BGE (R152). -/
def execBge (c : Bool) (a b : BitVec 6) (o : BitVec 10) (s : State) : Out := branchIf c (fun s => !(s.rd a).slt (s.rd b)) o s

/-- BLTU (R152). -/
def execBltu (c : Bool) (a b : BitVec 6) (o : BitVec 10) (s : State) : Out := branchIf c (fun s => (s.rd a).ult (s.rd b)) o s

/-- BGEU (R152). -/
def execBgeu (c : Bool) (a b : BitVec 6) (o : BitVec 10) (s : State) : Out := branchIf c (fun s => !(s.rd a).ult (s.rd b)) o s

/-- JAL (R153). -/
def execJal (c : Bool) (d : BitVec 6) (i : BitVec 19) (s : State) : Out :=
  s.onHart c fun s => .next ((s.wr d (s.h.pc + 4)).jump (s.h.pc + (i.signExtend 64 <<< 2)))

/-- JALR (R153): SA is read first, and bits 1:0 of the target are cleared. -/
def execJalr (c : Bool) (d a : BitVec 6) (i : BitVec 13) (s : State) : Out :=
  s.onHart c fun s => .next ((s.wr d (s.h.pc + 4)).jump ((s.rd a + i.signExtend 64) &&& ~~~3#64))

/-- SUBBNZ (R12). -/
def execSubbnz (c : Bool) (a b : BitVec 6) (o : BitVec 10) (s : State) : Out :=
  s.onHart c fun s =>
    let t := s.rd a - s.rd b
    .next ((s.wr a t).branch (t != 0) o)

end Sys2Proof.Machine
end

