-- ==== Sys2Proof/Machine/Ed448.lean ====
section
/-!
DEFINITION. Ed448 with an empty context (R360, R364, R365): keys, signing and checking.

PRESUMED: the spec names the scheme and not its arithmetic, which is that of RFC 8032; a signature is checked by that
standard's equation with the cofactor 4 (log 42).
-/

namespace Sys2Proof.Machine.Ed448

/-- The field's prime. -/
def p : Nat := 2 ^ 448 - 2 ^ 224 - 1

/-- The order of the base point. -/
def order : Nat := 2 ^ 446 - 13818066809895115352007386748515426880336692474882178609894547503885

/-- The curve's constant, -39081. -/
def d : Nat := p - 39081

/-- A point (x/z, y/z) of the curve. -/
structure Point where
  x : Nat
  y : Nat
  z : Nat
  deriving DecidableEq, Repr

/-- The neutral point. -/
def zero : Point := { x := 0, y := 1, z := 1 }

/-- The base point. -/
def base : Point :=
  { x := 224580040295924300187604334099896036246789641632564134246125461686950415467406032909029192869357953282578032075146446173674602635247710,
    y := 298819210078481492676017930443930673437544040154080242095928241372331506189835876003536878655418784733982303233503462500531545062832660,
    z := 1 }

/-- The sum of two points. -/
def Point.add (a b : Point) : Point :=
  let zz := a.z * b.z % p
  let bb := zz * zz % p
  let xx := a.x * b.x % p
  let yy := a.y * b.y % p
  let e := d * (xx * yy % p) % p
  let f := (bb + p - e) % p
  let g := (bb + e) % p
  let h := (a.x + a.y) * (b.x + b.y) % p
  { x := zz * f % p * ((h + 2 * p - xx - yy) % p) % p, y := zz * g % p * ((yy + p - xx) % p) % p, z := f * g % p }

/-- The bits of a number below 2^n, the highest first. -/
def bitsOf (n k : Nat) : List Bool := (List.range n).reverse.map k.testBit

/-- A multiple of a point. -/
def Point.times (k : Nat) (a : Point) : Point :=
  (bitsOf 446 k).foldl (fun r b => if b then (r.add r).add a else r.add r) zero

/-- A power in the field. -/
def power (a k : Nat) : Nat := (bitsOf 448 k).foldl (fun r b => if b then r * r % p * a % p else r * r % p) 1

/-- A point's 57 bytes: y, and the low bit of x as the highest bit. -/
def Point.encode (a : Point) : List Byte :=
  let i := power a.z (p - 2)
  leBytes 57 (a.y * i % p + (a.x * i % p) % 2 * 2 ^ 455)

/-- The point of 57 bytes, if they are a point's. -/
def decode (b : List Byte) : Option Point :=
  let n := leNat b
  let s := n / 2 ^ 455
  let y := n % 2 ^ 455
  let u := (y * y + p - 1) % p
  let v := (d * y % p * y + p - 1) % p
  let uuv := u * u % p * u % p * v % p
  let x := uuv * power (uuv * u % p * u % p * v % p * v % p) ((p - 3) / 4) % p
  if b.length ≠ 57 ∨ p ≤ y ∨ v * x % p * x % p ≠ u ∨ (x = 0 ∧ s = 1) then none
  else some { x := if s = x % 2 then x else p - x, y := y, z := 1 }

/-- The scheme's hash of some bytes, as a number: SHAKE256 behind the prefix of an empty context. -/
def hash (m : List Byte) : Nat :=
  leNat (Shake.shake256 ([0x53, 0x69, 0x67, 0x45, 0x64, 0x34, 0x34, 0x38, 0, 0] ++ m) 114)

/-- A seed's secret scalar, and the prefix that its signatures hash. -/
def secret (seed : List Byte) : Nat × List Byte :=
  let h := Shake.shake256 seed 114
  (leNat (h.take 56) / 4 * 4 % 2 ^ 447 + 2 ^ 447, h.drop 57)

/-- The public key of a seed. -/
def publicKey (seed : List Byte) : List Byte := (base.times ((secret seed).1 % order)).encode

/-- The signature of a message under a seed. -/
def sign (seed m : List Byte) : List Byte :=
  let (a, pre) := secret seed
  let r := hash (pre ++ m) % order
  let rb := (base.times r).encode
  rb ++ leBytes 57 ((r + hash (rb ++ publicKey seed ++ m) % order * a) % order)

/-- Two points are equal. -/
def Point.same (a b : Point) : Bool := a.x * b.z % p == b.x * a.z % p && a.y * b.z % p == b.y * a.z % p

/-- Four times a point. -/
def Point.four (a : Point) : Point := (a.add a).add (a.add a)

/-- Whether a signature of a message is valid under a public key. -/
def valid (sig m pub : List Byte) : Bool :=
  match decode (sig.take 57), decode pub with
  | some r, some a =>
    let s := leNat (sig.drop 57)
    sig.length == 114 && decide (s < order) &&
      (base.times s).four.same (r.add (a.times (hash (sig.take 57 ++ pub ++ m) % order))).four
  | _, _ => false

end Sys2Proof.Machine.Ed448
end

