-- ==== Sys2Proof/Machine/Hblk.lean ====
section
/-!
DEFINITION. Handle and block instructions (R209 to R215, R69, R70, R75 to R85).
-/

namespace Sys2Proof.Machine

namespace Eng

/-- A binding takes the place of a slot's old one. The new hold is added before the old one drops, so that a rebind on
one entry never destroys its object (R211). -/
def rebind (new : Binding) (old : Option Binding) : Eng Unit := do
  if new.hold then addHold new.space new.index new.weak
  match old with
  | none => pure ()
  | some b => release b

/-- A paged object made (R210, R214): its index, or nothing where no index or no table space is free. -/
def makePaged (sp : Space) (policy prio entries pool rowlog fill length : Nat) (blocks : List Nat) :
    Eng (Option (BitVec 24)) := do
  match ← freeIndex sp with
  | none => return none
  | some i =>
    match ← arenaTake (tableBytes entries) with
    | none => return none
    | some a =>
      writeTable a entries pool rowlog fill blocks
      newEntry sp i true true policy prio 1 0 length a
      return some i

/-- A new object for a slot: its index and GEN; the slot's old hold drops once the object is made. -/
def madeFor (sp : Space) (old : Option Binding) (make : Eng (Option (BitVec 24))) : Eng (Option (BitVec 24 × BitVec 16)) := do
  match ← make with
  | none => return none
  | some i =>
    (match old with | none => pure () | some b => release b : Eng Unit)
    return some (i, (← entry (sp.entryAt i)).gen)

end Eng

open Eng

namespace State

/-- An engine operation of a scalar instruction, then its effect on the hart. Where an access table denies the operation
nothing of it happens (R350). -/
def engine {α : Type} (s : State) (op : Eng α) (f : State → α → State) : Out :=
  match Eng.bpe s op with
  | (none, s) => .next s.adv
  | (some a, s) => .next (f s a).adv

/-- The handle entry of a binding, as the engine reads it. -/
def entryOf (s : State) (b : Binding) : Entry := s.entry (b.space.entryAt b.index)

/-- The trap of a slot that a check of R74 fails. -/
def fail (s : State) (f : Failed) (h : BitVec 4) : Out := s.raise (f.trap false h)

/-- An instruction on a bound slot: code 1 where it is unbound (R209). -/
def onBound (s : State) (h : BitVec 4) (f : Binding → Out) : Out :=
  match s.slot h with
  | none => s.fail .unbound h
  | some b => f b

/-- The state after the current hart's instruction has read the handle entry of a binding: its errors are met (R368). -/
def entryMet (s : State) (b : Binding) : State := s.meetAll [(.phys (b.space.entryAt b.index), 64)]

/-- A block instruction on a slot: bound, live and paged (R213, R214); what a gone slot does is given. -/
def onPaged (s : State) (h : BitVec 4) (gone : State → Out) (f : Entry → BTable → Out) : Out :=
  s.onBound h fun b =>
    let e := s.entryOf b
    if b.isGone e then gone (s.entryMet b)
    else if !e.paged then (s.entryMet b).fail .space h
    else f e (s.btable e.tbl)

/-- A strong-only block instruction (R213, R78). -/
def onTable (s : State) (h : BitVec 4) (f : Entry → BTable → Out) : Out :=
  s.onPaged h (fun s => s.fail .gone h) f

/-- A new object bound strongly in a slot, whose old hold drops; its value goes to `d` (R210, R214). -/
def bindNew (s : State) (d : BitVec 6) (h : BitVec 4) (make : Eng (Option (BitVec 24))) : Out :=
  s.engine (madeFor s.h.space (s.slot h) make) fun s r =>
    match r with
    | none => s.wrInt d (-1)
    | some (i, gen) => (s.setSlot h (some (s.bindingOf false gen i none))).wr d (handleValue gen false i)

end State

/-- What makes HNEW's attributes illegal (R210). -/
def badAttributes (s : State) (v : Word) : Bool :=
  let q := s.pool s.partNo (bits v.toNat 8 6)
  v.extractLsb' 37 27 ≠ 0 || v.extractLsb' 14 2 ≠ 0 || v.extractLsb' 5 3 ≠ 0 || !q.en || q.bslog < bits v.toNat 32 5

/-- HNEW (R210). -/
def execHnew (c : Bool) (d a : BitVec 6) (h : BitVec 4) (s : State) : Out :=
  s.onHart c fun s =>
    let v := s.rd a
    s.legal (encode (.hnew c d a h)) [(badAttributes s v, 10)] fun _ => s.drained fun s =>
      let pool := bits v.toNat 8 6
      let n := bits v.toNat 16 16 + 1
      s.bindNew d h (makePaged s.h.space (bits v.toNat 3 2) (bits v.toNat 0 3) n pool (bits v.toNat 32 5) 0
        (n * (s.pool s.partNo pool).bs) (List.replicate n emptyBlock))

/-- HBIND (R70, R74, R78, R211). -/
def execHbind (c : Bool) (a : BitVec 6) (h : BitVec 4) (s : State) : Out :=
  s.onHart c fun s => s.drained fun s =>
    let v := s.rd a
    let sp := s.h.space
    if malformed sp v then s.raise { code := 16, val := boundsVal 0 5 h, vec := false, estart := 0 }
    else
      let e := s.entry (sp.entryAt (valIndex v))
      let stale := e.gen ≠ valGen v || e.state ≠ 1
      let s := if stale then s.meetAll [(.phys e.addr, 64)] else s
      if stale && !valWeak v then s.raise { code := 17, val := 16 + h.zeroExtend 64, vec := false, estart := 0 }
      else
        let b := { s.bindingOf (valWeak v) (valGen v) (valIndex v) none with hold := !stale, gone := stale }
        s.engine (rebind b (s.slot h)) fun s _ => s.setSlot h (some b)

/-- A weak hold of a live object made strong (R79); whether it was. -/
def Eng.raiseHold (b : Binding) : Eng Bool := do
  let e ← Eng.entry (b.space.entryAt b.index)
  if b.isGone e then return false
  setCounts e.addr (e.scount + 1) (e.wcount - 1)
  return true

/-- HUP (R79, R211). -/
def execHup (c : Bool) (d : BitVec 6) (h : BitVec 4) (s : State) : Out :=
  s.onHart c fun s => s.onBound h fun b =>
    if !b.weak then .next (s.wr d 1).adv
    else
      s.engine (raiseHold b) fun s ok =>
        if ok then (s.setSlot h (some { b with weak := false })).wr d 1
        else (s.setSlot h (some { b with gone := true })).wr d 0

/-- A strong hold made weak (R79). -/
def Eng.lowerHold (b : Binding) : Eng Unit := do
  addHold b.space b.index true
  subHold b.space b.index false

/-- HDOWN (R79, R119, R211): a weak slot is unchanged. DESIGN CHOICE: a slot that EXBIND or EXPOLL bound keeps its expert
and the expert's bind count (log 67). -/
def execHdown (c : Bool) (h : BitVec 4) (s : State) : Out :=
  s.onHart c fun s => s.onBound h fun b => s.drained fun s =>
    if b.weak then .next s.adv
    else
      s.engine (lowerHold b) fun s _ => s.setSlot h (some { b with weak := true })

/-- HWEAK (R69, R211). -/
def execHweak (c : Bool) (d : BitVec 6) (h : BitVec 4) (s : State) : Out :=
  s.onHart c fun s => s.onBound h fun b => .next (s.wr d (handleValue b.gen true b.index)).adv

/-- HREL (R70, R119, R211): an unbound slot is left as it is. -/
def execHrel (c : Bool) (h : BitVec 4) (s : State) : Out :=
  s.onHart c fun s => s.drained fun s =>
    match s.slot h with
    | none => .next s.adv
    | some b => s.engine (release b) fun s _ => s.setSlot h none

/-- HCHK (R77). -/
def execHchk (c : Bool) (d : BitVec 6) (h : BitVec 4) (s : State) : Out :=
  s.onHart c fun s =>
    match s.slot h with
    | none => .next (s.wr d 0).adv
    | some b => .next ((s.entryMet b).wr d (if b.isGone (s.entryOf b) then 0 else 1)).adv

/-- The word that HINFO's selector names (R212). -/
def infoWord (b : Binding) (e : Entry) (sel : Nat) : Word :=
  match sel with
  | 0 => BitVec.ofNat 64 e.base
  | 1 => BitVec.ofNat 64 (e.base / 2 ^ 64)
  | 2 => BitVec.ofNat 64 e.length
  | 3 => BitVec.ofNat 64 (e.space + e.policy * 2 ^ 3 + e.prio * 2 ^ 5 + (if e.paged then 2 ^ 8 else 0) + e.owner * 2 ^ 16 +
      e.gen.toNat * 2 ^ 32)
  | 4 => BitVec.ofNat 64 (e.scount + e.wcount * 2 ^ 32)
  | _ => handleValue b.gen b.weak b.index

/-- HINFO (R212). -/
def execHinfo (c : Bool) (d a : BitVec 6) (h : BitVec 4) (s : State) : Out :=
  s.onHart c fun s =>
    let sel := (s.rd a).toNat
    s.legal (encode (.hinfo c d a h)) [(5 < sel, 10)] fun _ => s.onBound h fun b =>
      let (e, s) := s.view b
      if b.isGone e && sel != 5 then .next ((s.wr d 0).mod fun h => { h with gone := true }).adv
      else .next (s.wr d (infoWord b e sel)).adv

/-- The place of a block in the record of BALLOC's counts (R213). -/
def ballocKey (pool b : Nat) : Nat := pool * 2 ^ 32 + b

/-- BALLOC (R213). -/
def execBalloc (c : Bool) (d a : BitVec 6) (s : State) : Out :=
  s.onHart c fun s =>
    let pool := (s.rd a).toNat
    s.legal (encode (.balloc c d a)) [(63 < pool || !(s.pool s.partNo pool).en, 10)] fun _ =>
      s.engine (takeBlock pool) fun s r =>
        match r with
        | none => s.wrInt d (-1)
        | some b => (s.modPart s.partNo fun p =>
            { p with balloc := p.balloc.set none (ballocKey pool b) (some s.h.space.asid) }).wr d (BitVec.ofNat 64 b)

/-- BFREE is illegal on a free block, one outside the pool, or one whose BALLOC count the ASID does not hold (R213). -/
def badFree (s : State) (pool b : Nat) : Bool :=
  let q := s.pool s.partNo pool
  63 < pool || !q.en || q.nblk ≤ b || s.physNat (q.cnt + 4 * b) 4 = 0 ||
    (s.part s.partNo).balloc.get none (ballocKey pool b) ≠ some s.h.space.asid

/-- BFREE (R213, R119). -/
def execBfree (c : Bool) (a b : BitVec 6) (s : State) : Out :=
  s.onHart c fun s =>
    let pool := (s.rd a).toNat
    let blk := (s.rd b).toNat
    s.legal (encode (.bfree c a b)) [(badFree s pool blk, 10)] fun _ => s.drained fun s =>
      s.engine (decCount pool blk) fun s _ =>
        s.modPart s.partNo fun p => { p with balloc := p.balloc.set none (ballocKey pool blk) none }

/-- A table that an instruction names, read by the engine with its handle entry (R350), before its operation. -/
def Eng.ofTable {α : Type} (e : Entry) (t : BTable) (op : Eng α) : Eng α := do
  guard e.addr 64 Want.load
  guard t.addr 64 Want.load
  op

/-- The blocks that the entries of a table map. -/
def State.blocksOf (s : State) (t : BTable) : List Nat := (List.range t.entries).map fun i => (s.mapped t i).getD emptyBlock

/-- A fork of a table would take a count past 2^32 - 1 (R214). -/
def State.forkFull (s : State) (q : Pool) (blocks : List Nat) : Bool :=
  blocks.any fun b => b ≠ emptyBlock && 2 ^ 32 ≤ s.physNat (q.cnt + 4 * b) 4 + blocks.count b

/-- A table forked (R214): a new object with the same entries, and every block it maps counted once more; nothing where a
count would pass its bound. -/
def Eng.forkTable (sp : Space) (e : Entry) (t : BTable) : Eng (Option (BitVec 24)) := do
  guard (t.addr + 64) (4 * t.entries) Want.load
  let q ← pool t.pool
  let blocks := (← state).blocksOf t
  for b in blocks do
    if b ≠ emptyBlock then guard (q.cnt + 4 * b) 4 Want.load
  if (← state).forkFull q blocks then return none
  match ← makePaged sp e.policy e.prio t.entries t.pool t.rowlog t.fill e.length blocks with
  | none => return none
  | some i =>
    for b in blocks do
      if b ≠ emptyBlock then incCount t.pool b
    return some i

/-- BFORK (R214): the new binding takes the place of hM's after the fork. -/
def execBfork (c : Bool) (d : BitVec 6) (h g : BitVec 4) (s : State) : Out :=
  s.onHart c fun s => s.onTable h fun e t => s.drained fun s =>
    s.bindNew d g (ofTable e t (forkTable s.h.space e t))

/-- The bytes of an entry's rows below the fill (R84, R215). -/
def rowBytes (t : BTable) (bs n : Nat) : Nat :=
  let rows := bs / 2 ^ t.rowlog
  min rows (t.fill - n * rows) * 2 ^ t.rowlog

/-- The block that an entry of a table maps, read by the engine. -/
def Eng.mapped (t : BTable) (n : Nat) : Eng (Option Nat) := do
  guard (t.addr + 64 + 4 * n) 4 Want.load
  return (← state).mapped t n

/-- An entry's block copied into a fresh block, which takes its place (R84, R215). -/
def Eng.cow (t : BTable) (n : Nat) : Eng Int := do
  match ← mapped t n with
  | none => return 0
  | some b =>
    let q ← pool t.pool
    if (← count q b) ≤ 1 then return 0
    match ← takeBlock t.pool with
    | none => return -1
    | some b' =>
      let k := rowBytes t q.bs n
      guard (q.blockAt b) k Want.load
      guard (q.blockAt b') q.bs Want.store
      onState fun s => (s.store [(.phys (q.blockAt b'), q.bs)] (List.replicate q.bs 0) 0).engineCopy
        [(.phys (q.blockAt b), k)] [(.phys (q.blockAt b'), k)]
      setEntry t n b'
      decCount t.pool b
      return 1

/-- BCOW (R84, R215). -/
def execBcow (c : Bool) (d a : BitVec 6) (h : BitVec 4) (s : State) : Out :=
  s.onHart c fun s => s.onTable h fun e t =>
    let n := (s.rd a).toNat
    s.legal (encode (.bcow c d a h)) [(t.entries ≤ n, 10)] fun _ =>
      s.engine (ofTable e t (cow t n)) fun s r => s.wrInt d r

/-- An entry made to map a block: the old block's count drops and the new one's rises (R213). -/
def Eng.mapBlock (t : BTable) (n blk : Nat) : Eng Unit := do
  match ← mapped t n with
  | none => pure ()
  | some b => decCount t.pool b
  incCount t.pool blk
  setEntry t n blk

/-- BMAP (R213): the drop of the old block's count waits for the hart's transfers (R119). -/
def execBmap (c : Bool) (h : BitVec 4) (a b : BitVec 6) (s : State) : Out :=
  s.onHart c fun s => s.onTable h fun e t =>
    let n := (s.rd a).toNat
    let blk := (s.rd b).toNat
    let q := s.pool s.partNo t.pool
    s.legal (encode (.bmap c h a b)) [(t.entries ≤ n || q.nblk ≤ blk || s.physNat (q.cnt + 4 * blk) 4 = 0, 10)] fun _ => s.drained fun s =>
      s.engine (ofTable e t (mapBlock t n blk)) fun s _ => s

/-- The fill of a table, replaced where a new one is given (R213). -/
def Eng.fill (t : BTable) (v : Option Nat) : Eng Nat := do
  match v with
  | none => pure ()
  | some v =>
    let _ ← pool t.pool
    Eng.write (t.addr + 8) 4 v
  return t.fill

/-- BTLEN (R213): with -1 it only reads, and a gone slot then reads 0. -/
def execBtlen (c : Bool) (d a : BitVec 6) (h : BitVec 4) (s : State) : Out :=
  s.onHart c fun s =>
    let v := s.rd a
    let reads := v = BitVec.allOnes 64
    let gone (s : State) : Out := if reads then .next ((s.wr d 0).mod fun h => { h with gone := true }).adv else s.fail .gone h
    s.onPaged h gone fun e t =>
      let rows := t.entries * ((s.pool s.partNo t.pool).bs / 2 ^ t.rowlog)
      s.legal (encode (.btlen c d a h)) [(!reads && rows < v.toNat, 10)] fun _ =>
        s.engine (ofTable e t (fill t (if reads then none else some v.toNat))) fun s n => s.wr d (BitVec.ofNat 64 n)

/-- Every mapped entry of a table drops its count and maps nothing, and the fill is 0 (R213). -/
def Eng.emptyTable (t : BTable) : Eng Unit := do
  dropTable t
  for n in List.range t.entries do setEntry t n emptyBlock
  Eng.write (t.addr + 8) 4 0

/-- BREL (R213, R119): every mapped entry drops its count and the fill is 0. -/
def execBrel (c : Bool) (h : BitVec 4) (s : State) : Out :=
  s.onHart c fun s => s.onTable h fun e t => s.drained fun s =>
    s.engine (ofTable e t (emptyTable t)) fun s _ => s

end Sys2Proof.Machine
end

