-- ==== Sys2Proof/Machine/Expert.lean ====
section
/-!
DEFINITION. Expert instructions (R86 to R90, R216 to R219) and the start of page-ins (R327, step 1).

An expert instruction's operation is Perigee's. Where an access table denies Perigee the operation, R350 makes it a
failed tier read: nothing is bound or parked, and the hart receives interrupt code 2 (R328).
-/

namespace Sys2Proof.Machine

/-- A counter of R90 moved on, and whether it was saturated. -/
def bump (n : Nat) : Nat × Bool := if n = 65535 then (n, true) else (n + 1, false)

namespace Eng

/-- A page-in put at the tail of its port's queue (R327, step 1); `pin` marks it to be pinned on arrival (R219). -/
def startPageIn (sp : Space) (e : Nat) (pin : Bool) : Eng Unit := do
  let x ← expertVia sp e
  setWord0 x.addr 0 3 (if pin then 5 else 1)
  let part := (← get).p
  let port := bits x.tier 52 3
  let q : PageIn := { part := part, space := sp, expert := e, alloc := none, retried := false }
  onState fun s =>
    let l := s.pkg.pageq.get [] port ++ [q]
    { s with pkg := { s.pkg with pageq := s.pkg.pageq.set [] port l } }

/-- A hit of EXBIND (R87, R216): the slot's strong hold, the bind count and BINDS, and the old hold dropped. -/
def exbindHit (x : Expert) (new : Binding) (old : Option Binding) : Eng Bool := do
  let (n, sat) := bump x.binds
  setWord0 x.addr 32 16 n
  bindCount new.space (new.expert.getD 0) true
  rebind new old
  return sat

/-- A miss of EXBIND (R88, R216): MISSES counts it, and an absent expert's page-in starts. -/
def exbindMiss (sp : Space) (e : Nat) (x : Expert) : Eng Bool := do
  let (n, sat) := bump x.misses
  setWord0 x.addr 48 16 n
  if x.state = 0 then startPageIn sp e x.pinarr
  return sat

/-- A ready hold that becomes a slot's (R217, R89): the bind count rises, the slot's old hold drops; the handle. -/
def takeReady (sp : Space) (e : Nat) (old : Option Binding) : Eng Word := do
  let x ← expert (sp.expertAt e)
  bindCount sp e true
  (match old with | none => pure () | some b => release b : Eng Unit)
  return x.handle

/-- EXPIN (R219). -/
def pinExpert (sp : Space) (e : Nat) (on : Bool) : Eng Nat := do
  let x ← expert (sp.expertAt e)
  let i := valIndex x.handle
  if on then
    if x.state = 2 then
      addHold sp i false
      setWord0 x.addr 0 2 3
    else if x.state = 0 then startPageIn sp e true
    else if x.state = 1 then setWord0 x.addr 2 1 1
    else pure ()
  else
    setWord0 x.addr 2 1 0
    if x.state = 3 then
      setWord0 x.addr 0 2 2
      dropHold sp i false
  return (← expert (sp.expertAt e)).state

/-- EXSTAT (R219). -/
def expertWord (sp : Space) (e : Nat) (clear : Bool) : Eng Word := do
  let x ← expert (sp.expertAt e)
  if clear then setWord0 x.addr 32 32 0
  return BitVec.ofNat 64 (x.state + x.bcount * 2 ^ 16 + x.binds * 2 ^ 32 + x.misses * 2 ^ 48)

end Eng

open Eng

namespace State

/-- SVAL of interrupt code 2 (R328). -/
def failedExpert (e : Nat) (asid : BitVec 14) : Word := BitVec.ofNat 64 (asid.toNat * 2 ^ 16 + e)

/-- An operation of Perigee for an expert instruction, whose hart meets its errors (R368), then its effect. -/
def expertOp {α : Type} (s : State) (d : BitVec 6) (e : Nat) (op : Eng α) (f : State → α → State) : Out :=
  match Eng.perigee s s.partNo (do Eng.forHart; op) with
  | (some a, s) => .next (f s a).adv
  | (none, s) =>
    .next ((s.mod fun h => { h with intr := h.intr ++ [(2, failedExpert e h.space.asid)] }).wr d 0).adv

/-- SAT set where a counter saturated (R90). -/
def satIf (s : State) (b : Bool) : State := s.raiseFlags (if b then Flags.sat else 0)

/-- The tokens of an EXBIND that its hart has not parked for the expert already (R216). -/
def newTokens (s : State) (e m : Nat) : List Token :=
  ((s.active m).map fun i =>
    { hart := s.cur, space := s.h.space, expert := e, elem := i, ready := none : Token }).filter fun t =>
    !(s.clu s.clNo).tokens.any fun u => u.hart = t.hart ∧ u.space.asid = t.space.asid ∧ u.expert = e ∧ u.elem = t.elem

/-- The ready tokens of the current hart's address space that an EXPOLL accepts (R217): those of the page-in that landed
first, or of the lower expert where two landed in one cycle. -/
def readySet (s : State) (only : Option Nat) : List Token :=
  let l := (s.clu s.clNo).tokens.filter fun t => t.hart == s.cur && t.space.asid == s.h.space.asid &&
    t.ready.isSome && (match only with | none => true | some e => t.expert == e)
  let key (t : Token) : Nat := t.ready.getD 0 * 65536 + t.expert
  match l with
  | [] => []
  | t :: r =>
    let best := r.foldl (fun a u => if key u < key a then u else a) t
    l.filter fun u => u.expert = best.expert

/-- An EXPOLL that returns a ready set (R217, R89): the ready hold becomes the slot's. -/
def pollSet (s : State) (d : BitVec 6) (m : Nat) (h : BitVec 4) (l : List Token) (e : Nat) : Out :=
  let old := s.slot h
  let sp := s.h.space
  s.expertOp d e (takeReady sp e old) fun s v =>
    let s := (s.setSlot h (some (s.bindingOf false (valGen v) (valIndex v) (some e)))).modClu s.clNo fun c =>
      { c with tokens := c.tokens.filter fun t => !l.contains t }
    (s.setMask m (l.foldl (fun a t => putBits a t.elem 1 1) 0)).wr d (BitVec.ofNat 64 e)

end State

/-- EXBIND (R87, R88, R216). -/
def execExbind (c : Bool) (d a : BitVec 6) (m : BitVec 2) (h : BitVec 4) (s : State) : Out :=
  s.onHart c fun s =>
    let e := (s.rd a).toNat
    let sp := s.h.space
    s.legal (encode (.exbind c d a m h)) [(sp.ertSize ≤ e, 10)] fun _ =>
      let x := s.expert (sp.expertAt e)
      if 2 ≤ x.state then
        s.drained fun s =>
          let b := s.bindingOf false (valGen x.handle) (valIndex x.handle) (some e)
          s.expertOp d e (exbindHit x b (s.slot h)) fun s sat => ((s.setSlot h (some b)).wr d 1).satIf sat
      else
        let l := s.newTokens e m.toNat
        if l ≠ [] ∧ 4096 < (s.clu s.clNo).tokens.length + l.length then
          s.raise { code := 20, val := BitVec.ofNat 64 (h.toNat * 2 ^ 16 + e), vec := false, estart := 0 }
        else
          s.expertOp d e (exbindMiss sp e x) fun s sat =>
            ((s.modClu s.clNo fun c => { c with tokens := c.tokens ++ l }).wr d 0).satIf sat

/-- EXPOLL (R89, R217). -/
def execExpoll (c : Bool) (d a : BitVec 6) (m : BitVec 2) (h : BitVec 4) (s : State) : Out :=
  s.onHart c fun s =>
    let v := s.rd a
    let any := v = BitVec.allOnes 64
    s.legal (encode (.expoll c d a m h)) [(!any && s.h.space.ertSize ≤ v.toNat, 10)] fun _ =>
      match s.readySet (if any then none else some v.toNat) with
      | [] => .next (s.wrInt d (-1)).adv
      | t :: l => s.drained fun s => s.pollSet d m.toNat h (t :: l) t.expert

/-- EXREL (R87, R119, R218). -/
def execExrel (c : Bool) (h : BitVec 4) (s : State) : Out :=
  s.onHart c fun s => s.onBound h fun b =>
    s.legal (encode (.exrel c h)) [(b.expert.isNone, 10)] fun _ => s.drained fun s =>
      s.engine (release b) fun s _ => s.setSlot h none

/-- What makes EXPIN and EXSTAT illegal (R219). -/
def badExpert (s : State) (a b : BitVec 6) : Bool := s.h.space.ertSize ≤ (s.rd a).toNat || 1 < (s.rd b).toNat

/-- EXPIN (R219). -/
def execExpin (c : Bool) (d a b : BitVec 6) (s : State) : Out :=
  s.onHart c fun s =>
    let e := (s.rd a).toNat
    s.legal (encode (.expin c d a b)) [(badExpert s a b, 10)] fun _ =>
      s.expertOp d e (pinExpert s.h.space e (s.rd b = 1)) fun s n => s.wr d (BitVec.ofNat 64 n)

/-- EXSTAT (R219). -/
def execExstat (c : Bool) (d a b : BitVec 6) (s : State) : Out :=
  s.onHart c fun s =>
    let e := (s.rd a).toNat
    s.legal (encode (.exstat c d a b)) [(badExpert s a b, 10)] fun _ =>
      s.expertOp d e (expertWord s.h.space e (s.rd b = 1)) fun s v => s.wr d v

end Sys2Proof.Machine
end

