-- ==== Sys2Proof/Machine/Watch.lean ====
section
/-!
DEFINITION. The watches of parked VWAITs (R42, R207, R208): the device tests a watched location at every value it takes
while the context is active or standby.
-/

namespace Sys2Proof.Machine

/-- A comparison of a location's bits with a captured value, of `w` bits (R207). -/
def Cond.holds (c : Cond) (signed : Bool) (w x y : Nat) : Bool :=
  let a := intValue signed w x
  let b := intValue signed w y
  match c with
  | .eq => x == y
  | .ne => x != y
  | .lt => a < b
  | .le => a ≤ b
  | .gt => b < a
  | .ge => b ≤ a
  | .nz => x != 0

namespace State

/-- A watch after its location has been tested: once met it stays met. A word that holds an uncorrectable error reads 0
(R368). -/
def testWatch (s : State) (x : Watch) : Watch :=
  let v := if x.locs.any fun l => s.bad.contains l.word then 0 else leNat (x.locs.map s.byteAt)
  { x with met := x.met || x.cond.holds x.signed (8 * x.locs.length) v x.value }

/-- A park after its watches have been tested. -/
def testPark (s : State) : Option Park → Option Park
  | some (.vwait l) => some (.vwait (l.map s.testWatch))
  | p => p

/-- Every watch of the machine tested: nothing watches for a saved hart (R208). -/
def notify (s : State) : State :=
  (s.liveCtxs.filter fun k => (s.hart k).life ≠ .saved ∧ (s.hart k).park.isSome).foldl
    (fun s k => s.modHart k fun h => { h with park := s.testPark h.park }) s

end State

end Sys2Proof.Machine
end

