-- ==== Sys2Proof/Machine/Heap.lean ====
section
/-!
DEFINITION. The Lodestar heap (R302 to R308): insert, cancel and retire records, eligibility, the status words in the
table objects, and LSPOP and LSPUSH (R157, R158).

The heap has no master number (R348), so its own accesses are checked by the page tables alone.
-/

namespace Sys2Proof.Machine

/-- An insert record (R302). -/
structure Record where
  deadline : Word
  cost : BitVec 32
  index : BitVec 16
  op : Nat
  flagen : BitVec 8
  asid : BitVec 16
  gap : Nat
  cookie : Word
  flagh : Word
  flagoff : Nat
  thresh : Word
  tableh : Word
  deriving DecidableEq, Repr

/-- A record's fields from its 512 bits. -/
def Record.ofBits (b : BitVec 512) : Record :=
  { deadline := b.extractLsb' 0 64, cost := b.extractLsb' 64 32, index := b.extractLsb' 96 16,
    op := (b.extractLsb' 112 8).toNat, flagen := b.extractLsb' 120 8, asid := b.extractLsb' 128 16,
    gap := (b.extractLsb' 144 48).toNat, cookie := b.extractLsb' 192 64, flagh := b.extractLsb' 256 64,
    flagoff := (b.extractLsb' 320 64).toNat, thresh := b.extractLsb' 384 64, tableh := b.extractLsb' 448 64 }

/-- Bytes 0 to 55 of a table entry (R304): the record's, with OP 0. -/
def Record.entryBytes (b : BitVec 512) : List Byte :=
  let l := leBytes 56 b.toNat
  l.take 14 ++ [0] ++ l.drop 15

namespace State

/-- An operation of a partition that no hart issues, as if the partition's first context were the current one. -/
def inPart {α : Type} (s : State) (p : Nat) (f : State → α × State) : α × State :=
  if s.partNo = p then f s
  else
    let (a, t) := f (s.switchTo (384 * p))
    (a, t.switchTo s.cur)

/-- The runs of `n` bytes of an object from an offset on, as the heap reaches them; nothing where a page or a block is
missing. -/
def heapRuns (s : State) (sp : Space) (e : Entry) (w : Want) : Nat → Nat → Nat → Option (List Piece) × State
  | 0, _, _ => (some [], s)
  | fuel + 1, off, n =>
    if n = 0 then (some [], s)
    else
      let t := s.btable e.tbl
      let q := s.pool s.partNo t.pool
      let unit := if e.blk then q.bs else 65536
      let a := if e.blk then off else e.base + off
      let k := min n (unit - a % unit)
      let (r, s) := if e.blk then ((s.mapped t (a / unit)).map fun b => q.blockAt b + a % unit, s)
        else match s.translate sp false w a with
          | (.ok x, s) => (if (targetOf x).isSome then some x else none, s)
          | (.error _, s) => (none, s)
      match r with
      | none => (none, s)
      | some x =>
        match heapRuns s sp e w fuel (off + k) (n - k) with
        | (none, s) => (none, s)
        | (some l, s) => (some ((.phys x, k) :: l), s)

/-- The table registers that hold for an ASID (R286): a live hart's, which one is the device's choice where they differ, or
those last in force. -/
def spaceFor (s : State) (asid : BitVec 14) : Space :=
  let last := ((s.part s.partNo).known.find? fun x => x.asid = asid).getD (Space.reset asid)
  let l := s.spacesFor last
  l.getD (s.pick l.length).1 last

/-- An object that a record names (R303): a live global-space object of the ASID whose value matches as HBIND matches it. -/
def namedObject (s : State) (asid : BitVec 14) (v : Word) : Option (Binding × Entry) :=
  let sp := s.spaceFor asid
  if malformed sp v then none
  else
    let e := s.entry (sp.entryAt (valIndex v))
    if e.state = 1 ∧ e.gen = valGen v ∧ e.space = 0 then
      some ({ weak := true, hold := false, gone := false, gen := valGen v, index := valIndex v, space := sp, expert := none }, e)
    else none

/-- Bytes of a request's table object written; dropped where the object no longer lives (R303). -/
def writeTableObj (s : State) (r : Request) (off : Nat) (b : List Byte) : State :=
  let e := s.entry (r.table.space.entryAt r.table.index)
  if r.table.isGone e then s
  else
    match s.heapRuns r.table.space e Want.store (b.length + 1) (64 * r.index.toNat + off) b.length with
    | (some l, s) => s.store l b 0
    | (none, s) => s

/-- The status word of a request (R304). -/
def statusWord (r : Request) : Nat := r.state + (if r.cancel then 8 else 0)

/-- A request of the current partition replaced. -/
def putRequest (s : State) (r : Request) : State :=
  s.modPart s.partNo fun p => { p with requests := p.requests.map fun x => if x.index = r.index then r else x }

/-- A request changed, with its status word written in one write (R304). -/
def changeRequest (s : State) (r : Request) : State :=
  (s.putRequest r).writeTableObj r 56 (leBytes 8 (statusWord r))

/-- The request of an index, if one was ever inserted. -/
def request (s : State) (i : BitVec 16) : Option Request := (s.part s.partNo).requests.find? fun x => x.index = i

/-- The requests that are waiting or eligible. -/
def queued (s : State) : List Request := (s.part s.partNo).requests.filter fun x => x.state = 1 ∨ x.state = 2

/-- An ASID of the current partition's range. -/
def asidInRange (s : State) (a : BitVec 16) : Bool :=
  let p := s.part s.partNo
  a.toNat < 16384 && p.asidlo.toNat ≤ a.toNat && a.toNat ≤ p.asidhi.toNat

/-- A record dropped: the counter and the reason (R335). -/
def dropRecord (s : State) (reason : Nat) : State :=
  s.modPart s.partNo fun p => { p with rejected := p.rejected + 1, lastrej := BitVec.ofNat 64 reason }

/-- A record counted as applied (R335). -/
def acceptRecord (s : State) : State := s.modPart s.partNo fun p => { p with accepted := p.accepted + 1 }

/-- Why an insert is dropped, in the order of R303 and R335. -/
def insertFault (s : State) (r : Record) : Option Nat :=
  let busy := match s.request r.index with | some x => x.state ≠ 0 && x.state ≠ 5 | none => false
  let asid := r.asid.extractLsb' 0 14
  if r.gap ≠ 0 || r.flagen.toNat / 2 ≠ 0 || r.asid.toNat / 16384 ≠ 0 then some 2
  else if !s.asidInRange r.asid then some 3
  else if busy then some 4
  else if 8192 ≤ s.queued.length then some 5
  else if !(match s.namedObject asid r.tableh with | some x => 64 * (r.index.toNat + 1) ≤ x.2.length | none => false) then
    some 6
  else if r.flagen.toNat % 2 = 1 && !(match s.namedObject asid r.flagh with
      | some x => r.flagoff % 8 = 0 && r.flagoff + 8 ≤ x.2.length | none => false) then some 7
  else none

/-- The flag of an accepted insert: its object, its offset, and the threshold. -/
def insertFlag (s : State) (r : Record) : Option (Binding × Nat × Word) :=
  if r.flagen.toNat % 2 = 0 then none
  else (s.namedObject (r.asid.extractLsb' 0 14) r.flagh).map fun x => (x.1, r.flagoff, r.thresh)

/-- The flag of a request of the current partition has a value at or above its threshold, and its object lives (R303,
R305). Its bytes lie where the tables put them now. -/
def flagMet (s : State) (f : Binding × Nat × Word) : Bool :=
  let e := s.entry (f.1.space.entryAt f.1.index)
  !f.1.isGone e && match (s.heapRuns f.1.space e Want.load 9 f.2.1 8).1 with
    | some l => f.2.2.toNat ≤ if s.badIn l = [] then leNat (s.raw l) else 0
    | none => false

/-- The request of an accepted insert may run at once: it has no flag, or its flag is met (R305). -/
def readyAtOnce (s : State) (r : Record) : Bool :=
  match s.insertFlag r with
  | none => true
  | some f => s.flagMet f

/-- The request that an accepted insert makes, its table object bound (R303, R304). -/
def newRequest (s : State) (r : Record) (t : Binding) (ready : Bool) : Request :=
  { index := r.index, deadline := r.deadline, cost := r.cost, asid := r.asid.extractLsb' 0 14, space := t.space,
    flag := s.insertFlag r, table := t, tableh := r.tableh, order := (s.part s.partNo).inserted,
    state := if ready then 2 else 1, cancel := false, passes := 0, met := ready }

/-- A request put into the heap in the place of the one of its index (R303). -/
def addRequest (s : State) (q : Request) : State :=
  s.modPart s.partNo fun p =>
    { p with inserted := p.inserted + 1, requests := p.requests.filter (fun x => x.index ≠ q.index) ++ [q] }

/-- The CANCEL of an index's last request cleared in its entry, in a write of its own: the status word's STATE and CANCEL never
change together (R304). -/
def clearCancel (s : State) (q : Request) : State :=
  match s.request q.index with
  | some x => if x.cancel && x.table.index = q.table.index && x.table.space = q.table.space then s.changeRequest { x with cancel := false } else s
  | none => s

/-- An accepted insert: the request, its entry in the table, and then its status word (R303, R304). -/
def acceptInsert (s : State) (b : BitVec 512) (q : Request) : State :=
  (((s.clearCancel q).addRequest q).acceptRecord.writeTableObj q 0 (Record.entryBytes b)).writeTableObj q 56 (leBytes 8 (statusWord q))

/-- An insert record applied (R303 to R305). -/
def applyInsert (s : State) (b : BitVec 512) : State :=
  match s.insertFault (Record.ofBits b) with
  | some n => s.dropRecord n
  | none =>
    match s.namedObject ((Record.ofBits b).asid.extractLsb' 0 14) (Record.ofBits b).tableh with
    | none => s.dropRecord 6
    | some t => s.acceptInsert b (s.newRequest (Record.ofBits b) t.1 (s.readyAtOnce (Record.ofBits b)))

/-- Why a cancel or retire is dropped (R303). -/
def controlFault (s : State) (r : Record) : Option Nat :=
  if !s.asidInRange r.asid then some 3
  else
    match s.request r.index with
    | some x =>
      if 1 ≤ x.state ∧ x.state ≤ 4 then
        if r.asid.toNat ≠ x.asid.toNat then some 3 else if r.tableh ≠ x.tableh then some 6 else none
      else none
    | none => none

/-- A cancel of a request (R307). -/
def cancelRequest (s : State) (x : Request) : State :=
  if x.state = 1 ∨ x.state = 2 then s.changeRequest { x with state := 4 }
  else if x.state = 3 then s.changeRequest { x with cancel := true }
  else s

/-- A retire of a request (R307). -/
def retireRequest (s : State) (x : Request) : State :=
  if x.state = 3 ∨ x.state = 4 then s.changeRequest { x with state := 5 } else s

/-- A cancel or retire record applied (R303, R307). -/
def applyControl (s : State) (b : BitVec 512) (f : State → Request → State) : State :=
  let r := Record.ofBits b
  match s.controlFault r with
  | some n => s.dropRecord n
  | none =>
    let s := s.acceptRecord
    match s.request r.index with
    | some x => f s x
    | none => s

/-- The heap's aging threshold, if requests age (R285, R306). -/
def ageLimit (s : State) : Option Nat :=
  let a := bits (s.part s.partNo).partcfg.toNat 12 4
  if a = 15 then none else some (2 ^ a)

/-- The requests that an LSPOP may return (R157): none once the partition is quiesced (R353). -/
def qualified (s : State) (limit : Nat) : List Request :=
  let p := s.part s.partNo
  if p.state = 3 || p.quiescing then []
  else p.requests.filter fun x => x.state = 2 ∧ x.cost.toNat ≤ p.lsbudget.toNat ∧ (limit = 0 ∨ x.cost.toNat ≤ limit)

/-- A request has aged (R306). -/
def aged (s : State) (x : Request) : Bool := match s.ageLimit with | none => false | some n => n ≤ x.passes

/-- One request comes before another (R306, R157): aged ones first, in order of insertion, then by deadline. -/
def before (s : State) (x y : Request) : Bool :=
  if s.aged x then !s.aged y || x.order < y.order
  else !s.aged y && (x.deadline.toNat < y.deadline.toNat || (x.deadline = y.deadline && x.order < y.order))

/-- The request that comes first. -/
def firstOf (s : State) : List Request → Option Request
  | [] => none
  | x :: l => match firstOf s l with
    | none => some x
    | some y => if s.before y x then some y else some x

/-- A successful LSPOP (R157, R306, R308). -/
def popRequest (s : State) (d : BitVec 6) (x : Request) (l : List Request) : State :=
  let passed := (l.filter (·.index ≠ x.index)).map (·.index)
  let s := s.modPart s.partNo fun p =>
    { p with lsbudget := p.lsbudget - x.cost.zeroExtend 64,
             requests := p.requests.map fun y => if passed.contains y.index then { y with passes := y.passes + 1 } else y }
  (s.changeRequest { x with state := 3 }).wr d (0#16 ++ x.index ++ x.cost)

/-- A request handed back (R158, R306). -/
def pushRequest (s : State) (x : Request) : State :=
  let s := s.modPart s.partNo fun p =>
    { p with lsbudget := BitVec.ofNat 64 (min (2 ^ 32 - 1) (p.lsbudget.toNat + x.cost.toNat)) }
  s.changeRequest (if x.cancel then { x with state := 4 } else { x with state := 2, passes := 0 })

/-- Every waiting request's flag tested: a value at or above THRESH is not forgotten (R305). -/
def notifyHeap (s : State) (p : Nat) : State :=
  if (s.part p).requests.all fun x => x.state ≠ 1 then s
  else
    let now (f : Binding × Nat × Word) : Bool := (s.inPart p fun s => (s.flagMet f, s)).1
    s.modPart p fun q => { q with requests := q.requests.map fun x =>
      if x.state = 1 then { x with met := x.met || (match x.flag with | some f => now f | none => true) } else x }

/-- The watches and the flags of every partition tested (R42, R305). -/
def notifyAll (s : State) : State := (List.range 8).foldl notifyHeap s.notify

end State

/-- LSPOP (R157). -/
def execLspop (c : Bool) (d a : BitVec 6) (s : State) : Out :=
  s.onHart c fun s =>
    let l := s.qualified (s.rd a).toNat
    match s.firstOf l with
    | none => .next (s.wrInt d (-1)).adv
    | some x => .next (s.popRequest d x l).adv

/-- LSPUSH (R158): a release of both agents, so the hart's transfers are performed first. -/
def execLspush (c : Bool) (a : BitVec 6) (s : State) : Out :=
  s.onHart c fun s =>
    let x := s.request ((s.rd a).extractLsb' 32 16)
    s.legal (encode (.lspush c a)) [(!(match x with | some x => x.state = 3 | none => false), 10)] fun _ =>
      s.drained fun s =>
        match x with
        | some x => .next (s.pushRequest x).adv
        | none => .next s.adv

end Sys2Proof.Machine
end

