-- ==== Sys2Proof/Machine/EventsHeap.lean ====
section
/-!
DEFINITION. What happens to the heap, the messages, the page-ins and the pools between instructions: heap records
(R302 to R307, R335), eligibility (R305), host messages (R336), page-ins (R327, R328), reclaim (R325), and the end of an
image (R11).
-/

namespace Sys2Proof.Machine

open Eng

namespace State

/-- An effect on a partition, as if one of its contexts were the current one. -/
def atPart (s : State) (p : Nat) (f : State → State) : State := (s.inPart p fun s => ((), f s)).2

/-- A record applied by its OP, in a partition in service (R303, R307, R335). -/
def applyRecord (s : State) (r : BitVec 512) : State :=
  match (Record.ofBits r).op with
  | 0 => s.applyInsert r
  | 1 => s.applyControl r cancelRequest
  | 2 => s.applyControl r retireRequest
  | _ => s.dropRecord 2

/-- PF0 is presented on the links (R356, step 4), and the clocks run (R374): before, nothing of the host's arrives. -/
def presented (s : State) : Bool := !s.pkg.perst && s.pkg.clocks

/-- A write to the insert area (R335): dropped with reason 1 unless it is 64 bytes at a slot, with reason 8 where the
partition is not in service. -/
def heapWrite (s : State) (p size off : Nat) (r : BitVec 512) : State :=
  if !s.presented then s
  else s.atPart p fun s => s.noHart fun s =>
    if size ≠ 64 ∨ off % 64 ≠ 0 ∨ 4096 ≤ off then s.dropRecord 1
    else if (s.part s.partNo).state ≠ 2 then s.dropRecord 8
    else s.applyRecord r

/-- A request may become eligible (R305). -/
def eligible (s : State) (p : Nat) (i : BitVec 16) : Bool :=
  (s.part p).requests.any fun x => x.index = i && x.state = 1 && x.met

/-- A waiting request becomes eligible (R305). -/
def makeEligible (s : State) (i : BitVec 16) : State :=
  match s.request i with
  | some x => if x.state = 1 && x.met then s.changeRequest { x with state := 2 } else s
  | none => s

/-- A host message to a context (R336): it takes the place of one not yet delivered. -/
def deliverMessage (s : State) (p k : Nat) (payload : Word) : State :=
  let l := (s.hart k).intr
  if l.any fun x => x.1 = 1 then
    (s.modHart k fun h => { h with intr := l.map fun x => if x.1 = 1 then (1, payload) else x }).modPart p
      fun x => { x with msglost := x.msglost + 1 }
  else s.modHart k fun h => { h with intr := l ++ [(1, payload)] }

/-! ## Page-ins -/

/-- The page-in at the head of a tier port's queue. -/
def headPageIn (s : State) (port : Nat) : Option PageIn := (s.pkg.pageq.get [] port).head?

/-- The queue of a port with its head replaced, or gone. -/
def setHead (s : State) (port : Nat) (q : Option PageIn) : State :=
  let l := q.toList ++ (s.pkg.pageq.get [] port).drop 1
  { s with pkg := { s.pkg with pageq := s.pkg.pageq.set [] port l } }

/-- The blocks an image of some bytes takes of a pool (R327). -/
def imageBlocks (q : Pool) (size : Nat) : Nat := (size + q.bs - 1) / q.bs

/-- Blocks taken one at a time, as BALLOC takes them, up to a number. -/
def takeUpTo (pool : Nat) : Nat → List Nat → Eng (List Nat)
  | 0, l => return l
  | fuel + 1, l => do
    match ← takeBlock pool with
    | none => return l
    | some b => takeUpTo pool fuel (l ++ [b])

/-- Step 2 of R327: the entry, its table and the blocks that are free now. -/
def allocatePageIn (q : PageIn) : Eng PageIn := do
  let x ← Eng.expertVia q.space q.expert
  let pl ← Eng.pool x.pool
  let n := imageBlocks pl x.size
  let alloc ← (match q.alloc with
    | some a => return some a
    | none => do
      match ← freeIndex q.space with
      | none => return none
      | some i =>
        match ← arenaTake (tableBytes n) with
        | none => return none
        | some a => return some (i.toNat, a, []) : Eng (Option (Nat × Nat × List Nat)))
  match alloc with
  | none => return q
  | some (i, a, l) =>
    let l ← (if pl.en then takeUpTo x.pool (n - l.length) l else pure l : Eng (List Nat))
    return { q with alloc := some (i, a, l) }

/-- A page-in has its entry and all its blocks. -/
def pageInReady (s : State) (q : PageIn) : Bool :=
  let x := s.expert (q.space.expertAt q.expert)
  match q.alloc with
  | some (_, _, l) => imageBlocks (s.pool q.part x.pool) x.size ≤ l.length
  | none => false

/-- Something that a page-in still needs is free: PAGE_IN_ALLOCATE would change it. -/
def pageInCanTake (s : State) (q : PageIn) : Bool :=
  !s.pageInReady q && (match Eng.perigee s q.part (allocatePageIn q) with
    | (some r, _) => decide (r ≠ q)
    | (none, _) => true)

/-- The clusters of a partition and of those that share an ASID with it (R352). -/
def clustersFor (s : State) (p : Nat) (asid : BitVec 14) : List Nat :=
  (List.range 192).filter fun c => c / 24 = p || (s.sharers asid).contains (c / 24)

/-- The contexts that have tokens for an expert of an ASID, in a partition and in those that share it (R352). -/
def tokenHarts (s : State) (p e : Nat) (asid : BitVec 14) : List Nat :=
  dedup ((s.clustersFor p asid).flatMap fun c => (((s.clu c).tokens.filter fun t =>
    t.space.asid = asid ∧ t.expert = e).map (·.hart)))

/-- The tokens of a partition, and of those that share the ASID, for an expert changed, each kept or dropped. -/
def modTokens (s : State) (p e : Nat) (asid : BitVec 14) (f : Token → Option Token) : State :=
  ((s.clustersFor p asid).filter fun c => (s.clu c).tokens ≠ []).foldl (fun s c => s.modClu c fun x =>
    { x with tokens := x.tokens.filterMap fun t => if t.space.asid = asid ∧ t.expert = e then f t else some t }) s

/-- Step 4 of R327 on the tables: the copy lives, and the expert is resident or pinned. A port that the partition does not
name is a hole (R337), and the read of it fails. The slice that reads the tier is that of the partition's first stack (R348,
log 34). -/
def landPageIn (q : PageIn) (harts i a n : Nat) : Eng Unit := do
  let x ← Eng.expertVia q.space q.expert
  let pl ← Eng.pool x.pool
  let l := match q.alloc with | some (_, _, l) => l.take n | none => []
  writeTable a n x.pool 0 0 l
  let port := 16 + bits x.tier 52 3
  for k in List.range n do
    let m := min pl.bs (x.size - k * pl.bs)
    let src := x.tier + k * pl.bs
    let dst := pl.blockAt (l.getD k 0)
    let y ← get
    let ok := y.s.usesPort y.p (port - 16) && (List.range (m / 65536 + 2)).all fun j =>
      y.s.allowed (y.master + (y.s.stacksOf y.p).headD 0) port (bits (min (src + m - 1) (src + 65536 * j)) 16 40) Want.load
    if !ok then set { y with denied := some src }
    guard dst m Want.store
    onState fun s => s.copyTaint [(.phys src, m)] [(.phys dst, m)]
  let idx := BitVec.ofNat 24 i
  let e ← Eng.entry (q.space.entryAt idx)
  newEntry q.space idx true false 0 x.prio (harts + if x.pinarr then 1 else 0) 1 x.size a
  let y ← get
  Eng.write (q.space.entryAt idx + 56) 8 (y.s.time y.p)
  Eng.write (x.addr + 8) 8 (handleValue e.gen true idx).toNat
  setWord0 x.addr 0 3 (if x.pinarr then 3 else 2)

/-- What a page-in that fails gives back (R328). -/
def undoPageIn (q : PageIn) : Eng Unit := do
  let x ← Eng.expert (q.space.expertAt q.expert)
  match q.alloc with
  | none => pure ()
  | some (_, a, l) =>
    for b in l do decCount x.pool b
    arenaGive a
  setWord0 x.addr 0 2 0

/-- A failed tier read of the page-in at a port's head (R328): retried once; then given up. -/
def failPageIn (s : State) (port : Nat) (q : PageIn) : State :=
  if !q.retried then s.setHead port (some { q with retried := true })
  else
    let harts := s.tokenHarts q.part q.expert q.space.asid
    let s := s.setHead port none
    let s := match Eng.perigee s q.part (undoPageIn q) with | (_, s) => s
    let s := s.modTokens q.part q.expert q.space.asid fun _ => none
    harts.foldl (fun s k => s.modHart k fun h =>
      { h with intr := h.intr ++ [(2, failedExpert q.expert q.space.asid)] }) s

/-- The page-in at a port's head lands (R327), or fails where Perigee is denied (R350). -/
def land (s : State) (port : Nat) (q : PageIn) (i a n : Nat) : State :=
  let harts := (s.tokenHarts q.part q.expert q.space.asid).length
  match Eng.perigee s q.part (landPageIn q harts i a n) with
  | (none, s) => s.failPageIn port q
  | (some _, s) =>
    (s.setHead port none).modTokens q.part q.expert q.space.asid fun t => some { t with ready := some s.cycles }

/-! ## Reclaim -/

/-- An entry is a candidate of reclaim for a pool (R325). -/
def candidate (s : State) (p pool : Nat) (e : Entry) : Bool :=
  let t := s.btable e.tbl
  let q := s.pool p pool
  e.state = 1 && !e.keep && e.scount = 0 && 0 < e.wcount && e.blk && t.pool = pool &&
    (List.range t.entries).any fun n => match s.mapped t n with
      | some b => s.physNat (q.cnt + 4 * b) 4 = 1
      | none => false

/-- The candidates of a pool, as the order of R75 sorts them: PRIO, RSTAMP, ASID and index. -/
def candidates (s : State) (p pool : Nat) : List (Nat × Space × BitVec 24) :=
  (s.tablesOf p).flatMap fun sp => (List.range sp.htSize).filterMap fun i =>
    let e := s.entry (sp.htAddr + 64 * i)
    if s.candidate p pool e then
      some (((e.prio * 2 ^ 64 + e.rstamp) * 2 ^ 14 + sp.asid.toNat) * 2 ^ 24 + i, sp, BitVec.ofNat 24 i)
    else none

/-- A context has an access in flight that fills an object, or waits on bytes of a block that goes with it (R118): a read of
a transfer through a slot of it, or a VWAIT's watch. -/
def fillsFrom (s : State) (k : Nat) (a : Nat) (blocks : List (Nat × Nat)) : Bool :=
  let h := s.hart k
  ((h.life == .active || s.moves k) && h.xfers.any fun x =>
    !x.push && !x.stale && (x.ends.bind fun e => h.slots.get none e.1.toNat).any fun b => b.space.entryAt b.index = a) ||
  (h.life ≠ .saved && match h.park with
    | some (.vwait l) => l.any fun w => !w.met && w.locs.any fun x => match x with
      | .phys n => blocks.any fun b => b.1 ≤ n && n < b.1 + b.2
      | _ => false
    | _ => false)

/-- The blocks that an object's destruction would free, each with its bytes. -/
def ownBlocks (s : State) (p : Nat) (e : Entry) : List (Nat × Nat) :=
  let t := s.btable e.tbl
  let q := s.pool p t.pool
  if !e.blk then []
  else (List.range t.entries).filterMap fun n => (s.mapped t n).bind fun b =>
    if s.physNat (q.cnt + 4 * b) 4 = 1 then some (q.blockAt b, q.bs) else none

/-- An access of some hart, of any partition, is in flight to an object (R118). -/
def filling (s : State) (p : Nat) (sp : Space) (i : BitVec 24) : Bool :=
  let a := sp.entryAt i
  let blocks := s.ownBlocks p (s.entry a)
  s.liveCtxs.any fun k => s.fillsFrom k a blocks

/-- The candidate that reclaim takes next, once the accesses through its weak slots have drained (R118). -/
def nextCandidate (s : State) (p pool : Nat) : Option (Space × BitVec 24) :=
  if !(s.underReclaim p).contains pool then none
  else
    match s.candidates p pool with
    | [] => none
    | x :: l =>
      let b := l.foldl (fun a y => if y.1 < a.1 then y else a) x
      if s.filling p b.2.1 b.2.2 then none else some (b.2.1, b.2.2)

end State

/-- IMAGE_KEEP_CLEAR (R11, R322): after the last hart of the image has ended. -/
def execImageKeepClear (p : BitVec 3) (s : State) : Out :=
  if s.liveCtxs.any fun k => k / 384 = p.toNat then .next s
  else .next (((s.part p.toNat).image.foldl (fun s x => Eng.quiet s p.toNat do
      setWord0 (x.1.entryAt x.2) 44 1 0
      settle x.1 x.2) s).modPart p.toNat fun x => { x with image := [] })

/-- HEAP_INSERT (R303, R304, R335). -/
def execHeapInsert (p : BitVec 3) (size : Nat) (off : BitVec 12) (r : BitVec 512) (s : State) : Out :=
  .next (s.heapWrite p.toNat size off.toNat r)

/-- HEAP_CANCEL (R307): a record whose OP is 1. -/
def execHeapCancel (p : BitVec 3) (r : BitVec 512) (s : State) : Out :=
  .next (if (Record.ofBits r).op = 1 then s.heapWrite p.toNat 64 0 r else s)

/-- HEAP_RETIRE (R307): a record whose OP is 2. -/
def execHeapRetire (p : BitVec 3) (r : BitVec 512) (s : State) : Out :=
  .next (if (Record.ofBits r).op = 2 then s.heapWrite p.toNat 64 0 r else s)

/-- REQUEST_ELIGIBLE (R305). -/
def execRequestEligible (p : BitVec 3) (index : BitVec 16) (s : State) : Out :=
  .next (s.atPart p.toNat fun s => s.noHart fun s => s.makeEligible index)

/-- HOST_MESSAGE (R336). -/
def execHostMessage (p : BitVec 3) (m : BitVec 128) (s : State) : Out :=
  let hid := m.extractLsb' 0 20
  let cl := (m.extractLsb' 24 5).toNat
  let k := 384 * p.toNat + 16 * cl + (hid.extractLsb' 0 4).toNat
  .next (if !s.presented then s
    else if cl < 24 ∧ (s.hart k).life ≠ .free ∧ s.hidOf k = hid then s.deliverMessage p.toNat k (m.extractLsb' 64 64)
    else s.modPart p.toNat fun x => { x with msglost := x.msglost + 1 })

/-- PAGE_IN_ALLOCATE (R327, step 2). -/
def execPageInAllocate (port : BitVec 3) (s : State) : Out :=
  .next (match s.headPageIn port.toNat with
    | none => s
    | some q =>
      if s.pageInReady q then s
      else match Eng.perigee s q.part (State.allocatePageIn q) with
        | (some r, s) => s.setHead port.toNat (some r)
        | (none, s) => s.failPageIn port.toNat q)

/-- PAGE_IN_LAND (R327, step 4). -/
def execPageInLand (port : BitVec 3) (s : State) : Out :=
  .next (match s.headPageIn port.toNat with
    | none => s
    | some q =>
      match q.alloc with
      | some (i, a, l) => if s.pageInReady q then s.land port.toNat q i a l.length else s
      | none => s)

/-- TIER_READ_FAIL (R328). -/
def execTierReadFail (port : BitVec 3) (s : State) : Out :=
  .next (match s.headPageIn port.toNat with
    | none => s
    | some q => if s.pageInReady q then s.failPageIn port.toNat q else s)

/-- RECLAIM_DESTROY (R325, R76): one destruction. -/
def execReclaimDestroy (p : BitVec 3) (pool : BitVec 6) (s : State) : Out :=
  .next (match s.nextCandidate p.toNat pool.toNat with
    | none => s
    | some (sp, i) => Eng.quiet s p.toNat (destroy sp i))

end Sys2Proof.Machine
end

