-- ==== Sys2Proof/Machine/HartOps.lean ====
section
/-!
DEFINITION. Harts and gangs: HSPAWN, HEXIT, HWAIT, YIELD, GANG and GBAR (R23 to R26, R156). LSPOP and LSPUSH stand with
the heap.
-/

namespace Sys2Proof.Machine

/-- What a slot's copy holds: its own hold, and its expert's bind count (R23, R218). A slot that has no hold copies none. -/
def Eng.copySlot (b : Binding) : Eng Unit := do
  match b.expert with
  | none => pure ()
  | some e => Eng.bindCount b.space e true
  if b.hold then Eng.addHold b.space b.index b.weak

/-- The registers a spawned hart starts with (R23, R282); its life, generation and key are the allocator's. -/
def Hart.spawned (h : Hart) (target arg : Word) : Hart :=
  { Hart.reset with
    sup := h.sup, pc := target, s := Table.set 0 [] 1 arg, slots := h.slots, vtype := h.vtype,
    v := blankAll h.v, fcsr := h.fcsr &&& 0x700, exsplit := h.exsplit, utvec := h.utvec, uframe := h.uframe, stvec := h.stvec,
    sframe := h.sframe, space := h.space }

namespace State

/-- A context allocated to a hart: its generation moves on and its key is drawn (R21, R290). -/
def allocate (s : State) (k : Nat) (h : Hart) : State :=
  (s.modHart k fun old => { h with hgen := old.hgen + 1 }).drawKey k

/-- A new hart starts active where a slot is free, and standby-ready otherwise (R23). -/
def start (s : State) (k : Nat) : State :=
  match s.freeSlot (k / 16) k with
  | some n => s.takeSlot k n
  | none =>
    (s.modHart k fun h => { h with life := .standby }).modClu (k / 16) fun c => { c with ready := c.ready ++ [k] }

/-- The free contexts of the current cluster. -/
def freeCtxs (s : State) : List Nat := (ctxsOf s.clNo).filter fun k => (s.hart k).life = .free

/-- HSPAWN with a context to spare (R23); which of the free ones is the allocator's choice. -/
def spawn (s : State) (d : BitVec 6) (target arg : Word) : State :=
  let l := s.freeCtxs
  let (n, s) := s.pick l.length
  let k := l.getD n 0
  match Eng.bpe s (s.h.slots.forM fun x => match x.2 with | some b => Eng.copySlot b | none => pure ()) with
  | (none, s) => s
  | (some _, s) =>
    let s := (s.allocate k (s.h.spawned target arg)).start k
    s.wr d ((s.hidOf k).zeroExtend 64)

/-- The current hart parks past its instruction (R22). -/
def parkIn (s : State) (p : Park) : State := (s.mod fun h => { h with park := some p }).adv

/-- HWAIT's condition: the context is free, or its generation is another (R24). -/
def waitOver (s : State) (cl : Nat) (hid : BitVec 20) : Bool :=
  let h := s.hart (16 * cl + (hid.extractLsb' 0 4).toNat)
  h.life == .free || h.hgen != hid.extractLsb' 4 16

/-- YIELD with a ready hart waiting: the current hart goes to the tail of the queue and the head takes its slot (R24). -/
def yieldSlot (s : State) : State :=
  if (s.clu s.clNo).ready.isEmpty then s
  else
    ((s.mod fun h => { h with life := .standby }).modClu s.clNo fun c => { c with ready := c.ready ++ [s.cur] }).fillSlots
      s.clNo 16

/-- GANG (R25). -/
def moveGang (s : State) (g : BitVec 3) : State :=
  if g = s.h.gang then s
  else if g = 0 then s.leaveGang s.cur
  else (s.leaveGang s.cur).joinGang s.cur g

/-- GBAR by a member: it arrives and parks, and the barrier completes with the last (R26). -/
def arrive (s : State) : State :=
  let g := s.h.gang
  let s := (s.parkIn .gbar).modGang s.clNo g fun x => { x with arrived := x.arrived + 1 }
  let x := s.gangOf s.clNo g
  if x.arrived = x.members then s.completeBarrier s.clNo g else s

end State

/-- HSPAWN (R23). -/
def execHspawn (c : Bool) (d a : BitVec 6) (o : BitVec 10) (s : State) : Out :=
  s.onHart c fun s =>
    if s.freeCtxs.isEmpty then .next (s.wrInt d (-1)).adv
    else .next (s.spawn d (s.h.pc + (o.signExtend 64 <<< 2)) (s.rd a)).adv

/-- HEXIT (R24): the hart's transfers drain first. -/
def execHexit (c : Bool) (s : State) : Out :=
  s.onHart c fun s => if s.h.xfers ≠ [] then s.wait else .next (s.endHart s.cur)

/-- HWAIT (R24, R156). -/
def execHwait (c : Bool) (a : BitVec 6) (s : State) : Out :=
  s.onHart c fun s =>
    let hid := (s.rd a).extractLsb' 0 20
    if s.waitOver s.clNo hid then .next s.adv else .next (s.parkIn (.hwait hid))

/-- YIELD (R24). -/
def execYield (c : Bool) (s : State) : Out := s.onHart c fun s => .next s.adv.yieldSlot

/-- GANG (R25, R156). -/
def execGang (c : Bool) (a : BitVec 6) (s : State) : Out :=
  s.onHart c fun s =>
    s.legal (encode (.gang c a)) [(decide (7 < (s.rd a).toNat), 10)] fun _ =>
      .next (s.moveGang ((s.rd a).extractLsb' 0 3)).adv

/-- GBAR (R26): a release of both agents, so the hart's transfers are performed first (R105, R107). -/
def execGbar (c : Bool) (s : State) : Out :=
  s.onHart c fun s =>
    if s.h.xfers ≠ [] then s.wait
    else if s.h.gang = 0 then .next s.adv
    else .next s.arrive

end Sys2Proof.Machine
end

