-- ==== Sys2Proof/Machine/Preempt.lean ====
section
/-!
DEFINITION. Pre-emption to Saved, resume and the end of a Saved hart (R299, R320, R377), which PARTCFG's commands and the
host's partition commands share.
-/

namespace Sys2Proof.Machine

/-- A hart that restores a frame of kind 3 parks as it did (R301). What a Saved hart's HWAIT, GBAR, WFI or VSETVLG waits
for goes on being decided with the context; a VWAIT is the frame's (R208). DESIGN CHOICE: its locations are those found
when it was issued, and are not translated again (log 73). -/
def resumedPark (f : Frame) (h : Hart) : Option Park :=
  match f.park with
  | some (.vwait l) => some (.vwait l)
  | _ => h.park

/-- How a resume of a Saved hart ends. -/
inductive Resumed where
  | ok (s : State)
  | failed (t : Trap) (s : State)

namespace State

/-- The current hart, stopped between instructions, goes to Saved with a frame of kind 3 at SFRAME; where the frame cannot
be written, its supervisor takes code 11 at its next instruction (R299, R320). -/
def saveCur (s : State) : State :=
  match s.writeFrame 3 s.h.sframe s.h.pc s.h.startOf with
  | (.ok t, _) =>
    let t := t.mod fun h => { h with life := .saved, savePending := false, xfers := [], convoy := [], queue := [] }
    (t.modClu t.clNo fun c => { c with ready := c.ready.filter (· ≠ t.cur) }).fillSlots t.clNo 16
  | (.error page, t) => t.mod fun h => { h with savePending := false, frameFault := some page }

/-- Pre-emption of a context (R299). At supervisor level it takes effect at the next SRET, and so it does where a machine
check is pending, which is delivered first (R369). -/
def preempt (s : State) (k : Nat) : State :=
  let h := s.hart k
  if h.life = .free ∨ h.life = .saved then s
  else if h.sup || !h.checks.isEmpty then s.modHart k fun h => { h with savePending := true }
  else s.onCtx k saveCur

/-- Resume of a context (R299): nothing unless it is Saved; the trap of a frame that fails its seal, or that cannot be
read, is the writer's. -/
def resumeSaved (s : State) (k : Nat) : Resumed :=
  if (s.hart k).life ≠ .saved then .ok s
  else
    let t := s.switchTo k
    match t.readFrame [3] false t.h.sframe with
    | (.good f, t) =>
      let t := (t.restore f).mod fun h => { h with park := resumedPark f h }
      let t := if t.h.park.isSome then t.mod fun h => { h with life := .standby } else t.makeReady k
      .ok (t.switchTo s.cur)
    | (.bad, t) =>
      .failed { code := 12, val := t.h.sframe, vec := false, estart := 0 } (t.switchTo s.cur)
    | (.fault e p, t) => .failed (walkTrap false e (BitVec.ofNat 64 p) 0) (t.switchTo s.cur)

/-- The end of a Saved context (R299): nothing of it runs or drains, its transfers are abandoned with their permits, and
their flits are sent no more, so that their flags are never incremented. -/
def endSaved (s : State) (k : Nat) : State :=
  if (s.hart k).life = .saved then (s.dropFlits (k / 384) ((s.xfersOf k).map (·.tag))).endHart k else s

end State

end Sys2Proof.Machine
end

