-- ==== Sys2Proof/Machine/EventsSched.lean ====
section
/-!
DEFINITION. What happens to harts between instructions: standby switches and quanta (R298), wakes (R22, R24, R27, R42,
R171), traps and interrupts (R282, R283, R318, R369), the PARTCFG commands (R299), duty and gating (R294, R297), and
thermal limits (R374). An event that is not due changes nothing.
-/

namespace Sys2Proof.Machine

namespace State

/-- QUANTUM of a partition in cycles (R285, R298). -/
def quantum (s : State) (p : Nat) : Nat := bits (s.part p).partcfg.toNat 16 16 * 1024

/-- A context that can go on while the machine runs: active or standby. -/
def stands (s : State) (k : Nat) : Bool := (s.hart k).life = .active || (s.hart k).life = .standby

/-- An active hart switched out (R298): to standby, at the tail of the ready queue unless it is parked. -/
def switchOut (s : State) (k : Nat) : State :=
  let parked := (s.hart k).park.isSome
  let s := s.modHart k fun h => { h with life := .standby }
  let s := if parked then s else s.modClu (k / 16) fun c => { c with ready := c.ready ++ [k] }
  s.fillSlots (k / 16) 16

/-- The parked harts of a cluster that hold a slot another hart waits for (R298). -/
def switchable (s : State) (cl : Nat) : List Nat :=
  if (s.clu cl).ready.isEmpty then [] else (s.actives cl).filter fun k => (s.hart k).park.isSome

/-- A hart has run its quantum while others wait (R298). -/
def quantumOver (s : State) (k : Nat) : Bool :=
  (s.hart k).life = .active && (s.hart k).park.isNone && !(s.clu (k / 16)).ready.isEmpty &&
    s.quantum (k / 384) ≤ s.cycles - (s.hart k).since

/-- The grant a parked VSETVLG would return, if it may wake (R27). -/
def grantFor (s : State) (k : Nat) (mayPark : Bool) : Option State :=
  if !s.stands k then none
  else
    match (s.hart k).park with
    | some (.grant sd rows cols _) =>
      let t := s.switchTo k
      (t.setvlg sd rows cols mayPark).map fun t => t.switchTo s.cur
    | _ => none

/-- A parked VSETVLG has waited for a quantum (R27). -/
def grantLate (s : State) (k : Nat) : Bool :=
  match (s.hart k).park with
  | some (.grant _ _ _ since) => s.stands k && s.quantum (k / 384) ≤ s.cycles - since
  | _ => false

/-- Every element of a parked VWAIT has been satisfied (R42). -/
def waitMet (s : State) (k : Nat) : Bool :=
  match (s.hart k).park with
  | some (.vwait l) => s.stands k && l.all (·.met)
  | _ => false

/-- A parked HWAIT's target is free or another hart (R24). -/
def hwaitMet (s : State) (k : Nat) : Bool :=
  match (s.hart k).park with
  | some (.hwait hid) => s.waitOver (k / 16) hid
  | _ => false

/-- A context is parked in WFI. It may wake at any time (R171). -/
def wfiParked (s : State) (k : Nat) : Bool := (s.hart k).park == some .wfi

/-- A context can take a trap: it is active and runs. -/
def ready (s : State) (k : Nat) : Bool := (s.hart k).life = .active && (s.hart k).park.isNone

/-- A context takes an interrupt: one is pending and it is at user level (R282). With no handler its transfers drain
first (R376). -/
def interruptible (s : State) (k : Nat) : Bool :=
  let h := s.hart k
  s.ready k && !h.sup && !h.intr.isEmpty && !(h.stvec = 0 && !h.xfers.isEmpty)

/-- The interrupt at the head of the current hart's pending ones taken (R282, R283). -/
def takeInterrupt (s : State) : State :=
  match s.h.intr with
  | [] => s
  | (code, val) :: l =>
    (s.mod fun h => { h with intr := l }).supTrap true (BitVec.ofNat 8 code) val s.h.pc s.h.startOf

/-- A list without its first element equal to one. -/
def dropFirst {α : Type} [DecidableEq α] (x : α) : List α → List α
  | [] => []
  | y :: l => if y = x then l else y :: dropFirst x l

/-- The machine check of the current hart that an event names, of those pending; at supervisor level, of those met there. -/
def checkOf (s : State) (source : BitVec 8) (addr : BitVec 56) (elem : Word) : Option (Bool × BitVec 8 × BitVec 56 × Word × Option Nat) :=
  s.h.checks.find? fun x => (x.1 || !s.h.sup) && x.2.1 = source && x.2.2.1 = addr && x.2.2.2.1 = elem

/-- The master whose access met an error (R371): the slice of an engine that worked for the hart, else the hart's cluster;
of an operation that was denied, the slice of the Block Pool Engine at the address (R348). -/
def checkMaster (s : State) (source : BitVec 8) (addr : BitVec 56) (elem : Word) : Nat :=
  match (s.checkOf source addr elem).bind (·.2.2.2.2) with
  | some m => m
  | none => if source = 8 then 0x100 + (targetOf addr.toNat).getD 0 else s.clNo

/-- A machine check delivered to the current hart (R369 to R371): it is logged, and pends no more. -/
def checkTaken (s : State) (source : BitVec 8) (addr : BitVec 56) (elem : Word) : State :=
  let hid := (s.hidOf s.cur).zeroExtend 32
  let master := s.checkMaster source addr elem
  let s := match s.checkOf source addr elem with
    | some x => s.mod fun h => { h with checks := dropFirst x h.checks }
    | none => s
  (s.logRecord s.partNo source 1 master hid (addr.zeroExtend 64) elem).supTrap false 13 (source ++ addr) s.h.pc s.h.startOf

/-- The machine check of a context that is delivered next (R369): those met at user level wait for SRET. -/
def nextCheck (s : State) (k : Nat) : Option (Bool × BitVec 8 × BitVec 56 × Word × Option Nat) :=
  let h := s.hart k
  if !s.ready k || (h.stvec = 0 && !h.xfers.isEmpty) then none
  else if h.sup then h.checks.find? fun x => x.1 else h.checks.head?

/-- The lane groups that a grant of an active context holds include one (R296). -/
def holdsGroup (s : State) (k g : Nat) : Bool := (s.hart k).granted && (s.hart k).groups.contains g

/-- A lane group of a cluster that a grant in force holds (R296). -/
def groupHeld (s : State) (cl g : Nat) : Bool := (s.actives cl).any fun k => s.holdsGroup k g

/-- The duty after a window (R294). -/
def nextDuty (x : Part) (watts : Nat) : Nat :=
  let cap := bits x.pcap.toNat 0 16
  if x.hot then 4
  else if bits x.pcap.toNat 16 1 = 0 then 16
  else if cap < watts then max 4 (x.duty - 1)
  else if watts * 100 < 95 * cap then min 16 (x.duty + 1)
  else x.duty

end State

/-- STANDBY_SWITCH (R298): a parked hart's slot goes to the head of the queue; of several, which is free. -/
def execStandbySwitch (cl : BitVec 8) (s : State) : Out :=
  match s.switchable cl.toNat with
  | [] => .next s
  | l =>
    let (n, s) := s.pick l.length
    .next (s.switchOut (l.getD n 0))

/-- QUANTUM_EXPIRY (R298). -/
def execQuantumExpiry (k : BitVec 12) (s : State) : Out :=
  .next (if s.quantumOver k.toNat then s.switchOut k.toNat else s)

/-- VSETVLG_WAKE (R27). -/
def execVsetvlgWake (k : BitVec 12) (s : State) : Out :=
  .next (match s.grantFor k.toNat true with | some t => t.wake k.toNat | none => s)

/-- VSETVLG_TIMEOUT (R27). -/
def execVsetvlgTimeout (k : BitVec 12) (s : State) : Out :=
  .next (if s.grantLate k.toNat then
    match s.grantFor k.toNat false with | some t => t.wake k.toNat | none => s else s)

/-- VWAIT_WAKE (R42): an acquire at its scope. -/
def execVwaitWake (k : BitVec 12) (s : State) : Out := .next (if s.waitMet k.toNat then s.wake k.toNat else s)

/-- HWAIT_WAKE (R24). -/
def execHwaitWake (k : BitVec 12) (s : State) : Out := .next (if s.hwaitMet k.toNat then s.wake k.toNat else s)

/-- WFI_WAKE (R171). -/
def execWfiWake (k : BitVec 12) (s : State) : Out := .next (if s.wfiParked k.toNat then s.wake k.toNat else s)

/-- INTERRUPT_TAKEN (R282). -/
def execInterruptTaken (k : BitVec 12) (s : State) : Out :=
  .next (if s.interruptible k.toNat then s.onCtx k.toNat State.takeInterrupt else s)

/-- TRAP_TO_SUPERVISOR (R283, R284, R376), by the current hart, from where it stands. -/
def execTrapToSupervisor (int : Bool) (code : BitVec 8) (val : Word) (s : State) : Out :=
  if !s.ready s.cur || (int && s.h.sup) then .next s
  else if s.h.stvec = 0 ∧ s.h.xfers ≠ [] then s.wait
  else .next ((s.mod fun h => { h with frameFault := none }).supTrap int code val s.h.pc s.h.startOf)

/-- MACHINE_CHECK (R369 to R371). -/
def execMachineCheck (k : BitVec 12) (source : BitVec 8) (addr : BitVec 56) (elem : Word) (s : State) : Out :=
  let h := s.hart k.toNat
  .next (if s.ready k.toNat && !(h.stvec = 0 && !h.xfers.isEmpty) then
    s.onCtx k.toNat fun s => s.checkTaken source addr elem else s)

/-- PREEMPT_TO_SAVED (R299). A pending machine check is delivered first (R369). -/
def execPreemptToSaved (k : BitVec 12) (s : State) : Out := .next (s.preempt k.toNat)

/-- PARTCFG_RESUME (R299): a frame that fails leaves the target Saved. -/
def execPartcfgResume (k : BitVec 12) (s : State) : Out :=
  .next (match s.resumeSaved k.toNat with | .ok s => s | .failed _ s => s)

/-- END_SAVED (R299). -/
def execEndSaved (k : BitVec 12) (s : State) : Out := .next (s.endSaved k.toNat)

/-- POWER_WINDOW (R294): the power measured in the window is an input. -/
def execPowerWindow (p : BitVec 3) (watts : BitVec 32) (s : State) : Out :=
  .next (s.modPart p.toNat fun x => { x with duty := State.nextDuty x watts.toNat })

/-- LANE_CLOCK_GATE (R297). -/
def execLaneClockGate (cl : BitVec 8) (g : BitVec 3) (s : State) : Out :=
  .next (if s.groupHeld cl.toNat g.toNat then s
    else s.modClu cl.toNat fun c =>
      { c with gates := if c.gates.get .on g.toNat = .on then c.gates.set .on g.toNat .clockGated else c.gates })

/-- LANE_POWER_GATE (R297). -/
def execLanePowerGate (cl : BitVec 8) (g : BitVec 3) (s : State) : Out :=
  .next (if s.groupHeld cl.toNat g.toNat then s
    else s.modClu cl.toNat fun c => { c with gates := c.gates.set .on g.toNat .powerGated })

/-- THERMAL_THROTTLE (R374). -/
def execThermalThrottle (p : BitVec 3) (s : State) : Out :=
  .next (s.modPart p.toNat fun x => { x with hot := true, duty := 4 })

/-- THERMAL_RECOVER (R374): the duty is the power cap's again. -/
def execThermalRecover (p : BitVec 3) (s : State) : Out :=
  .next (s.modPart p.toNat fun x => { x with hot := false, duty := if bits x.pcap.toNat 16 1 = 0 then 16 else x.duty })

end Sys2Proof.Machine
end

