-- ==== Sys2Proof/Machine/Stream.lean ====
section
/-!
DEFINITION. Stream parameter blocks (R91, R92), for VLD in stream mode and the stream ends of engine transfers.
-/

namespace Sys2Proof.Machine

/-- A stream parameter block (R91). -/
structure Spb where
  first : Nat
  count : Nat
  rowstride : Nat
  headstride : Nat
  head : Nat
  rbytes : Nat
  rowspb : Nat
  slot : BitVec 4
  deriving DecidableEq, Repr

/-- The fields of the 32 bytes of a block. -/
def Spb.ofBytes (l : List Byte) : Spb :=
  let n (i k : Nat) : Nat := leNat ((l.drop i).take k)
  { first := n 0 4, count := n 4 4, rowstride := n 8 4, headstride := n 12 4, head := n 16 2, rbytes := n 18 2,
    rowspb := n 20 2, slot := BitVec.ofNat 4 (n 22 1) }

/-- What R91 takes for illegal in a block's bytes, for elements of `z` bytes: RBYTES is 1 to 65,535. -/
def Spb.bad (l : List Byte) (z : Nat) : Bool :=
  let x := Spb.ofBytes l
  (l.drop 23).any (· ≠ 0) || leNat ((l.drop 22).take 1) / 16 ≠ 0 || x.rowspb = 0 || x.rbytes = 0 || x.rbytes % z ≠ 0

/-- How many elements of `z` bytes a stream has. -/
def Spb.elems (x : Spb) (z : Nat) : Nat := x.count * (x.rbytes / z)

/-- The offset of stream element k in the object of an entry (R92); below 0 where the element leaves its block, which
fails check 4 with code 0. `bs` is the block size of a paged object. -/
def Spb.offset (x : Spb) (e : Entry) (bs z k : Nat) : Int :=
  let per := x.rbytes / z
  let r := x.first + k / per
  let byte := x.head * x.headstride + r % x.rowspb * x.rowstride + k % per * z
  let blk := r / x.rowspb
  if e.paged then (if bs < byte + z then -1 else (blk * bs + byte : Nat)) else (blk * x.rowspb * x.rowstride + byte : Nat)

/-- The answer of reading a block: its fields and its bytes. -/
inductive SpbRead where
  | ok (x : Spb) (b : List Byte)
  | gone
  | trap (t : Trap)

namespace State

/-- The block size of the object of an entry. -/
def blockSize (s : State) (e : Entry) : Nat := (s.pool s.partNo (s.btable e.tbl).pool).bs

/-- The block at an offset of a slot as memory holds it (R91): checks 1, 2 and 4 of R74, then ILLSPB, sub-cause 9, which is
raised as an imprecise trap (R139). DESIGN CHOICE: where the object is paged and the block's own block is unmapped, the
trap of check 5 is raised, after those of ILLSPB's tests that need no bytes (log 68). -/
def fetchSpb (s : State) (word : BitVec 32) (h : BitVec 4) (off : Int) (z : Nat) : SpbRead × State :=
  match s.slot h with
  | none => (.trap ((Failed.unbound.trap true h).of word), s)
  | some b =>
    let (e, s) := s.view b
    let x : Elem := { idx := 0, off := off, len := 32 }
    if b.isGone e then (.gone, s)
    else if !inBounds e x then (.trap (((Failed.bounds 0).trap true h).of word), s)
    else if !(e.space = 0 || e.space = 2) || (alignBase e + off.toNat) % 32 ≠ 0 then (.trap ((illTrap 9 word).of word), s)
    else
      let s := s.meetChecks e .vld [x]
      match if e.paged then pagedChecks s e .vld [x] else none with
      | some f => (.trap ((f.trap true h).of word), s)
      | none =>
        match ({ sp := b.space, user := s.user, use := .vld, ent := e } : Place).elem x [] s with
        | (_, some (w, v), _, s) => (.trap ((walkTrap true w v 0).of word), s)
        | (l, none, _, s) =>
          let (b, s) := s.load l 0
          if Spb.bad b z then (.trap ((illTrap 9 word).of word), s) else (.ok (Spb.ofBytes b) b, s)

/-- The block that an instruction reads `i`-th: a restart uses the one it read when it issued (R203, R220). -/
def readSpb (s : State) (word : BitVec 32) (i : Nat) (h : BitVec 4) (off : Int) (z : Nat) : SpbRead × State :=
  match s.h.restart.blocks[i]? with
  | some b => (.ok (Spb.ofBytes b) b, s)
  | none => s.fetchSpb word h off z

end State

end Sys2Proof.Machine
end

