-- ==== Sys2Proof/Machine/VecMem.lean ====
section
/-!
DEFINITION. Vector loads and stores (R199 to R204): the units that move, their addresses, faults and restart.
-/

namespace Sys2Proof.Machine

/-- The bytes of a unit that moves: an element, or a block's (R200). -/
def Ty.unitBytes (t : Ty) : Nat := if t.blocked then t.blockBytes else t.width / 8

/-- Whole blocks move: qW in every mode, bit-sliced tags but in MODE 0 (R200). -/
def Ty.wholeBlocks (t : Ty) (mode : Nat) : Bool := t.isQ || (t.blocked && mode != 0)

/-- An element's bits taken from the slice words of its block (R46). -/
def sliceBits (w i : Nat) (block : Nat) : Nat :=
  (List.range w).foldl (fun a k => a + bits block (64 * k + i % 64) 1 <<< k) 0

/-- A register's bits with a unit's bytes moved in (R201); `i` is the unit's first element. -/
def unitIn (t : Ty) (mode r i v : Nat) : Nat :=
  if t.wholeBlocks mode then putBits r (i / 64 * (8 * t.unitBytes)) (8 * t.unitBytes) v
  else t.set r i (if t.blocked then sliceBits t.width i v else v)

/-- The bytes of a unit that a store moves out, but for a bit-sliced element. -/
def unitOut (t : Ty) (mode r i : Nat) : List Byte :=
  leBytes t.unitBytes (if t.wholeBlocks mode then bits r (i / 64 * (8 * t.unitBytes)) (8 * t.unitBytes) else t.get r i)

namespace State

/-- The units of a vector access in modes 0 to 4 with their byte offsets (R200): active elements under DM, or active
blocks, each known by its first element. -/
def units (s : State) (t : Ty) (mode : Nat) (a x : BitVec 6) : List Elem :=
  let n := t.unitBytes
  let so := (s.rd a).toInt
  let whole := t.wholeBlocks mode
  let ids := if whole then ((List.range ((s.g + 63) / 64)).map (64 * ·)).filter (s.maskBit s.dm) else s.active s.dm
  ids.map fun (i : Nat) =>
    let p : Nat := if t.blocked then i / 64 else i
    let off : Int :=
      match mode with
      | 0 => p * n
      | 1 => p * (s.rd x).toInt
      | 4 => ((i / s.h.vlc : Nat) : Int) * (s.rd x).toInt + ((i % s.h.vlc * n : Nat) : Int)
      | _ => ((s.vreg x.toNat).num i).1.toInt
    { idx := i, off := so + off, len := n }

/-- The units that are still to move, and so to check: on a restart those at ESTART and above (R204, log 53). -/
def fromStart (s : State) (l : List Elem) : List Elem := if s.h.resuming then l.filter (s.h.estart ≤ ·.idx) else l

/-- The restart is over: ESTART names no unfinished instruction any more. -/
def endResume (s : State) : State :=
  s.mod fun h => { h with resuming := false, restart := Restart.none, estart := if h.resuming then 0 else h.estart }

/-- ESTART of a fault at an element: the first of its element group (R319). A stream counts elements (R204). -/
def groupStart (s : State) (i : Nat) : Nat :=
  let lg := max 1 s.h.lg
  max (if s.h.resuming then s.h.estart else 0) (i / lg * lg)

/-- A VLD through a gone weak slot (R77): VD stays, DM loses the bits of the active elements, HSTAT.GONE is set. -/
def goneLoad (s : State) : State :=
  let clear := (s.active s.dm).foldl (fun a i => putBits a i 1 0) (s.h.m.get 0 s.dm)
  ((s.setMask s.dm clear).mod fun h => { h with gone := true }).endResume

/-- Units loaded into a register's bits. -/
def loadUnits (s : State) (t : Ty) (mode r : Nat) (l : List (Elem × List Piece)) : Nat × State :=
  l.foldl (fun a x =>
    let (b, s) := a.2.load x.2 x.1.idx
    (unitIn t mode a.1 x.1.idx (leNat b), s)) (r, s)

/-- A VLD of the units found through a place (R201, R204); `blocks` are the parameter blocks a restart goes on with. -/
def loadAll (s : State) (word : BitVec 32) (t : Ty) (mode d : Nat) (p : Place) (l : List Elem)
    (blocks : List (List Byte)) : Out :=
  let (found, fail, _, s) := (p.inMode mode).elems l [] s
  match fail with
  | none =>
    let (r, s) := s.loadUnits t mode (s.vreg d).bits found
    .next ((s.putVec d r VReg.reset).endResume.adv)
  | some (x, _, e, v) =>
    let start := if mode = 5 then x.idx else s.groupStart x.idx
    let (r, s) := s.loadUnits t mode (s.vreg d).bits (found.filter (·.1.idx < start))
    ((s.putVec d r (s.vreg d)).mod fun h => { h with restart := { Restart.none with blocks := blocks } }).raise
      ((walkTrap true e v start).of word)

/-! ## Stores -/

/-- The bits of some elements merged into the slice words of their block (R201): each word in one atomic step, its other
bits kept. A word that holds an error takes a merge only where every bit of it is replaced (R368). -/
def mergeBlock (s : State) (t : Ty) (r : Nat) (runs : List Piece) (els : List Nat) : State :=
  let mask := els.foldl (fun a i => a ||| 1 <<< (i % 64)) 0
  (List.range t.width).foldl (fun s k =>
    let w := subRuns runs (8 * k) 8
    match s.badIn w with
    | b :: _ =>
      if mask = 2 ^ 64 - 1 then s.store w (leBytes 8 (els.foldl (fun a i => putBits a (i % 64) 1 (bits (t.get r i) k 1)) 0)) 0
      else s.meet b (els.headD 0)
    | [] =>
      let old := leNat (s.raw w)
      s.putAll w (leBytes 8 (els.foldl (fun a i => putBits a (i % 64) 1 (bits (t.get r i) k 1)) old))) s

/-- Units stored, the later ones last (R202). A word with an error that they cover whole between them is repaired (R368). -/
def storeUnits (s : State) (t : Ty) (mode r : Nat) (l : List (Elem × List Piece)) : State :=
  if t.blocked && !t.wholeBlocks mode then
    (dedup (l.map fun x => x.1.idx / 64)).foldl (fun s b =>
      let els := l.filter fun x => x.1.idx / 64 = b
      s.mergeBlock t r ((els.map (·.2)).headD []) (els.map (·.1.idx))) s
  else l.foldl (fun s x => s.store x.2 (unitOut t mode r x.1.idx) x.1.idx) (s.repair (l.flatMap fun x => bytesOf x.2))

/-- What is written in one piece (R108): its places, its bytes and the element it is of. -/
structure Atom where
  runs : List Piece
  bytes : List Byte
  elem : Nat
  deriving DecidableEq, Repr

/-- Whether a unit is aligned as an unordered scatter needs it to be untorn (R108, R109): naturally, or on 8 bytes where it
is wider. -/
def aligned (base : Nat) (x : Elem) : Bool := (base + x.off.toNat) % min 8 x.len = 0

/-- The pieces of a unit (R108): an aligned one is one piece, or its 8-byte pieces, a misaligned one its bytes. -/
def atomsOf (base : Nat) (x : Elem × List Piece) (b : List Byte) : List Atom :=
  let k := if aligned base x.1 then min 8 x.1.len else 1
  (List.range (x.1.len / k)).map fun i =>
    { runs := subRuns x.2 (k * i) k, bytes := (b.drop (k * i)).take k, elem := x.1.idx }

/-- The writers of each place that its value may come from (R109): one of them, drawn. -/
def drawWriters (s : State) : List Atom → Nat → List Atom × State
  | _, 0 => ([], s)
  | [], _ => ([], s)
  | x :: l, fuel + 1 =>
    let same := l.filter fun y => y.runs = x.runs
    let (n, s) := s.pick (same.length + 1)
    let (r, s) := drawWriters s (l.filter fun y => y.runs ≠ x.runs) fuel
    ((x :: same).getD n x :: r, s)

/-- Bytes that pieces of several places reach, where a misaligned unit overlaps others: each takes the byte of one of them,
drawn (R109). -/
def drawBytes (s : State) (l : List Atom) : State :=
  let all := l.flatMap fun x => (bytesOf x.runs).zip x.bytes
  (dedup (all.map (·.1))).foldl (fun s b =>
    let ways := all.filter fun y => y.1 = b
    if ways.length ≤ 1 || s.bad.contains b.word then s
    else
      let (n, s) := s.pick ways.length
      s.putRaw b [(ways.getD n (b, 0)).2]) s

/-- An unordered scatter (R109). -/
def scatterAny (s : State) (t : Ty) (mode r : Nat) (p : Place) (l : List (Elem × List Piece)) : State :=
  let base := alignBase p.ent
  let all := l.flatMap fun x => atomsOf base x (unitOut t mode r x.1.idx)
  let (w, s) := (s.repair (l.flatMap fun x => bytesOf x.2)).drawWriters all all.length
  let s := w.foldl (fun s x => s.store x.runs x.bytes x.elem) s
  if l.all fun x => aligned base x.1 then s else s.drawBytes w

/-- A VST of the units found through a place (R201, R202, R204): on a fault, those at ESTART and above may have been
performed; how many of them is drawn. -/
def storeAll (s : State) (word : BitVec 32) (t : Ty) (mode d : Nat) (p : Place) (l : List Elem) : Out :=
  let r := (s.vreg d).bits
  let put (s : State) (x : List (Elem × List Piece)) : State :=
    if mode = 3 then s.scatterAny t mode r p x else s.storeUnits t mode r x
  let (found, fail, _, s) := (p.inMode mode).elems l [] s
  match fail with
  | none => .next ((put s found).endResume.adv)
  | some (x, _, e, v) =>
    let start := s.groupStart x.idx
    let below := found.filter (·.1.idx < start)
    let (n, s) := s.pick (found.length - below.length + 1)
    (put s (found.take (below.length + n))).raise ((walkTrap true e v start).of word)

/-- A VLD in stream mode (R203). -/
def streamLoad (s : State) (word : BitVec 32) (t : Ty) (d : Nat) (h : BitVec 4) (a : BitVec 6) : Out :=
  let z := t.unitBytes
  match s.readSpb word 0 h (s.rd a).toInt z with
  | (.trap x, s) => s.raise x
  | (.gone, s) => .next s.goneLoad.adv
  | (.ok b bytes, s) =>
    let els (s : State) (e : Entry) : List Elem :=
      s.fromStart (((s.active s.dm).filter (· < b.elems z)).map fun k =>
        { idx := k, off := b.offset e (s.blockSize e) z k, len := z })
    match s.reachBy b.slot .vld true els with
    | (.trap x, _, s) => s.raise (x.of word)
    | (.gone, _, s) => .next s.goneLoad.adv
    | (.ok p, l, s) => s.loadAll word t 5 d p l [bytes]

/-- What makes a VLD or VST illegal by its tags: the index vector's, and block tags in MODES 4 and 5 (R199, R200). -/
def badMem (s : State) (d x mode : Nat) : Illegal :=
  { tag := ((mode = 2 || mode = 3) && !(s.vreg x).ty.isWide) || (4 ≤ mode && (s.vreg d).ty.blocked) }

/-- The registers that a VLD or VST names. -/
def memRegs (d x mode : Nat) : List Nat := if mode = 2 ∨ mode = 3 then [d, x] else [d]

end State

/-- VLD (R199 to R204). -/
def execVld (c : Bool) (d : BitVec 6) (h : BitVec 4) (a x : BitVec 6) (o : BitVec 3) (s : State) : Out :=
  let (n, m, mode) := (d.toNat, x.toNat, o.toNat)
  let word := encode (.vld c d h a x o)
  s.vector c .ld word (State.memRegs n m mode) (fun s => s.badMem n m mode) fun s =>
    let t := (s.vreg n).ty
    if mode = 5 then s.streamLoad word t n h a
    else
      let l := s.fromStart (s.units t mode a x)
      match s.reach h .vld true l with
      | (.trap y, s) => s.raise (y.of word)
      | (.gone, s) => .next s.goneLoad.adv
      | (.ok p, s) => s.loadAll word t mode n p l []

/-- VST (R199 to R204). -/
def execVst (c : Bool) (d : BitVec 6) (h : BitVec 4) (a x : BitVec 6) (o : BitVec 3) (s : State) : Out :=
  let (n, m, mode) := (d.toNat, x.toNat, o.toNat)
  let word := encode (.vst c d h a x o)
  s.vector c .st word (State.memRegs n m mode) (fun s => s.badMem n m mode) fun s =>
    let t := (s.vreg n).ty
    let l := s.fromStart (s.units t mode a x)
    match s.reach h .store true l with
    | (.trap y, s) => s.raise (y.of word)
    | (.gone, s) => s.raise ((Failed.gone.trap true h).of word)
    | (.ok p, s) => s.storeAll word t mode n p l

end Sys2Proof.Machine
end

