-- ==== Sys2Proof/Machine/XEng.lean ====
section
/-!
DEFINITION. Engine transfers: XCOPY, XPUSH, XFILL and VPREF (R220 to R225, R132), with their restart, overlap and
staging, and the issue of transfers over the fabric (R341 to R345).

A transfer within the package moves in one step. One with a remote end becomes a record of the hart, which the fabric's
events move.
-/

namespace Sys2Proof.Machine

/-- One end of a transfer: the slot of its object, and the parameter block of a stream end or the offset of a linear one
(R220). -/
structure Side where
  slot : BitVec 4
  stream : Option Spb
  off : Int
  deriving DecidableEq, Repr

/-- The bytes an end has (R220). -/
def Side.limit (x : Side) (g : Nat) : Nat := match x.stream with | some b => min g (b.elems 1) | none => g

/-- The bytes of an end as elements (R220, R92). -/
def Side.elems (x : Side) (n : Nat) (s : State) (e : Entry) : List Elem :=
  let bs := s.blockSize e
  (List.range n).map fun k =>
    { idx := k, off := (match x.stream with | some b => b.offset e bs 1 k | none => x.off + k), len := 1 }

/-- A transfer whose checks have passed. -/
structure Move where
  src : Place
  sl : List Elem
  dst : Place
  dl : List Elem
  linear : Bool
  blocks : List (List Byte)

namespace Move

/-- The bytes that move. -/
def n (m : Move) : Nat := m.dl.length

/-- The positions of the source's bytes. -/
def srcKeys (m : Move) (cl : Nat) : List ((Nat × Nat) × Int) := m.sl.map (m.src.key cl)
/-- The positions of the destination's bytes. -/
def dstKeys (m : Move) (cl : Nat) : List ((Nat × Nat) × Int) := m.dl.map (m.dst.key cl)

/-- The source bytes that a write of the transfer overwrites (R221). -/
def shared (m : Move) (cl : Nat) : List Nat :=
  match m.srcKeys cl, m.dstKeys cl with
  | a :: l, b :: r =>
    if a.1 ≠ b.1 then []
    else if m.linear ∧ (a.2 + m.n ≤ b.2 ∨ b.2 + m.n ≤ a.2) then []
    else ((List.range m.n).zip (a :: l)).filterMap fun x => if (b :: r).contains x.2 then some x.1 else none
  | _, _ => []

/-- The move order of two linear ends that overlap: descending unless the destination starts below the source (R221). -/
def descends (m : Move) (cl : Nat) : Bool :=
  m.linear && !(m.shared cl).isEmpty &&
    match m.srcKeys cl, m.dstKeys cl with
    | a :: _, b :: _ => decide (a.2 ≤ b.2)
    | _, _ => false

end Move

namespace State

/-- An end of a transfer: a stream end's block is read at issue; a gone slot of it is strong-only (R91). -/
def side (s : State) (word : BitVec 32) (stream : Bool) (i : Nat) (h : BitVec 4) (a : BitVec 6) :
    Except Trap (Side × List (List Byte)) × State :=
  if !stream then (.ok ({ slot := h, stream := none, off := (s.rd a).toInt }, []), s)
  else
    match s.readSpb word i h (s.rd a).toInt 1 with
    | (.ok b l, s) => (.ok ({ slot := b.slot, stream := some b, off := 0 }, [l]), s)
    | (.gone, s) => (.error (Failed.gone.trap true h), s)
    | (.trap t, s) => (.error t, s)

/-- Both ends of a transfer, the source's block read first (R220): of each its slot and place, and the blocks read. -/
def sides (s : State) (word : BitVec 32) (src dst : Bool) (h g : BitVec 4) (d a : BitVec 6) :
    Except Trap (Side × Side × List (List Byte)) × State :=
  match s.side word src 0 g a with
  | (.error t, s) => (.error t, s)
  | (.ok (x, bx), s) =>
    match s.side word dst bx.length h d with
    | (.error t, s) => (.error t, s)
    | (.ok (y, b), s) => (.ok (x, y, bx ++ b), s)

/-- The checks of R74 over both ends, in the order of R221: of two failures the one of lower order, or the source's. -/
def bothEnds (s : State) (u : Use) (x y : Side) (n : Nat) (blocks : List (List Byte)) : Except Trap Move × State :=
  let (a, sl, s) := s.checks x.slot (if u = .pushTo then .pushFrom else .copyFrom) (x.elems n)
  let (b, dl, s) := s.checks y.slot u (y.elems n)
  match a, b with
  | .ok p, .ok q =>
    (.ok { src := p, sl := sl, dst := q, dl := dl, linear := x.stream.isNone && y.stream.isNone, blocks := blocks }, s)
  | .error f, .ok _ => (.error (f.trap true x.slot), s)
  | .ok _, .error f => (.error (f.trap true y.slot), s)
  | .error f, .error f' =>
    (.error (if f.order ≤ f'.order then f.trap true x.slot else f'.trap true y.slot), s)

/-- ESTART of the instruction at the pc: the bytes or elements a restart does not move again. -/
def startAt (s : State) : Nat := if s.h.resuming then s.h.estart else 0

/-- A transfer stopped by a failed translation (R221): what its restart needs, and the trap. -/
def stopMove (s : State) (word : BitVec 32) (r : Restart) (f : Elem × Nat × WalkErr × Word) (start : Nat) : Out :=
  (s.mod fun h => { h with restart := r }).raise ((walkTrap true f.2.2.1 f.2.2.2 start).of word)

/-- The bytes that stand in a list of places, zero where a word holds an error, which the hart meets. -/
def takeBytes (s : State) (l : List Piece) : List Byte × State :=
  let ws := s.badIn l
  let b := ((bytesOf l).zip (s.raw l)).map fun x => if ws.contains x.1.word then 0 else x.2
  (b, ws.foldl (fun s w => s.meet w 0) s)

/-- The first failure of the two ends, by position, the source's before the destination's; and how many bytes come
before it. -/
def firstFail (a b : List (Elem × List Piece) × Option (Elem × Nat × WalkErr × Word)) :
    Option (Elem × Nat × WalkErr × Word) × Nat :=
  let (la, lb) := (a.1.length, b.1.length)
  match a.2, b.2 with
  | none, none => (none, min la lb)
  | some f, none => (some f, la)
  | none, some f => (some f, lb)
  | some f, some f' => if la ≤ lb then (some f, la) else (some f', lb)

/-- Bytes copied between places found, in one step. -/
def copyFound (s : State) (src dst : List (Elem × List Piece)) : State :=
  s.engineCopy (joinRuns (src.flatMap (·.2))) (joinRuns (dst.flatMap (·.2)))

/-- A transfer within the package whose ends need no staging (R221). -/
def moveLocal (s : State) (word : BitVec 32) (m : Move) : Out :=
  let start := s.startAt
  let order (l : List Elem) : List Elem := (if m.descends s.clNo then l.reverse else l).drop start
  let (a, fa, _, s) := m.src.elems (order m.sl) [] s
  let (b, fb, _, s) := m.dst.elems (order m.dl) [] s
  let (f, k) := firstFail (a, fa) (b, fb)
  let s := s.copyFound (a.take k) (b.take k)
  match f with
  | none => .next s.endResume.adv
  | some f => s.stopMove word { Restart.none with blocks := m.blocks } f (start + k)

/-- The source byte of a staged transfer: as it was staged, or as it stands. -/
def stagedByte (s : State) (old : List (Nat × Option Byte)) (x : Elem × List Piece) : Option Byte :=
  match old.find? fun y => y.1 = x.1.idx with
  | some y => y.2
  | none => if s.badIn x.2 = [] then (s.raw x.2).head? else none

/-- Bytes of a staging written; the word of one whose source held an error ends uncorrectable (R368). -/
def putStaged (s : State) (l : List (Elem × List Piece)) (b : List (Option Byte)) : State :=
  let s := s.store (joinRuns (l.flatMap (·.2))) (b.map (·.getD 0)) 0
  let tainted := ((l.zip b).filter fun x => x.2.isNone).flatMap fun x => (bytesOf x.1.2).map Loc.word
  if tainted = [] then s else { s with bad := dedup (s.bad ++ tainted) }

/-- A transfer with a stream end whose ends overlap (R221): every source byte that it overwrites is staged first. A
source that does not translate stops it with no more bytes moved. -/
def moveStaged (s : State) (word : BitVec 32) (m : Move) (stage : Nat) : Out :=
  let start := s.startAt
  let old := s.h.restart.staged
  let give (s : State) : State := s.modPart s.partNo fun p => { p with arena := p.arena.filter fun x => x.1 ≠ stage }
  let (a, fa, _, s) := m.src.elems ((m.sl.drop start).filter fun x => !old.any fun y => y.1 = x.idx) [] s
  match fa with
  | some f =>
    if old = [] then (give s).stopMove word { Restart.none with blocks := m.blocks } f start
    else s.stopMove word { blocks := m.blocks, staged := old, stage := some stage, tag := none } f start
  | none =>
    let (b, fb, _, s) := m.dst.elems (m.dl.drop start) [] s
    let value (k : Nat) : Option Byte :=
      match a.find? fun x => x.1.idx = k with
      | some x => s.stagedByte old x
      | none => s.stagedByte old ({ idx := k, off := 0, len := 1 }, [])
    let put (s : State) (l : List (Elem × List Piece)) : State :=
      if old = [] then s.copyFound (a.take l.length) l
      else
        let s := (a.filter fun x => l.any fun y => y.1.idx = x.1.idx).foldl (fun s x => s.meetAll x.2) s
        s.putStaged l (l.map fun x => value x.1.idx)
    match fb with
    | none => .next (give (put s b)).endResume.adv
    | some f =>
      let kept := (m.shared s.clNo).filterMap fun k =>
        if start + b.length ≤ k ∨ old.any (fun y => y.1 = k) then some (k, value k) else none
      (put s b).stopMove word { blocks := m.blocks, staged := kept, stage := some stage, tag := none } f (start + b.length)

/-- A transfer within the package (R221). One that needs staging waits for room in the table arena. -/
def moveWithin (s : State) (word : BitVec 32) (m : Move) : Out :=
  let both := m.shared s.clNo
  if m.linear || both.isEmpty then s.moveLocal word m
  else
    match s.h.restart.stage with
    | some a => s.moveStaged word m a
    | none =>
      match Eng.bpe s (Eng.arenaTake ((both.length + 255) / 256 * 256)) with
      | (some (some a), s) => s.moveStaged word m a
      | _ => s.unpathed.wait

/-! ## Transfers over the fabric -/

/-- Whether a transfer may go to a peer (R341, R346, R349): refused with reason 4 where no slot names the peer or it is
unreachable, denied by a port's access table with a permission fault, whose SVAL is open since no page is concerned. -/
def peerOpen (s : State) (e : Entry) (h : BitVec 4) (w : Want) : Option Trap × State :=
  let p := s.partNo
  match s.slotOfPeer p e.peer with
  | none => (some { code := 16, val := refusalVal 4 h, vec := true, estart := s.startAt }, s)
  | some (i, ps) =>
    if (s.peer p e.peer.toNat).unreachable && s.peerCut p i then (some { code := 16, val := refusalVal 4 h, vec := true, estart := s.startAt }, s)
    else if (s.upPorts p ps).all fun q => s.allowed s.clNo (24 + q) e.peer.toNat w then (none, s)
    else (some (walkTrap true .permission (Config.freeWord s.seq) s.startAt), { s with seq := s.seq + 1 })

/-- A record of a transfer added to the hart; or, where an earlier part of the same push has one, that record with more to
send (R120). -/
def addXfer (s : State) (x : Xfer) : State :=
  if s.h.xfers.any fun y => y.tag = x.tag then
    s.mod fun h => { h with xfers := h.xfers.map fun y =>
      if y.tag = x.tag then { y with total := x.total, payload := y.payload ++ x.payload, flag := x.flag } else y }
  else { s with pkg := { s.pkg with nextTag := s.pkg.nextTag + 1 } }.mod fun h => { h with xfers := h.xfers ++ [x] }

/-- A transfer with a remote end issued (R220 to R223): the bytes of a source here are read now, the places of a
destination here are found now. Where a page fails, the bytes before it go first, and the instruction then stops at it. -/
def moveRemote (s : State) (word : BitVec 32) (m : Move) (x y : Side) (flag : Option (Word × Nat)) : Out :=
  let start := s.startAt
  let far (p : Place) : Bool := p.ent.space == 3
  let a := if far m.src then none else some (m.src.elems (m.sl.drop start) [] s)
  let s := match a with | some r => r.2.2.2 | none => s
  let b := if far m.dst then none else some (m.dst.elems (m.dl.drop start) [] s)
  let s := match b with | some r => r.2.2.2 | none => s
  let fail := match a, b with
    | some r, _ => r.2.1
    | none, some r => r.2.1
    | none, none => none
  let k := match a, b with
    | some r, _ => r.1.length
    | none, some r => r.1.length
    | none, none => m.n - start
  let tag := s.h.restart.tag.getD (BitVec.ofNat 32 s.pkg.nextTag)
  match fail, k with
  | some f, 0 => s.stopMove word { Restart.none with blocks := m.blocks, tag := s.h.restart.tag } f start
  | fail, k =>
    let (bytes, s) := match a with
      | some r => s.takeBytes (joinRuns (r.1.flatMap fun x : Elem × List Piece => x.2))
      | none => (List.replicate k 0, s)
    let dest := match b with | some r => joinRuns (r.1.flatMap fun x : Elem × List Piece => x.2) | none => []
    let push := far m.dst && !far m.src
    let near := if push then (m.dst.ent, y.slot) else (m.src.ent, x.slot)
    let moving := (m.dl.drop start).take k
    let r : Xfer :=
      { tag := tag, push := push, slot := near.2, peer := near.1.peer, peerh := near.1.peerh,
        start := start, total := start + k, payload := if b.isSome then [] else bytes, dest := dest, moved := start,
        got := [], permits := [], flag := if fail.isSome then none else flag, flagSent := false, refused := none,
        relay := if far m.dst && far m.src then some (y.slot, m.dst.ent.peer, m.dst.ent.peerh) else none,
        spans := if far m.dst then [] else m.dst.span s.clNo true y.stream.isSome moving,
        ends := if far m.dst then none else some (y.slot, moving.map (·.off)), stale := false, held := [],
        sent := 0 }
    let s := s.addXfer r
    match fail with
    | none => .next s.endResume.adv
    | some _ =>
      let again := { Restart.none with blocks := m.blocks, tag := if push then some tag else none }
      .next (s.unpathed.mod fun h => { h with estart := start + k, resuming := true, restart := again })

/-- A transfer whose checks have passed, moved. -/
def moveAll (s : State) (word : BitVec 32) (m : Move) (x y : Side) (flag : Option (Word × Nat)) : Out :=
  let far (p : Place) : Bool := p.ent.space == 3
  let (t, s) := if far m.src then s.peerOpen m.src.ent x.slot Want.load else (none, s)
  match t with
  | some t => s.raise (t.of word)
  | none =>
    let (t, s) := if far m.dst then s.peerOpen m.dst.ent y.slot Want.store else (none, s)
    match t with
    | some t => s.raise (t.of word)
    | none => if far m.src || far m.dst then s.moveRemote word m x y flag else s.moveWithin word m

/-- The flag that XPUSH names in s(SOD + 1) (R132, R223): its slot, remote and of the destination's peer, its bounds and
its alignment. -/
def pushFlag (s : State) (v : Word) (peer : BitVec 16) : Except Trap (Word × Nat) × State :=
  let h := v.extractLsb' 0 4
  let off := (v >>> 8).toNat
  match s.checks h .pushTo fun _ e => if e.peer = peer then [{ idx := 0, off := off, len := 8 }] else [] with
  | (.error f, _, s) => (.error (f.trap true h), s)
  | (.ok p, _, s) =>
    if p.ent.peer ≠ peer then (.error (Failed.space.trap true h), s)
    else if off % 8 ≠ 0 then (.error ((Failed.align 0).trap true h), s)
    else (.ok (p.ent.peerh, off), s)

/-- A transfer whose ends are known: its checks, then its movement (R220, R221). -/
def transfer (s : State) (word : BitVec 32) (u : Use) (x y : Side) (b : List (List Byte)) (flag : Option Word) : Out :=
  match s.bothEnds u x y (min (x.limit s.g) (y.limit s.g)) b with
  | (.error t, s) => s.raise (t.of word)
  | (.ok m, s) =>
    match flag with
    | none => s.moveAll word m x y none
    | some v =>
      match s.pushFlag v m.dst.ent.peer with
      | (.error t, s) => s.raise (t.of word)
      | (.ok f, s) => s.moveAll word m x y (some f)

/-- A fill's bytes (R224): byte `a mod 8` of the value at address a. -/
def fillByte (v : Word) (e : Entry) (x : Elem) : Byte :=
  BitVec.ofNat 8 (v.toNat >>> (8 * ((alignBase e + x.off.toNat) % 8)))

/-- XFILL's bytes written through a place, up to a page that fails (R221, R224). -/
def fillAll (s : State) (word : BitVec 32) (p : Place) (l : List Elem) (v : Word) : Out :=
  let start := s.startAt
  let (found, f, _, s) := p.elems (l.drop start) [] s
  let s := s.store (joinRuns (found.flatMap (·.2))) (found.map fun x => fillByte v p.ent x.1) 0
  match f with
  | none => .next s.endResume.adv
  | some f => s.stopMove word Restart.none f (start + found.length)

/-- An engine instruction on its path: governed by the grant alone (R129). -/
def engineOp (s : State) (c : Bool) (word : BitVec 32) (bad : Bool) (f : State → Out) : Out :=
  s.issue c .en word (fun _ => []) (fun _ => { reg := bad }) (fun _ => false) f

/-- A push on its path, which earlier pushes of the hart in flight do not hold up (R277). Behind them it takes place only
where it completes at once: one that would stop or trap waits for them (R319). -/
def pushOp (s : State) (c : Bool) (word : BitVec 32) (bad : Bool) (f : State → Out) : Out :=
  s.issueWhen (fun s => s.unsettled && !s.pushesOn) c .en word (fun _ => []) (fun _ => { reg := bad }) (fun _ => false)
    fun t =>
      if !t.unsettled then f t
      else match f t with
        | .next u => if u.h.pc = t.h.pc then .next s else .next u
        | o => o

end State

/-- XCOPY (R220 to R222). -/
def execXcopy (c : Bool) (h g : BitVec 4) (d a : BitVec 6) (v : BitVec 3) (s : State) : Out :=
  let word := encode (.xcopy c h g d a v)
  s.engineOp c word false fun s =>
    match s.sides word (v.getLsbD 0) (v.getLsbD 1) h g d a with
    | (.error t, s) => s.raise (t.of word)
    | (.ok (x, y, b), s) => s.transfer word .copyTo x y b none

/-- XPUSH (R223): the last variant names a flag. ILLVAL, which its reserved bits raise, yields to ILLSPB alone (R138), and is
raised before the blocks are read otherwise (R139). -/
def execXpush (c : Bool) (h g : BitVec 4) (d a : BitVec 6) (v : BitVec 3) (s : State) : Out :=
  let word := encode (.xpush c h g d a v)
  let flagged := v = 1
  s.pushOp c word (flagged && d == 63) fun s =>
    let f := s.rd (d + 1)
    let bad := flagged && f.extractLsb' 4 4 != 0
    match s.sides word true true h g d a with
    | (.error t, u) => if bad && t.code ≠ 1 then s.illegal 10 word else u.raise (t.of word)
    | (.ok (x, y, b), u) =>
      if bad then s.illegal 10 word else u.transfer word .pushTo x y b (if flagged then some f else none)

/-- XFILL (R224): remote space does not admit it. -/
def execXfill (c : Bool) (h : BitVec 4) (d a : BitVec 6) (s : State) : Out :=
  let word := encode (.xfill c h d a)
  s.engineOp c word false fun s =>
    match s.checks h .store fun s e => Side.elems { slot := h, stream := none, off := (s.rd d).toInt } s.g s e with
    | (.error f, _, s) => s.raise ((f.trap true h).of word)
    | (.ok p, l, s) => s.fillAll word p l (s.rd a)

/-- VPREF (R225): it writes nothing and raises nothing, and no value depends on it. -/
def execVpref (c : Bool) (g : BitVec 4) (a : BitVec 6) (v : BitVec 3) (s : State) : Out :=
  s.engineOp c (encode (.vpref c g a v)) false fun s => .next s.adv

end Sys2Proof.Machine
end

