-- ==== Sys2Proof/Machine/EventsFabric.lean ====
section
/-!
DEFINITION. What the Dzigar fabric brings (R120, R121, R339 to R346): flits as they arrive, their checks and effects,
windows, ports that go down and peers that cannot be reached; and the end of engine transfers (R220).

A grant flit carries W, a refusal its reason, in its first payload byte; a permit return names its chunk by K.
-/

namespace Sys2Proof.Machine

/-- A peer's EPOCH becomes an old one, whose flits are dropped (R346). EPOCH has 16 values, of which the last 8 that
passed are old (log 55). -/
def Peer.retire (x : Peer) : Peer :=
  { x with epoch := none, old := (x.epoch.toList ++ x.old.filter fun e => some e ≠ x.epoch).take 8 }

/-- The places of a reading transfer's bytes from one on. -/
def Xfer.at_ (x : Xfer) (k n : Nat) : List Piece := if k < x.start then [] else subRuns x.dest (k - x.start) n

/-- The slot of a transfer that names one of some peers: its own, or where its bytes go on from here. -/
def Xfer.slotTo (x : Xfer) (gone : BitVec 16 → Bool) : Option (BitVec 4) :=
  if gone x.peer then some x.slot
  else match x.relay with
    | some (slot, peer, _) => if gone peer then some slot else none
    | none => none

namespace State

/-! ## Ports -/

/-- The flits of a port that an ACKSEQ acknowledges leave its replay buffer (R340). -/
def acked (s : State) (q : Nat) (ack : BitVec 12) : State :=
  s.modPort q fun x =>
    let l := x.replay.filter fun b => 2048 ≤ (ack - (Flit.parse b).1.seq).toNat
    { x with replay := l, failed := if l.length < x.replay.length then 0 else x.failed }

/-- A transfer of a partition changed, with its hart or where it stands stopped in a frame (R288). -/
def modXfers (s : State) (p : Nat) (which : Xfer → Bool) (f : Xfer → Xfer) : State :=
  let g (l : List Xfer) : List Xfer := l.map fun x => if which x then f x else x
  let keys := (s.liveCtxs.filter fun k => k / 384 = p).map fun k => (s.hart k).key
  let s := (s.liveCtxs.filter fun k => k / 384 = p).foldl (fun s k => s.modHart k fun h => { h with xfers := g h.xfers }) s
  let frames := s.pkg.frames.map fun x => if keys.contains x.key && x.live then { x with xfers := g x.xfers } else x
  { s with pkg := { s.pkg with frames := frames } }

/-- Every transfer of a partition, with those its frames carry. -/
def partXfers (s : State) (p : Nat) : List Xfer := (s.liveCtxs.filter fun k => k / 384 = p).flatMap s.xfersOf

/-- Transfers of a partition refused (R343), each through the slot that `which` gives: each stands at the first byte that the
receiver has not acknowledged, which is its first where its bytes have not gone on yet. -/
def refuseXfers (s : State) (p : Nat) (which : Xfer → Option (BitVec 4)) (reason : Nat) : State :=
  let tags := ((s.partXfers p).filter fun x => (which x).isSome).map (·.tag)
  (s.modXfers p (fun x => (which x).isSome) fun x =>
    { x with refused := (which x).map fun h => (reason, h),
             moved := if x.relay.isSome then x.start else s.firstUnacked p x }).dropFlits p tags

/-- A peer has reset or cannot be reached (R346): its partial transfers are discarded (R121), and this partition's
transfers to it are refused with reason 4. -/
def peerGone (s : State) (p : Nat) (peer : BitVec 16) : State :=
  let s := s.modPart p fun x => { x with receives := x.receives.filter fun r => r.src ≠ peer }
  let s := s.refuseXfers p (fun x => x.slotTo (· = peer)) 4
  s.modXfers p (fun x => x.peer = peer) fun x => { x with permits := [] }

/-- The EPOCH of an intact flit (R346): a new one is its sender's reset, and so is a reset flit that is the first to be
heard of its sender; an old one makes the flit be dropped. -/
def noteEpoch (s : State) (p : Nat) (peer : BitVec 16) (t : FlitType) (e : BitVec 4) : Bool × State :=
  let x := s.peer p peer.toNat
  if x.epoch = some e then (true, s)
  else if x.old.contains e then (false, s)
  else
    let s := if x.epoch.isSome || t = .reset then s.peerGone p peer else s
    (true, s.modPeer p peer.toNat fun x => { x.retire with epoch := some e })

/-- A flit arrives at a port (R340, R341, R346): what it is to the partition, with its sender's slot, if it is intact,
next in order, not seen before, addressed to the partition, and of a current EPOCH. A partition that is off has no clocks
and hears nothing (R353). -/
def receive (s : State) (q : Nat) (b : BitVec 2048) (t : FlitType) : Option (Flit × Nat × PeerSlot) × State :=
  let p := q / 16
  let (f, ok) := Flit.parse b
  let numbered := t ≠ .ack ∧ t ≠ .nak
  let d := (f.seq - (s.port q).lastIn).toNat
  if !(s.port q).up ∨ (s.part p).state = 0 then (none, s)
  else if !ok then (none, s.answer p q .nak f.src)
  else if f.type ≠ t.code then (none, s)
  else
    let s := s.acked q f.ack
    if numbered ∧ (d = 0 ∨ 2048 ≤ d) then (none, s.answer p q .ack f.src)
    else if numbered ∧ d ≠ 1 then (none, s.answer p q .nak f.src)
    else
      let s := if numbered then (s.modPort q fun x => { x with lastIn := f.seq }).answer p q .ack f.src else s
      if f.dst ≠ peerNumber p then (none, s)
      else
        match s.slotOfPeer p f.src with
        | none =>
          (none, if t = .data ∨ t = .flag then
            s.transmit p q { type := 7, seq := 0, epoch := (s.part p).epoch, ack := 0, src := 0, dst := f.src, tag := f.tag, k := 0,
                             payload := [3] } else s)
        | some (i, ps) =>
          match s.noteEpoch p f.src t f.epoch with
          | (true, s) => (some (f, i, ps), s)
          | (false, s) => (none, s)

/-! ## Receiving a transfer -/

/-- A transfer being received, by its sender and its tag. -/
def receipt (s : State) (p : Nat) (src : BitVec 16) (tag : BitVec 32) : Receive :=
  ((s.part p).receives.find? fun r => r.src = src ∧ r.tag = tag).getD
    { src := src, tag := tag, done := [], refused := false, complete := false, held := [], flag := none }

/-- A transfer being received replaced. -/
def putReceipt (s : State) (p : Nat) (r : Receive) : State :=
  s.modPart p fun x => { x with receives := r :: x.receives.filter fun y => !(y.src == r.src && y.tag == r.tag) }

/-- A transfer refused (R343): its sender is told the reason, and nothing more of it is performed. -/
def refuse (s : State) (p : Nat) (ps : PeerSlot) (tag : BitVec 32) (reason : Nat) : State :=
  (s.putReceipt p { s.receipt p ps.peer tag with refused := true }).control p ps .refusal tag 0 [BitVec.ofNat 8 reason]

/-- The checks of a remote access (R343): the places of its bytes, or the reason it is refused for. Host memory is a target of
its own (R333), which the access tables admit or deny. -/
def remoteRuns (s : State) (slot : Nat) (asid : BitVec 14) (h : Word) (u : Use) (w : Want)
    (f : State → Entry → List Elem) : Except Nat (List Piece) × State :=
  let sp := s.spaceFor asid
  if malformed sp h then (.error 0, s)
  else
    let e := s.entry (sp.entryAt (valIndex h))
    if e.state ≠ 1 ∨ e.gen ≠ valGen h then (.error 1, s)
    else if e.space ≠ 0 then (.error 2, s)
    else
      let l := f s e
      match elemChecks s e u l with
      | some (.shared ..) => (.error 1, s)
      | some _ => (.error 0, s)
      | none =>
        let (runs, s) := l.foldl (fun (a : Option (List Piece) × State) x =>
          match a.1 with
          | none => a
          | some ps =>
            match a.2.heapRuns sp e w (x.len + 1) x.off.toNat x.len with
            | (some r, s) => (some (ps ++ r), s)
            | (none, s) => (none, s)) (some [], s)
        match runs with
        | none => (.error 0, s)
        | some r =>
          let r := joinRuns r
          let mapped (x : Piece) : Bool := match x.1 with
            | .phys a => (match targetOf a with | some t => t < 16 || 152 ≤ t | none => false)
            | _ => false
          let open_ (x : Piece) : Bool := match x.1 with
            | .phys a => (List.range (x.2 / 65536 + 2)).all fun j => s.allowedAt (512 + slot) (min (a + x.2 - 1) (a + 65536 * j)) w
            | _ => false
          if !r.all mapped then (.error 0, s)
          else if !r.all open_ then (.error 3, s)
          else (.ok r, s)

/-- How many bytes of a chunk have been performed. -/
def chunkBytes (r : Receive) (j : Nat) : Nat :=
  (r.done.map fun x => min (x.1 + x.2) (65536 * (j + 1)) - max x.1 (65536 * j)).sum

/-- The permits of the chunks that a flit completes returned (R344); the last chunk's waits for the flag, if there is one. -/
def returnPermits (s : State) (p : Nat) (ps : PeerSlot) (r : Receive) (k n total : Nat) (flagged : Bool) : State :=
  (chunksIn k n).foldl (fun s j =>
    let whole := min total (65536 * (j + 1)) - 65536 * j
    let last := total ≤ 65536 * (j + 1)
    if chunkBytes r j = whole ∧ !(flagged && last) then s.control p ps .permit r.tag (65536 * j) [] else s) s

/-- The bytes of the aligned 8-byte piece that byte `n` of a transfer lies in (R108), of those from `lo` to below `hi`, have
all come; `a` is its address. -/
def pieceIn (come : Nat → Bool) (lo hi n a : Nat) : Bool :=
  (List.range 8).all fun i => n + i < lo + a % 8 || hi + a % 8 ≤ n + i || come (n + i - a % 8)

/-- A byte at a place can be performed: its whole piece has come. -/
def landsAt (come : Nat → Bool) (lo hi n : Nat) : Loc → Bool
  | .phys a => pieceIn come lo hi n a
  | .scratch _ a => pieceIn come lo hi n a
  | .reg .. => true

/-- The bytes of a transfer that have come, with their places: those that can be performed are, and the others are held back
(R108, R121). -/
def landBytes (s : State) (pool : List ((Nat × Byte) × Loc)) (lands : (Nat × Byte) × Loc → Bool) :
    List (Nat × Byte) × State :=
  let now := pool.filter lands
  ((pool.filter fun x => !lands x).map (·.1), s.store (joinRuns (now.map fun x => (x.2, 1))) (now.map fun x => x.1.2) 0)

/-- The bytes of a flit with their numbers in the transfer. -/
def numbered (k : Nat) (b : List Byte) : List (Nat × Byte) := ((List.range b.length).map (k + ·)).zip b

/-- A push's flag incremented, once, by an atomic step, where every byte of the push has been performed (R120). Its K is
the push's length. -/
def flagDue (s : State) (p slot : Nat) (ps : PeerSlot) (r : Receive) (k : Nat) (asid : BitVec 14) (h : Word) (off : Nat) :
    State :=
  match s.remoteRuns slot asid h .atomic Want.atomic_ fun _ _ => [{ idx := 0, off := off, len := 8 }] with
  | (.error reason, s) => s.refuse p ps r.tag reason
  | (.ok l, s) =>
    let s := (s.store l (leBytes 8 (leNat (s.raw l) + 1)) 0).putReceipt p { r with complete := true, flag := none }
    if k = 0 then s else s.control p ps .permit r.tag ((k - 1) / 65536 * 65536) []

/-- A byte of a push can be performed (R108, R344): with its piece, with its chunk, or with the last byte of all. -/
def pushLands (r : Receive) (total n : Nat) (l : Loc) : Bool :=
  (r.done.map (·.2)).sum = total ||
    chunkBytes r (n / 65536) = min total (65536 * (n / 65536 + 1)) - 65536 * (n / 65536) ||
    landsAt (fun m => r.done.any fun x => x.1 ≤ m && m < x.1 + x.2) 0 total n l

/-- A data flit of a peer's push (R340, R343): its bytes performed in this partition's layout, with those held back before,
whose checks are made and whose places are found as the tables now stand. A flag flit that came before the last of them
takes effect with it. -/
def takeData (s : State) (p slot : Nat) (ps : PeerSlot) (f : Flit) (flagged : Bool) (asid : BitVec 14) (h : Word)
    (total : Nat) (place : Side) : State :=
  let r := s.receipt p f.src f.tag
  let n := f.payload.length
  if r.refused || r.done.any fun x => x.1 = f.k then s
  else if total < f.k + n then s.refuse p ps f.tag 0
  else
    let pool := r.held ++ numbered f.k f.payload
    let els (s : State) (e : Entry) : List Elem :=
      let all := place.elems (pool.foldl (fun a x => max a (x.1 + 1)) 0) s e
      pool.filterMap fun x => all[x.1]?
    match s.remoteRuns slot asid h .copyTo Want.store els with
    | (.error reason, s) => s.refuse p ps f.tag reason
    | (.ok l, s) =>
      let r := { r with done := r.done ++ [(f.k, n)] }
      let (held, s) := s.landBytes (pool.zip (bytesOf l)) fun x => pushLands r total x.1.1 x.2
      let r := { r with held := held }
      let s := (s.putReceipt p r).returnPermits p ps r f.k n total flagged
      match r.flag with
      | some (k, asid, h, off) =>
        if (r.done.map (·.2)).sum = k && !r.complete then s.flagDue p slot ps r k asid h off.toNat else s
      | none => s

/-- A transfer of a hart whose bytes can move: the hart's do, and its places are known (R221, R345). -/
def moving (s : State) (k : Nat) (x : Xfer) : Bool := s.moves k && !x.stale

/-- A data flit that answers a read of this partition (R222): its bytes go to their places, or on to another peer. A
transfer that stands still takes none. -/
def takeReply (s : State) (p : Nat) (f : Flit) : State :=
  let mine (x : Xfer) : Bool :=
    !x.push && x.tag = f.tag && x.peer = f.src && !(x.got.any fun y => y.1 = f.k) && x.refused.isNone && !x.stale
  match ((s.liveCtxs.filter fun k => k / 384 = p ∧ s.moves k).flatMap fun k => (s.hart k).xfers).find? mine with
  | none => s
  | some x =>
    let n := f.payload.length
    let at_ := f.k - x.start
    let got := x.got ++ [(f.k, n)]
    let pool := (x.held ++ numbered f.k f.payload).filterMap fun y => ((bytesOf (x.at_ y.1 1)).head?).map fun l => (y, l)
    let (held, s) :=
      if x.relay.isSome then ([], s)
      else s.landBytes pool fun y => x.moved + n = x.total ||
        landsAt (fun m => got.any fun z => z.1 ≤ m && m < z.1 + z.2) x.start x.total y.1.1 y.2
    s.modXfers p mine fun x =>
      let x := { x with got := got, moved := x.moved + n, held := held,
                        payload := if x.relay.isSome then x.payload.take at_ ++ f.payload ++ x.payload.drop (at_ + n)
                                   else x.payload }
      match x.relay with
      | some (slot, peer, h) =>
        if x.moved = x.total then
          { x with push := true, slot := slot, peer := peer, peerh := h, moved := x.start, got := [], relay := none }
        else x
      | none => x

/-- A flag flit (R120): the increment follows every byte of its push, so one that comes before the last of them waits. -/
def takeFlag (s : State) (p slot : Nat) (ps : PeerSlot) (f : Flit) (asid : BitVec 14) (h : Word) (off : Nat) : State :=
  let r := s.receipt p f.src f.tag
  if r.refused || r.complete then s
  else if (r.done.map (·.2)).sum ≠ f.k then s.putReceipt p { r with flag := some (f.k, asid, h, BitVec.ofNat 64 off) }
  else s.flagDue p slot ps r f.k asid h off

/-- A flit's effect on the partition of its port. -/
def onFlit (s : State) (port : BitVec 7) (b : BitVec 2048) (t : FlitType) (f : Nat → Flit → Nat → PeerSlot → State → State) :
    Out :=
  let p := port.toNat / 16
  match s.receive port.toNat b t with
  | (none, s) => .next s
  | (some (x, i, ps), s) => .next (s.atPart p fun s => s.noHart fun s => f p x i ps s)

/-! ## Refusals delivered -/

/-- The refused transfer of the current hart that a trap's value names: its oldest (R319). -/
def refusedXfer (s : State) (val : Word) : Option Xfer :=
  s.h.xfers.head?.filter fun x => match x.refused with | some (r, h) => refusalVal r h = val | none => false

/-- The trap of a refusal (R343): ESTART is the first byte not acknowledged. The frame keeps the transfer, to go on from
there; a transfer whose instruction is still to move more goes on with that instruction. -/
def refusalTrap (s : State) (x : Xfer) (vec : Bool) (val : Word) : State :=
  if s.h.resuming then
    (s.mod fun h => { h with xfers := h.xfers.filter fun y => y.tag ≠ x.tag }).userTrap vec 16 val s.h.pc x.moved
  else
    let n := s.seq
    let t := (s.putXfer s.cur { x with refused := none }).userTrap vec 16 val s.h.pc x.moved
    let frames := t.pkg.frames.map fun f => if n ≤ f.serial then { f with resuming := false } else f
    { t with pkg := { t.pkg with frames := frames } }

/-- A refusal's trap would end the hart while other transfers of it are in flight, which drain first (R376). -/
def drainsFirst (s : State) (x : Xfer) (vec : Bool) (val : Word) : Bool :=
  (s.h.xfers.any fun y => y.refused.isNone) && (s.refusalTrap x vec val).ended s.cur

/-- A refusal delivered, once nothing is to drain. -/
def deliverRefusal (s : State) (x : Xfer) (vec : Bool) (val : Word) : State :=
  if s.drainsFirst x vec val then s else s.refusalTrap x vec val

/-- A port of a partition has failed to replay a flit 16 times (R340): the first nak starts the first replay, so the 17th
says that the 16th has failed. -/
def portFailed (s : State) (q : Nat) : Bool := (s.port q).up && 16 < (s.port q).failed

/-- A port goes down (R340): its unacknowledged flits go to the other ports of their peers. -/
def takeDown (s : State) (q : Nat) : State :=
  let p := q / 16
  let l := (s.port q).replay ++ (s.port q).waiting
  let s := s.modPort q fun x => { x with up := false, downAt := s.cycles, replay := [], waiting := [] }
  l.foldl (fun s b =>
    let f := (Flit.parse b).1
    match s.slotOfPeer p f.dst with
    | none => s
    | some (_, ps) => match s.upPorts p ps with
      | [] => s.modPort q fun x => { x with replay := x.replay ++ [b] }
      | q' :: _ => s.transmit p q' f) s

/-- The peer of a slot, its first, has just become unreachable (R341). -/
def cutOff (s : State) (p i : Nat) : Bool :=
  s.peerCut p i && (s.peerSlot p i).any fun ps =>
    !(s.peer p ps.peer.toNat).unreachable && (s.slotOfPeer p ps.peer).any fun x => x.1 = i

/-- A peer can be reached again: the ports of its slot are not all down. -/
def reachedAgain (s : State) (p n : Nat) : Bool :=
  (s.slotOfPeer p (BitVec.ofNat 16 n)).any fun x => !s.peerCut p x.1

/-- A window boundary has passed (R344): windows of 1 µs, by TIME. -/
def windowOver (s : State) (p : Nat) : Bool := (s.part p).grantAt < s.time p / 1000

/-- The valid peer slots of a partition. -/
def validSlots (s : State) (p : Nat) : List (Nat × PeerSlot) :=
  if (s.part p).peersBase = 0 then [] else (List.range 256).filterMap fun i => (s.peerSlot p i).map fun x => (i, x)

/-- A transfer to a peer that no slot names any more is refused, as one to a peer that cannot be reached (R341); a peer one of
whose ports is up again is reachable. -/
def settlePeers (s : State) (p : Nat) : State :=
  let peers := (s.part p).peers
  let s := if peers.all fun x => !x.2.unreachable then s
    else s.modPart p fun q => { q with peers := peers.filterMap fun x =>
      let y := if x.2.unreachable && s.reachedAgain p x.1 then { x.2 with unreachable := false } else x.2
      if y = Peer.reset then none else some (x.1, y) }
  let lost (x : Xfer) : Option (BitVec 4) := if x.refused.isSome then none else x.slotTo fun n => (s.slotOfPeer p n).isNone
  if (s.partXfers p).all fun x => (lost x).isNone then s else s.refuseXfers p lost 4

/-- The flits that wait at the ports of a partition sent as far as there is room (R340). -/
def sendAllWaiting (s : State) (p : Nat) : State :=
  ((s.pkg.ports.filter fun x => x.1 / 16 = p ∧ !x.2.waiting.isEmpty).map (·.1)).foldl (fun s q => s.sendWaiting p q 256) s

/-- Reset flits to every valid slot over every port that is up (R346). -/
def sendResets (s : State) (p : Nat) : State :=
  (s.validSlots p).foldl (fun s x => (s.upPorts p x.2).foldl (fun s q =>
    s.transmit p q { type := 8, seq := 0, epoch := (s.part p).epoch, ack := 0, src := 0, dst := x.2.peer, tag := 0,
                     k := 0, payload := [] }) s) s

end State

/-- USER_TRAP (R318, R343), by the current hart, from where it stands. -/
def execUserTrap (vec : Bool) (code : BitVec 8) (val : Word) (s : State) : Out :=
  if !s.ready s.cur || !userCode code then .next s
  else
    match if code = 16 then s.refusedXfer val else none with
    | some x => .next (s.deliverRefusal x vec val)
    | none => if s.h.xfers ≠ [] then s.wait else .next (s.userTrap vec code val s.h.pc s.h.startOf)

/-- ENGINE_TRANSFER_COMPLETE (R220): a transfer that has moved all its bytes leaves its hart. -/
def execEngineTransferComplete (k : BitVec 12) (tag : BitVec 32) (s : State) : Out :=
  .next (s.modHart k.toNat fun h =>
    { h with xfers := h.xfers.filter fun x => !(x.tag == tag && s.xferDone (k.toNat / 384) x) })

/-- DATA_FLIT (R340, R343). -/
def execDataFlit (port : BitVec 7) (f : BitVec 2048) (reply flagged : Bool) (asid : BitVec 14) (h : BitVec 64) (total : Nat)
    (stream : Bool) (off : BitVec 64) (spb : BitVec 256) (s : State) : Out :=
  let place : Side := { slot := 0, stream := if stream then some (Spb.ofBytes (leBytes 32 spb.toNat)) else none,
                        off := off.toInt }
  s.onFlit port f .data fun p x i ps s =>
    if reply then s.takeReply p x else s.takeData p i ps x flagged asid h total place

/-- FLAG_FLIT (R120). -/
def execFlagFlit (port : BitVec 7) (f : BitVec 2048) (asid : BitVec 14) (h : BitVec 64) (off : BitVec 64) (s : State) :
    Out :=
  s.onFlit port f .flag fun p x i ps s => s.takeFlag p i ps x asid h off.toNat

/-- ACK_FLIT (R340). -/
def execAckFlit (port : BitVec 7) (f : BitVec 2048) (s : State) : Out := s.onFlit port f .ack fun _ _ _ _ s => s

/-- NAK_FLIT (R340): what is not acknowledged is sent again, in order. -/
def execNakFlit (port : BitVec 7) (f : BitVec 2048) (s : State) : Out :=
  s.onFlit port f .nak fun _ _ _ _ s => s.modPort port.toNat fun x =>
    { x with link := x.replay.reverse ++ x.link, failed := if x.replay = [] then 0 else x.failed + 1 }

/-- PERMIT_GRANT_FLIT (R344). -/
def execPermitGrantFlit (port : BitVec 7) (f : BitVec 2048) (s : State) : Out :=
  s.onFlit port f .grant fun p x _ _ s => s.modPeer p x.src.toNat fun y => { y with window := (x.payload.headD 0).toNat }

/-- PERMIT_RETURN_FLIT (R344). -/
def execPermitReturnFlit (port : BitVec 7) (f : BitVec 2048) (s : State) : Out :=
  s.onFlit port f .permit fun p x _ _ s =>
    s.modXfers p (fun y => y.push && y.tag = x.tag && y.peer = x.src) fun y =>
      { y with permits := y.permits.filter (· ≠ x.k / 65536) }

/-- REFUSAL_FLIT (R343). -/
def execRefusalFlit (port : BitVec 7) (f : BitVec 2048) (s : State) : Out :=
  s.onFlit port f .refusal fun p x _ _ s =>
    s.refuseXfers p (fun y => if y.tag = x.tag ∧ y.peer = x.src then some y.slot else none) (x.payload.headD 0).toNat

/-- RESET_FLIT (R346): the receiver has acted on its EPOCH when it took it, and a copy of it says nothing new. -/
def execResetFlit (port : BitVec 7) (f : BitVec 2048) (s : State) : Out :=
  s.onFlit port f .reset fun _ _ _ _ s => s

/-- PERMIT_WINDOW (R344): a grant flit to every peer. -/
def execPermitWindow (p : BitVec 3) (s : State) : Out :=
  let n := p.toNat
  .next (if s.windowOver n then
    ((s.validSlots n).foldl (fun s x => s.control n x.2 .grant 0 0 [BitVec.ofNat 8 x.2.quota]) s).modPart n
      fun x => { x with grantAt := s.time n / 1000 }
  else s)

/-- PORT_DOWN (R340). -/
def execPortDown (port : BitVec 7) (s : State) : Out :=
  .next (if s.portFailed port.toNat then s.takeDown port.toNat else s)

/-- PEER_UNREACHABLE (R341, R346). -/
def execPeerUnreachable (p : BitVec 3) (slot : BitVec 8) (s : State) : Out :=
  let (n, i) := (p.toNat, slot.toNat)
  .next (match s.peerSlot n i with
    | some ps =>
      if s.cutOff n i then (s.peerGone n ps.peer).modPeer n ps.peer.toNat fun x => { x.retire with unreachable := true } else s
    | none => s)

end Sys2Proof.Machine
end

