-- ==== Sys2Proof/Machine/EventsHost.lean ====
section
/-!
DEFINITION. What the host does through its links (R331 to R338, R351 to R354): accesses to device memory and to the tier,
writes of PF0's registers, the partition commands, and the scrubs (R367).

A command's RESULT of done carries a duration that the spec does not fix. Before the firmware is ready (BOOTSTAT 4) nobody
acts on a command or a descriptor write. What a host reads at an offset of a register file is a function of the state; the
opcode table has no row for such a read, which changes nothing.
-/

namespace Sys2Proof.Machine

/-- An access-table entry from its two words (R349). -/
def Access.ofWords (w0 w1 : Word) : Access :=
  { v := w0.getLsbD 0, r := w0.getLsbD 1, w := w0.getLsbD 2, a := w0.getLsbD 3, lo := bits w0.toNat 16 40,
    hi := bits w1.toNat 16 40, word0 := w0, word1 := w1 }

/-- A word of an entry of a target with its zero bits cleared (R349): a fabric port's range is of peer numbers. -/
def entryMask (t : Nat) (first : Bool) (w : Word) : Word :=
  w &&& ((if 24 ≤ t ∧ t < 152 then 0x00000000FFFF0000 else 0x00FFFFFFFFFF0000) ||| if first then 0xF else 0)

/-- The master numbers that R348 assigns. -/
def assigned (m : Nat) : Bool := m < 0xC0 || (0x100 ≤ m && m < 0x120) || (0x200 ≤ m && m < 0x312)

/-- Bytes `base` on of a register file with the bytes of a write at `off` laid over them. -/
def overlay (base off : Nat) (new old : List Byte) : List Byte :=
  (List.range old.length).map fun i =>
    if off ≤ base + i then new.getD (base + i - off) (old.getD i 0) else old.getD i 0

/-- Bytes 0 to 63 of a descriptor (R352). -/
def Part.descriptor (x : Part) : List Byte :=
  leBytes 2 x.hbmStacks.toNat ++ leBytes 2 x.asidlo.toNat ++ leBytes 2 x.asidhi.toNat ++ leBytes 2 x.tports.toNat ++
    leBytes 8 x.pools.toNat ++ leBytes 8 x.arenaBase.toNat ++ leBytes 8 x.arenaSize.toNat ++ leBytes 8 x.save.toNat ++
    leBytes 8 x.peersBase.toNat ++ zeroes 16

/-- The descriptor of partition `p` from its bytes; bit p of TPORTS stays set (R352). -/
def Part.setDescriptor (x : Part) (p : Nat) (b : List Byte) : Part :=
  let n (i k : Nat) : Nat := leNat ((b.drop i).take k)
  { x with hbmStacks := BitVec.ofNat 16 (n 0 2), asidlo := BitVec.ofNat 14 (n 2 2), asidhi := BitVec.ofNat 14 (n 4 2),
           tports := BitVec.ofNat 8 (n 6 1) ||| 1#8 <<< p, pools := BitVec.ofNat 64 (n 8 8),
           arenaBase := BitVec.ofNat 64 (n 16 8), arenaSize := BitVec.ofNat 64 (n 24 8), save := BitVec.ofNat 64 (n 32 8),
           peersBase := BitVec.ofNat 64 (n 40 8) }

/-- The bytes of a record of the error log (R371). -/
def LogRecord.bytes (r : LogRecord) : List Byte :=
  leBytes 8 r.time ++ leBytes 1 r.source.toNat ++ leBytes 1 r.kind.toNat ++ leBytes 2 r.master.toNat ++ leBytes 4 r.hid.toNat ++
    leBytes 8 r.value.toNat ++ leBytes 8 r.extra.toNat

namespace State

/-- The package record changed. -/
def modPkg (s : State) (f : Package → Package) : State := { s with pkg := f s.pkg }

/-- The firmware is ready and the clocks run (R356, R374). -/
def inService (s : State) : Bool := s.pkg.bootstat == 4 && s.pkg.clocks

/-- A free word, and the state that has drawn it. -/
def draw (s : State) : Word × State := (Config.freeWord s.seq, { s with seq := s.seq + 1 })

/-- A measurement register extended by a value (R363). -/
def extend (m : List Byte) (x : List Byte) : List Byte := Shake.shake256 (m ++ x) 64

/-- MCFG extended with MINSVN, the revoked slots and the STACKS (R363). -/
def extendCfg (s : State) : State :=
  let revoked := (List.range 4).map fun i => (Config.fusedKey i).isNone
  let owned := (List.range 8).map fun p => (s.part p).hbmStacks
  s.modPkg fun x => { x with mcfg := extend x.mcfg (Config.measured x.minsvn revoked owned) }

/-! ## Accesses to memory and the tier -/

/-- A host function may access a run of physical memory (R350): DRAM, or the tier. -/
def hostAllowed (s : State) (fn a n : Nat) (w : Want) : Bool :=
  s.presented && (List.range (n / 65536 + 2)).all fun j => s.allowedAt (0x300 + fn) (min (a + n - 1) (a + 65536 * j)) w

/-- A host access of a run of physical bytes (R334, R338, R350): a denied read, or one that meets an error, returns
poison; a denied write is dropped. -/
def hostAccess (s : State) (fn : Nat) (write : Bool) (a : Nat) (data : List Byte) : State :=
  let ps : List Piece := [(.phys a, data.length)]
  if data = [] then s
  else if !s.hostAllowed fn a data.length (if write then Want.store else Want.load) || (!write && s.badIn ps ≠ []) then
    s.modPkg fun x => { x with hostData := if write then x.hostData else [], hostStatus := 1 }
  else if write then (s.noHart fun s => s.store ps data 0).modPkg fun x => { x with hostStatus := 0 }
  else s.modPkg fun x => { x with hostData := s.raw ps, hostStatus := 0 }

/-- The tier bytes behind a host address (R338): the decoders of the link, base, size and port. -/
def hdmTarget (s : State) (link a : Nat) : Option Nat :=
  ((List.range 8).map fun i => s.pkg.hdm.get (0, 0, 0) (8 * link + i)).findSome? fun (b, n, port) =>
    if b ≤ a ∧ a < b + n then some (2 ^ 55 + port % 8 * 2 ^ 52 + (a - b) % 2 ^ 52) else none

/-! ## Commands -/

/-- RESULT of a partition. -/
def setResult (s : State) (p : Nat) (v : Word) : State := s.modPart p fun x => { x with result := v }

/-- A command has finished (R352): done, and how long it took. -/
def done (s : State) (p : Nat) : State :=
  let (w, s) := s.draw
  s.setResult p (w.extractLsb' 0 32 ++ 1#32)

/-- The clusters of a partition where a lane's bank is being copied (R354). -/
def copying (s : State) (p : Nat) : List Nat := ((List.range 24).map (24 * p + ·)).filter fun c => (s.clu c).copying ≠ []

/-- A command of the partition is not done yet. -/
def busy (s : State) (p : Nat) : Bool := (s.part p).quiescing || (s.part p).repairing.isSome || s.copying p ≠ []

/-- A command written to CMD (R353): refused where it is not allowed or another is running. -/
def command (s : State) (p code cl lane : Nat) (allowed : Bool) (f : State → State) : State :=
  if !s.inService then s
  else
    let s := s.modPart p fun x => { x with cmd := BitVec.ofNat 64 (code + 256 * cl + 65536 * lane) }
    if s.busy p || !allowed then s.setResult p 2 else f s

/-- The live contexts of a partition. -/
def liveIn (s : State) (p : Nat) : List Nat := s.liveCtxs.filter fun k => k / 384 = p

/-- The live contexts of a partition, or of one cluster, that a command is to bring to Saved. -/
def toSave (s : State) (p : Nat) : List Nat :=
  let l := (s.liveIn p).filter fun k => (s.hart k).life ≠ .saved
  match (s.part p).repairing with
  | some (c, _) => l.filter fun k => k / 16 = 24 * p + c
  | none => l

/-- Harts pre-empted as under PARTCFG's CMD = 1 (R353, R354), but for those whose save is pending or has just failed. -/
def saveThem (s : State) (p : Nat) : State :=
  (s.toSave p).foldl (fun s k =>
    if (s.hart k).savePending || (s.hart k).frameFault.isSome then s else s.preempt k) s

/-- Every Saved hart of a list resumes; one whose frame fails stays Saved (R299). -/
def resumeThese (s : State) (l : List Nat) : State :=
  l.foldl (fun s k => match s.resumeSaved k with | .ok s => s | .failed _ s => s) s

/-- A lane repair finishes once the bank has been copied (R354): its group can be granted again. -/
def settleLane (s : State) (p : Nat) : State :=
  if (s.copying p).any fun c => (s.clu c).copying.any fun x => s.cycles < x.2 then s
  else ((s.copying p).foldl (fun s c => (s.modClu c fun x => { x with copying := [] }).fillSlots c 16) s).done p

/-- A quiesce or a cluster repair goes on, and finishes once every hart it waits for is Saved; a lane repair finishes with
its copy (R353, R354). -/
def settle (s : State) (p : Nat) : State :=
  if !s.busy p then s
  else if s.copying p ≠ [] then s.settleLane p
  else
    let s := s.saveThem p
    if s.toSave p ≠ [] then s
    else
      match (s.part p).repairing with
      | none => (s.modPart p fun x => { x with quiescing := false, state := 3 }).done p
      | some (c, kept) =>
        let s := s.modPart p fun x => { x with repairing := none }
        let s := s.modClu (24 * p + c) fun x => { x with onSpare := true, spares := 2, remapped := [],
                                                           copying := [] }
        (s.resumeThese ((ctxsOf (24 * p + c)).filter fun k => !kept.contains k)).done p

/-- What a partition keeps under the ASIDs of its range leaves every TLB and cache (R353, R286). -/
def dropAsids (s : State) (p : Nat) : State :=
  let mine (a : BitVec 14) : Bool := (s.part p).asidlo ≤ a && a ≤ (s.part p).asidhi
  (List.range 8).foldl (fun s q => s.modPart q fun x =>
    { x with tlb := x.tlb.filter fun e => !mine e.asid, handles := x.handles.filter fun c => !mine c.asid }) s

/-- What reset, power-off and a thermal trip share (R353, R374): every hart ends and its holds drop, the heap and the wait
queues are emptied, and the cached entries are invalidated. The lines of the LLC are memory's bytes. -/
def stopPart (s : State) (p : Nat) : State :=
  let s := ((s.liveIn p).foldl endHart s).dropAsids p
  let s := (List.range 24).foldl (fun s c => s.modClu (24 * p + c) fun x => { x with tokens := [] }) s
  let s := (s.copying p).foldl (fun s c => s.modClu c fun x => { x with copying := [] }) s
  s.modPart p fun x => { x with requests := [], receives := [], quiescing := false, repairing := none }

/-- A partition without clocks keeps its DRAM and nothing else (R357, R374): the scratchpads are lost with the rest. -/
def losePart (s : State) (p : Nat) : State :=
  let s := (List.range 24).foldl (fun s c => s.modClu (24 * p + c) fun x => { x with scratch := [] }) (s.stopPart p)
  { s with bad := s.bad.filter fun l => match l with
      | .scratch c _ => c / 24 ≠ p
      | _ => true }.modPart p fun x => { x with state := 0 }

/-- EPOCH advances and reset flits go out (R346). -/
def newEpoch (s : State) (p : Nat) : State := (s.modPart p fun x => { x with epoch := x.epoch + 1 }).sendResets p

/-- A partition's machine registers at their reset values (R285, R21, R25, R294); the scratchpad and the repairs stay. -/
def resetRegs (s : State) (p : Nat) : State :=
  let s := (List.range 24).foldl (fun s c => s.modClu (24 * p + c) fun x =>
    { x with pw := 0, gangs := [], gates := [] }) s
  s.modPart p fun x => { x with pcap := Part.reset.pcap, tierrate := Part.reset.tierrate, lsbudget := Part.reset.lsbudget,
                                partcfg := Part.reset.partcfg, duty := if x.hot then 4 else 16, mpart := zeroes 64,
                                resetAt := s.cycles, grantAt := 0, state := 1 }

/-- VCORE of a die is in its operating range (R355, R357). -/
def coreUp (s : State) (p : Nat) : Bool := s.pkg.rails.get false (3 + p) && !s.pkg.retention.get false (3 + p)

/-- A lane repair begins (R354): the harts that hold the lane's group are switched out, and the lane maps to a spare. For the
8,192 cycles of the copy no new grant takes the group (R17), and RESULT reads busy. -/
def repairLane (s : State) (p cl lane : Nat) : State :=
  if (s.clu cl).spares = 0 then s.setResult p 3
  else
    let held := (s.actives cl).filter fun k => s.holdsGroup k (lane / 4)
    held.foldl switchOut ((s.setResult p 0).modClu cl fun x =>
      { x with spares := x.spares - 1, remapped := x.remapped ++ [lane], copying := (lane, s.cycles + 8192) :: x.copying })

/-- A cluster repair begins (R354), if the die's spare cluster is free. -/
def repairCluster (s : State) (p cl : Nat) : State :=
  if (List.range 24).any fun c => (s.clu (24 * p + c)).onSpare then s.setResult p 3
  else
    let kept := (ctxsOf (24 * p + cl)).filter fun k => (s.hart k).life = .saved
    (((s.setResult p 0).modPart p fun x => { x with repairing := some (cl, kept) })).settle p

/-! ## Registers of PF0 -/

/-- A decoder's registers (R331): its base, its size and its port, of 8 bytes each, 32 bytes to a decoder from offset
0x8000 on. The spec gives them no place (log 56). -/
def hdmWrite (s : State) (link o : Nat) (b : List Byte) : State :=
  let i := 8 * link + o / 32
  let (base, n, port) := s.pkg.hdm.get (0, 0, 0) i
  let r := overlay (o / 32 * 32) o b (leBytes 8 base ++ leBytes 8 n ++ leBytes 8 port)
  s.modPkg fun x => { x with hdm := x.hdm.set (0, 0, 0) i (leNat (r.take 8), leNat ((r.drop 8).take 8), leNat (r.drop 16) % 8) }

/-- A write to the boot mailbox's plain registers (R358). -/
def mailboxWrite (s : State) (off : Nat) (b : List Byte) : State :=
  let w (base : Nat) (old : Word) : Word := BitVec.ofNat 64 (leNat (overlay base off b (leBytes 8 old.toNat)))
  let closed := (List.range 8).any fun p => (s.part p).state = 2
  s.modPkg fun x =>
    { x with imgaddr := w 0x10 x.imgaddr, imgsize := w 0x18 x.imgsize, attaddr := w 0x20 x.attaddr,
             attmask := w 0x28 x.attmask, nonce := overlay 0x40 off b x.nonce,
             ownerkeys := if closed then x.ownerkeys else
               (List.range 8).foldl (fun t i => t.set (zeroes 32) i (overlay (0x100 + 32 * i) off b (t.get (zeroes 32) i)))
                 x.ownerkeys }

/-- A write to a partition's descriptor (R352): bytes 0 to 63 in STATE 0 or 1 only. A command code that names no command
is refused (R353). -/
def descriptorWrite (s : State) (p off : Nat) (b : List Byte) : State :=
  if !s.inService then s
  else
    let x := s.part p
    let y := x.setDescriptor p (overlay 0 off b x.descriptor)
    let t := if 1 < x.state then s else s.modPart p fun _ => y
    let t := if (t.part p).hbmStacks = x.hbmStacks then t else t.extendCfg
    let cmd := leNat (overlay 64 off b (leBytes 8 (t.part p).cmd.toNat))
    if off < 72 ∧ 64 < off + b.length ∧ (cmd % 16 = 0 ∨ 7 < cmd % 16) then
      (t.modPart p fun x => { x with cmd := BitVec.ofNat 64 cmd }).setResult p 2
    else t

/-! ## What the host reads -/

/-- Bytes of a register file from an offset on; beyond it they are 0. -/
def window (file : List Byte) (off n : Nat) : List Byte := (List.range n).map fun i => file.getD (off + i) 0

/-- The page of VF p + 1 (R335): its counters from 0x1800 on; every other byte reads 0. -/
def heapPageRead (s : State) (p off n : Nat) : List Byte :=
  let x := s.part p
  window (zeroes 0x1800 ++ [x.accepted, x.rejected, x.lastrej, x.msglost].flatMap fun w => leBytes 8 w.toNat) off n

/-- The access-table window (R351), from the first entry on: the entry as it stands, zero for a master number that is
assigned to nothing and beyond the last target. -/
def accessTableRead (s : State) (o : Nat) : Word :=
  let (t, m, e) := (o / 0x20000, o / 128 % 1024, o / 16 % 8)
  let x := s.pkg.acl.get Access.reset (aclKey t m e)
  if 154 ≤ t || !assigned m then 0 else if o % 16 < 8 then x.word0 else x.word1

/-- The descriptor of a partition (R352), its command and status words included. -/
def descriptorRead (s : State) (p off n : Nat) : List Byte :=
  let x := s.part p
  window (x.descriptor ++ leBytes 8 x.cmd.toNat ++ leBytes 8 x.result.toNat ++ leBytes 1 x.state) off n

/-- The error log of a partition (R371): the head count, then the ring, in which record n, counted from 0, takes place n
modulo 63 (log 57). -/
def errorLogRead (s : State) (p off n : Nat) : List Byte :=
  let x := s.part p
  let record (i : Nat) : List Byte :=
    match (List.range 63).find? fun j => j < x.logHead ∧ (x.logHead - 1 - j) % 63 = i with
    | some j => ((x.log[j]?).map LogRecord.bytes).getD (zeroes 32)
    | none => zeroes 32
  window (leBytes 8 x.logHead ++ (List.range 63).flatMap record) off n

/-- A decoder's registers as they read (R331). -/
def hdmRead (s : State) (link o n : Nat) : List Byte :=
  window ((List.range 8).flatMap fun i =>
    let (base, size, port) := s.pkg.hdm.get (0, 0, 0) (8 * link + i)
    leBytes 8 base ++ leBytes 8 size ++ leBytes 8 port ++ zeroes 8) o n

/-! ## Errors that no hart met -/

/-- The words of a stack that hold an error whose SOURCE in a cache, 0 for none, is as asked. -/
def badOf (s : State) (stack : Nat) (which : Nat → Bool) : List Nat := s.bad.filterMap fun l => match l with
  | .phys a => if targetOf a = some stack ∧ which (s.caught.get 0 a) then some a else none
  | _ => none

/-- An uncorrectable error that no hart met logged for the partition that the word's stack is assigned to (R371). Its master
is free. -/
def logUnmet (s : State) (a source : Nat) : State :=
  match (List.range 8).find? fun p => (s.stacksOf p).contains ((targetOf a).getD 16) with
  | none => s
  | some p =>
    let (w, s) := s.draw
    s.logRecord p (BitVec.ofNat 8 source) 1 (w.toNat % 65536) 0xFFFFFFFF (BitVec.ofNat 64 a) 0

end State

/-- HOST_MEM_ACCESS (R334). -/
def execHostMemAccess (fn : BitVec 5) (write : Bool) (addr : BitVec 56) (data : List (BitVec 8)) (s : State) : Out :=
  let inDram := match targetOf addr.toNat, targetOf (addr.toNat + data.length - 1) with
    | some t, some u => t < 16 && u < 16
    | _, _ => false
  .next (if !inDram then s.modPkg fun x => { x with hostStatus := 1 } else s.hostAccess fn.toNat write addr.toNat data)

/-- HOST_TIER_ACCESS (R338): the run lies in the range of one decoder. -/
def execHostTierAccess (fn : BitVec 5) (write : Bool) (addr : BitVec 64) (data : List (BitVec 8)) (s : State) : Out :=
  let refuse := s.modPkg fun x => { x with hostStatus := 1 }
  .next (match s.hdmTarget (fn.toNat / 9) addr.toNat, s.hdmTarget (fn.toNat / 9) (addr.toNat + data.length - 1) with
    | some a, some z => if z = a + data.length - 1 then s.hostAccess fn.toNat write a data else refuse
    | _, _ => refuse)

/-- ACCESS_TABLE_WRITE (R351). -/
def execAccessTableWrite (off : BitVec 32) (wide : Bool) (w0 w1 : BitVec 64) (s : State) : Out :=
  let o := off.toNat - 0x1000000
  let (t, m, e) := (o / 0x20000, o / 128 % 1024, o / 16 % 8)
  let old := s.pkg.acl.get Access.reset (aclKey t m e)
  let new := if wide then Access.ofWords (entryMask t true w0) (entryMask t false w1)
    else if o % 16 = 0 then Access.ofWords (entryMask t true w0) old.word1
    else Access.ofWords old.word0 (entryMask t false w0)
  .next (if s.presented = false ∨ off.toNat < 0x1000000 ∨ 154 ≤ t ∨ !assigned m ∨ (if wide then o % 16 ≠ 0 else o % 8 ≠ 0) then s
    else s.modPkg fun x => { x with acl := x.acl.set Access.reset (aclKey t m e) new })

/-- HOST_REGISTER_WRITE (R352, R358): registers of PF0 that have no row of their own. -/
def execHostRegisterWrite (fn : BitVec 5) (off : BitVec 32) (size : Nat) (val : BitVec 256) (s : State) : Out :=
  let o := off.toNat
  let b := leBytes (min size 32) val.toNat
  .next (if fn.toNat % 9 ≠ 0 || !s.presented then s
    else if o < 0x1000 then s.mailboxWrite o b
    else if 0x8000 ≤ o ∧ o < 0x8100 then s.hdmWrite (fn.toNat / 9) (o - 0x8000) b
    else if 0x10000 ≤ o ∧ o < 0x18000 then s.descriptorWrite ((o - 0x10000) / 0x1000) ((o - 0x10000) % 0x1000) b
    else s)

/-- QUIESCE (R353). -/
def execQuiesce (p : BitVec 3) (s : State) : Out :=
  let n := p.toNat
  .next (s.command n 1 0 0 ((s.part n).state == 2) fun s =>
    ((s.setResult n 0).modPart n fun x => { x with quiescing := true }).settle n)

/-- PARTITION_RESUME (R353). -/
def execPartitionResume (p : BitVec 3) (s : State) : Out :=
  let n := p.toNat
  .next (s.command n 2 0 0 ((s.part n).state == 3) fun s =>
    ((s.modPart n fun x => { x with state := 2 }).resumeThese (s.liveIn n)).done n)

/-- PARTITION_RESET (R353). -/
def execPartitionReset (p : BitVec 3) (s : State) : Out :=
  let n := p.toNat
  .next (s.command n 3 0 0 ((s.part n).state ≠ 0 || s.coreUp n) fun s =>
    (((s.stopPart n).newEpoch n).resetRegs n).done n)

/-- REPAIR_LANE (R354). -/
def execRepairLane (p : BitVec 3) (cl lane : BitVec 5) (s : State) : Out :=
  let n := p.toNat
  .next (s.command n 5 cl.toNat lane.toNat (((s.part n).state == 2 || (s.part n).state == 3) && cl.toNat < 24) fun s =>
    s.repairLane n (24 * n + cl.toNat) lane.toNat)

/-- REPAIR_CLUSTER (R354). -/
def execRepairCluster (p : BitVec 3) (cl : BitVec 5) (s : State) : Out :=
  let n := p.toNat
  .next (s.command n 6 cl.toNat 0 (((s.part n).state == 2 || (s.part n).state == 3) && cl.toNat < 24) fun s =>
    s.repairCluster n cl.toNat)

/-- POWER_OFF (R353). -/
def execPowerOff (p : BitVec 3) (s : State) : Out :=
  let n := p.toNat
  .next (s.command n 7 0 0 ((s.part n).state == 1 || (s.part n).state == 3) fun s =>
    ((s.losePart n).newEpoch n).done n)

/-- DRAM_SCRUB (R367, R371): the uncorrectable words of the stack's DRAM are logged for the partition it is assigned to. -/
def execDramScrub (stack : BitVec 4) (s : State) : Out :=
  .next ((s.badOf stack.toNat fun source => source = 0).foldl (fun s a => s.logUnmet a 6) s)

/-- LLC_SCRUB (R367, R371): the uncorrectable words of the stack's lines in the LLC are logged. -/
def execLlcScrub (stack : BitVec 4) (s : State) : Out :=
  .next ((s.badOf stack.toNat fun source => source = 4).foldl (fun s a => s.logUnmet a 4) s)

end Sys2Proof.Machine
end

