-- ==== Sys2Proof/Machine/Loader.lean ====
section
/-!
DEFINITION. Images (R359, R360) and the loader (R252 to R255, R245, R11).

Where the loader puts an image in virtual and physical memory, how large it makes the handle table and the expert table,
and what STVEC and SFRAME hold, is system software's choice: the values are free. The entry hart's ASID, the handles'
indexes and the contents of the expert table are the model's choice (log 16).
-/

namespace Sys2Proof.Machine

/-- `n` bytes of a list from byte `i` on, as a number. -/
def field (l : List Byte) (i n : Nat) : Nat := leNat ((l.drop i).take n)

/-- `n` bytes of a list from byte `i` on are zero. -/
def zeroField (l : List Byte) (i n : Nat) : Bool := ((l.drop i).take n).all (· == 0)

/-- A header is well formed for its kind, and the image has the size it says (R359, R360). -/
def headerOk (kind : Nat) (img : List Byte) : Bool :=
  field img 0 4 == 0x49465841 && field img 4 2 == 1 && field img 6 1 == kind && zeroField img 7 1 && zeroField img 24 8 &&
    zeroField img 89 7 && zeroField img 210 302 && img.length == 512 + field img 8 8 &&
    (kind ≠ 0 || field img 8 8 ≤ 2 ^ 21 - 512)

/-- The image digest D (R360). -/
def digest (img : List Byte) : List Byte := Shake.shake256 (img.take 96 ++ zeroes 114 ++ img.drop 210) 64

/-- The first check that an image fails, as BOOTSTAT codes it (R358, R360). -/
def imageFault (kind : Nat) (keys : List (List Byte)) (minsvn : Nat) (img : List Byte) : Option Nat :=
  let pub := (img.drop 32).take 57
  if !headerOk kind img then some 8
  else if !keys.contains (Shake.shake256 pub 32) then some 9
  else if !Ed448.valid ((img.drop 96).take 114) (digest img) pub then some 10
  else if kind = 0 ∧ field img 16 4 < minsvn then some 11
  else none

/-! ## Objects -/

/-- A section of an object, placed (R253, R255). -/
structure Section where
  kind : Nat
  va : Nat
  body : List Byte
  deriving DecidableEq, Repr

/-- A symbol (R253). -/
structure Symbol where
  sect : Nat
  value : Nat
  deriving DecidableEq, Repr

/-- A relocation (R253). -/
structure Reloc where
  sect : Nat
  sym : Nat
  off : Nat
  type : Nat
  addend : Int
  deriving DecidableEq, Repr

/-- A handle record (R253). -/
structure HandleRec where
  slot : Nat
  sect : Nat
  start : Nat
  length : Nat
  deriving DecidableEq, Repr

/-- An object (R252, R253): its sections not yet placed, with their alignments. -/
structure Obj where
  sections : List (Section × Nat)
  symbols : List Symbol
  relocs : List Reloc
  handles : List HandleRec
  entrySect : Nat
  entryOff : Nat
  harts : Nat
  deriving DecidableEq, Repr

/-- An object from its bytes, or nothing: the magic or the version differs. DESIGN CHOICE: nothing too where a record or a
section lies outside the file, a section's size is no size of R253, or its kind is above 3, which R255 does not list
(log 16). -/
def Obj.parse (b : List Byte) : Option Obj :=
  let (nsec, nsym, nrel, nh) := (field b 8 4, field b 12 4, field b 16 4, field b 20 4)
  let at1 := 64 + 32 * nsec
  let at2 := at1 + 16 * nsym
  let at3 := at2 + 32 * nrel
  let o : Obj :=
    { sections := (List.range nsec).map fun i =>
        let a := 64 + 32 * i
        ({ kind := field b (a + 4) 1, va := 0, body := (b.drop (field b (a + 16) 8)).take (field b (a + 8) 8) },
          field b (a + 5) 1),
      symbols := (List.range nsym).map fun i => { sect := field b (at1 + 16 * i + 4) 4, value := field b (at1 + 16 * i + 8) 8 },
      relocs := (List.range nrel).map fun i =>
        let a := at2 + 32 * i
        { sect := field b a 4, sym := field b (a + 4) 4, off := field b (a + 8) 8, type := field b (a + 16) 2,
          addend := (BitVec.ofNat 64 (field b (a + 24) 8)).toInt },
      handles := (List.range nh).map fun i =>
        let a := at3 + 16 * i
        { slot := field b a 1, sect := field b (a + 4) 4, start := field b (a + 8) 4, length := field b (a + 12) 4 },
      entrySect := field b 24 4, entryOff := field b 28 4, harts := max 1 (field b 32 4) }
  let whole := (List.range nsec).all fun i =>
    let a := 64 + 32 * i
    field b (a + 16) 8 + field b (a + 8) 8 ≤ b.length && field b (a + 8) 8 < 2 ^ 32 && field b (a + 4) 1 < 4
  if field b 0 4 = 0x73616872 ∧ field b 4 2 = 1 ∧ at3 + 16 * nh ≤ b.length ∧ whole then some o else none

/-- `hi` of R245. -/
def hiPart (x : Int) : Int := (x + 4096) / 8192

/-- `lo` of R245. -/
def loPart (x : Int) : Int := x - hiPart x * 8192

/-- A value in a signed field of `w` bits at the low end of a word, if it fits. -/
def patchLow (w : Nat) (v : Int) (word : Nat) : Option Nat :=
  if -(2 ^ (w - 1) : Int) ≤ v ∧ v < 2 ^ (w - 1) then some (putBits word 0 w (v % 2 ^ w).toNat) else none

/-- `hi` of a value in the range of R245, in IMM19. -/
def patchHi (x : Int) (word : Nat) : Option Nat :=
  if -(2 ^ 31 : Int) - 4096 ≤ x ∧ x ≤ 2 ^ 31 - 4097 then patchLow 19 (hiPart x) word else none

/-- A patched item (R254): its bytes and its new value, or nothing where the value does not fit. DESIGN CHOICE: nothing too for a
type other than 1 to 7, which R255 does not list (log 16). -/
def patchItem (type : Nat) (sa p : Int) (word : Nat) : Option (Nat × Nat) :=
  let d := sa - p
  match type with
  | 1 => if d % 4 = 0 then (patchLow 10 (d / 4) word).map fun w => (4, w) else none
  | 2 => if d % 4 = 0 then (patchLow 19 (d / 4) word).map fun w => (4, w) else none
  | 3 => (patchHi d word).map fun w => (4, w)
  | 4 => (patchLow 13 (loPart d) word).map fun w => (4, w)
  | 5 => (patchHi sa word).map fun w => (4, w)
  | 6 => (patchLow 13 (loPart sa) word).map fun w => (4, w)
  | 7 => if -(2 ^ 63 : Int) ≤ sa ∧ sa < 2 ^ 64 then some (8, (sa % 2 ^ 64).toNat) else none
  | _ => none

/-- A list with the bytes from `i` on replaced. -/
def spliceBytes (l : List Byte) (i : Nat) (b : List Byte) : List Byte := l.take i ++ b ++ l.drop (i + b.length)

/-- One relocation resolved on placed sections (R254, R255). -/
def relocate (syms : List Symbol) (secs : List Section) (r : Reloc) : Option (List Section) :=
  match syms[r.sym]?, secs[r.sect]? with
  | some y, some x =>
    let base : Option Nat := if y.sect = 0xFFFFFFFE then some 0 else (secs[y.sect]?).map (·.va)
    match base with
    | none => none
    | some v =>
      match patchItem r.type ((v + y.value : Nat) + r.addend) (x.va + r.off : Nat) (field x.body r.off 4) with
      | some (n, w) =>
        if r.off + n ≤ x.body.length then
          some (secs.set r.sect { x with body := spliceBytes x.body r.off (leBytes n w) })
        else none
      | none => none
  | _, _ => none

/-- Every relocation resolved. -/
def relocateAll (syms : List Symbol) : List Reloc → List Section → Option (List Section)
  | [], l => some l
  | r :: t, l => match relocate syms l r with
    | some l => relocateAll syms t l
    | none => none

/-- A number up to a multiple of another. -/
def roundUp (n k : Nat) : Nat := (n + k - 1) / k * k

/-- The sections placed one after another with the gaps given, in pages (R255). -/
def placeSections : Nat → List (Section × Nat) → List Nat → List Section
  | _, [], _ => []
  | a, (x, al) :: t, gaps =>
    let va := roundUp (a + 65536 * gaps.headD 0) (max 65536 (2 ^ al))
    { x with va := va } :: placeSections (va + roundUp (max 1 x.body.length) 65536) t (gaps.drop 1)

/-- A placed section lies at addresses that there are: 80 bits of them (R309), and 64 for text, which the pc reaches. -/
def Section.fits (x : Section) : Bool := x.va + x.body.length ≤ if x.kind = 0 then 2 ^ 64 else 2 ^ 80

/-- What the loader refuses (R255), and an entry that lies in no text section (R248). DESIGN CHOICE: it refuses too a handle
record whose slot is above 15 or whose object lies beyond its section, which R255 does not list (log 16). -/
def Obj.refused (o : Obj) : Bool :=
  o.symbols.any (fun y => y.sect ≠ 0xFFFFFFFE && o.sections.length ≤ y.sect) ||
    (dedup (o.handles.map (·.slot))).length ≠ o.handles.length ||
    o.handles.any (fun h => 16 ≤ h.slot || match o.sections[h.sect]? with
      | some x => x.1.body.length < h.start + h.length
      | none => true) ||
    (match o.sections[o.entrySect]? with
     | some x => x.1.kind ≠ 0 || x.1.body.length ≤ o.entryOff
     | none => true)

/-! ## Tables -/

/-- Rights of a leaf: R, W, X and U (R310). -/
def leafRights (r w x : Bool) : Nat := (if r then 8 else 0) + (if w then 16 else 0) + (if x then 32 else 0) + 64

/-- Rights of a section kind (R246). -/
def kindRights (kind : Nat) : Nat := leafRights true (kind = 1) (kind = 0)

namespace State

/-- An entry of a page table written (R310): V, what else word 0 holds, the frame, and the ASID. -/
def putPte (s : State) (table i : Nat) (more frame : Nat) (asid : BitVec 14) : State :=
  s.putRaw (.phys (table + 16 * i)) (leBytes 8 (1 + more + frame * 65536) ++ leBytes 8 asid.toNat)

/-- Physical bytes cleared. -/
def clearRun (s : State) (a n : Nat) : State := { s with mem := s.mem.filter fun x => x.1 < a || a + n ≤ x.1 }

/-- The handle entry of the `i`th handle record (R11, R321): live, global, KEEP, priority 7, one strong hold. Its index is
`i` and its GEN 0 (log 16). -/
def putHandle (s : State) (sp : Space) (secs : List Section) (i : Nat) (h : HandleRec) : State :=
  let base := (match secs[h.sect]? with | some x => x.va | none => 0) + h.start
  s.putRaw (.phys (sp.entryAt (BitVec.ofNat 24 i)))
    (leBytes 8 (2 ^ 44 + 7 * 2 ^ 35 + 1) ++ leBytes 8 1 ++ leBytes 8 base ++ leBytes 8 (base / 2 ^ 64) ++ leBytes 8 h.length)

/-- The slots of an image's handles (R11). -/
def imageSlots (sp : Space) (l : List HandleRec) : Table (Option Binding) :=
  ((List.range l.length).zip l).foldl (fun t x => t.set none x.2.slot
    (some { weak := false, hold := true, gone := false, gen := 0, index := BitVec.ofNat 24 x.1, space := sp, expert := none })) []

/-- Draws, each below a bound. -/
def draws (s : State) (n bound : Nat) : List Nat × State :=
  (List.range n).foldl (fun a _ =>
    let (i, s) := a.2.pick bound
    (a.1 ++ [i], s)) ([], s)

/-- The physical frames of one stack that are populated (R333). -/
def stackFrames : Nat := 48 * 16384

/-- The least LOG whose table has an entry for each of `n` handles (R11). -/
def leastLog (n : Nat) : Nat := ((List.range 25).find? fun k => n ≤ 2 ^ k).getD 25

/-- The page tables of a level, 1 to 5, that the pages of placed sections need, by the address bits above those that index
them (R309). -/
def tablesAt (secs : List Section) (level : Nat) : List Nat :=
  let sh := levelShift (level - 1)
  dedup ((secs.filter (·.body ≠ [])).flatMap fun x =>
    (List.range ((x.va + x.body.length - 1) >>> sh - x.va >>> sh + 1)).map (x.va >>> sh + ·))

/-- The page tables below the root, level by level. -/
def tablesFor (secs : List Section) : List (Nat × Nat) :=
  (List.range 5).flatMap fun i => (tablesAt secs (i + 1)).map (i + 1, ·)

/-- Where the loader puts an image, counting the populated frames of the partition's stacks: its first frame; its page tables,
and how many frames its handle table and its expert table take, with the logs of their sizes; the pages of its sections. -/
structure Room where
  start : Nat
  tables : List (Nat × Nat)
  hlog : Nat
  elog : Nat
  pages : Nat
  deriving DecidableEq, Repr

/-- The frames of its handle table, and of its expert table. -/
def Room.handles (r : Room) : Nat := roundUp (2 ^ (r.hlog + 6)) 65536 / 65536
def Room.experts (r : Room) : Nat := roundUp (2 ^ (r.elog + 5)) 65536 / 65536

/-- The frames of its tables, in this order: the root, the other page tables, the handle table, the expert table. -/
def Room.head (r : Room) : Nat := 1 + r.tables.length + r.handles + r.experts

/-- All its frames: the tables', which lie in one stack, and the pages'. -/
def Room.size (r : Room) : Nat := r.head + r.pages

/-- The clusters of a partition that have room for an image's harts. -/
def roomFor (s : State) (p harts : Nat) : List Nat :=
  (List.range 24).filter fun c => harts ≤ ((ctxsOf (24 * p + c)).filter fun k => (s.hart k).life = .free).length

/-- The physical number of a frame of a partition, counted over its stacks. -/
def frameAt (s : State) (p i : Nat) : Nat := (s.stacksOf p).getD (i / stackFrames) 0 * 2 ^ 20 + i % stackFrames

/-- The room of placed sections, not yet at a frame. -/
def roomOf (secs : List Section) (hlog elog : Nat) : Room :=
  { start := 0, tables := tablesFor secs, hlog := hlog, elog := elog,
    pages := (secs.map fun x => roundUp x.body.length 65536 / 65536).sum }

/-- A room's first frame, a free choice, with its tables in one stack; nothing where the stacks cannot hold it. -/
def settleRoom (s : State) (p : Nat) (secs : List Section) (r : Room) : Option (List Section × Room) × State :=
  if (s.stacksOf p).length * stackFrames < r.size ∨ stackFrames < r.head then (none, s)
  else
    let (i, s) := s.pick ((s.stacksOf p).length * stackFrames - r.size + 1)
    (some (secs, { r with start := if stackFrames < i % stackFrames + r.head then i / stackFrames * stackFrames else i }), s)

/-- The sections placed and relocated, and the room they take in the partition's stacks (R255); nothing where a relocation
does not fit, or where the addresses or the stacks cannot hold them. Every number is a free choice in its range. -/
def placeImage (s : State) (p : Nat) (o : Obj) : Option (List Section × Room) × State :=
  let (first, s) := s.pick 4096
  let (gaps, s) := s.draws o.sections.length 16
  let placed := placeSections (65536 * (first + 1)) o.sections gaps
  match if placed.all Section.fits then relocateAll o.symbols o.relocs placed else none with
  | none => (none, s)
  | some secs =>
    let (hlog, s) := s.pick (25 - leastLog o.handles.length)
    let (elog, s) := s.pick 17
    s.settleRoom p secs (roomOf secs (leastLog o.handles.length + hlog) elog)

/-- An image's address space: ASID ASIDLO (log 16), and its tables in their frames. -/
def imageSpace (s : State) (p : Nat) (r : Room) : Space :=
  let f := s.frameAt p r.start
  let ht := f + 1 + r.tables.length
  { asid := (s.part p).asidlo, ptroot := BitVec.ofNat 64 (65536 * f),
    htbase := BitVec.ofNat 64 (2 ^ 56 * r.hlog + 65536 * ht),
    ertbase := BitVec.ofNat 64 (2 ^ 56 * r.elog + 65536 * (ht + r.handles)) }

/-- The frame of a room's page table: of the root, or of one of `tables`. -/
def Room.tableFrame (r : Room) (f level id : Nat) : Nat := if level = 0 then f else f + 1 + r.tables.idxOf (level, id)

/-- An entry for a virtual page in the table of a level that covers it. -/
def putEntry (s : State) (r : Room) (f : Nat) (asid : BitVec 14) (level va more frame : Nat) : State :=
  s.putPte (65536 * r.tableFrame f level (va >>> levelShift (level - 1))) (bits va (levelShift level) (if level = 0 then 4 else 12))
    more frame asid

/-- A room's page tables, each entered in the one above it. -/
def putTables (s : State) (r : Room) (f : Nat) (asid : BitVec 14) : State :=
  r.tables.foldl (fun s x => s.putEntry r f asid (x.1 - 1) (x.2 <<< levelShift (x.1 - 1)) 0 (r.tableFrame f x.1 x.2)) s

/-- A section copied into its frames, counted from `g` on, and mapped. -/
def putSection (s : State) (p : Nat) (r : Room) (f : Nat) (asid : BitVec 14) (x : Section) (g : Nat) : State :=
  (List.range (roundUp x.body.length 65536 / 65536)).foldl (fun s i =>
    let a := s.frameAt p (g + i)
    ((s.clearRun (65536 * a) 65536).putRaw (.phys (65536 * a)) ((x.body.drop (65536 * i)).take 65536)).putEntry r f asid 5
      (x.va + 65536 * i) (2048 + kindRights x.kind) a) s

/-- Sections copied and mapped in turn. -/
def putSections (s : State) (p : Nat) (r : Room) (f : Nat) (asid : BitVec 14) : List Section → Nat → State
  | [], _ => s
  | x :: t, g => putSections (s.putSection p r f asid x g) p r f asid t (g + roundUp x.body.length 65536 / 65536)

/-- An image's pages, sections and handle table in memory (R255, R11); every entry of its expert table is zero (log 16). -/
def fillImage (s : State) (p : Nat) (o : Obj) (secs : List Section) (r : Room) : State :=
  let sp := s.imageSpace p r
  let f := s.frameAt p r.start
  let s := s.clearRun (65536 * f) (65536 * r.head)
  let s := (s.putTables r f sp.asid).putSections p r f sp.asid secs (r.start + r.head)
  ((List.range o.handles.length).zip o.handles).foldl (fun s x => s.putHandle sp secs x.1 x.2) s

/-- An image's entry hart started (R11), in a free context of a cluster with room for its harts. -/
def startEntry (s : State) (p : Nat) (o : Obj) (secs : List Section) (sp : Space) : State :=
  let free := s.roomFor p o.harts
  let (c, s) := s.pick free.length
  let cl := 24 * p + free.getD c 0
  let ctxs := (ctxsOf cl).filter fun k => (s.hart k).life = .free
  let (j, s) := s.pick ctxs.length
  let k := ctxs.getD j 0
  let (stvec, s) := s.draw
  let (sframe, s) := s.draw
  let pc := (match secs[o.entrySect]? with | some x => x.va | none => 0) + o.entryOff
  let s := s.modClu cl fun x => { x with pw := 0 }
  (s.allocate k { Hart.reset with pc := BitVec.ofNat 64 pc, space := sp, slots := imageSlots sp o.handles,
                                  stvec := stvec &&& ~~~3, sframe := sframe &&& ~~~127 }).start k

/-- The image started in a partition (R255, R11), or nothing where the loader refuses it, which it does too where the
partition has no room for it. -/
def startImage (s : State) (p : Nat) (o : Obj) : Option State :=
  if o.refused || s.roomFor p o.harts = [] || s.stacksOf p = [] || 24 < leastLog o.handles.length then none
  else
    match s.placeImage p o with
    | (none, _) => none
    | (some (secs, r), s) =>
      let sp := s.imageSpace p r
      some (((s.fillImage p o secs r).startEntry p o secs sp).noteSpace p sp |>.modPart p fun x =>
        { x with state := 2, image := (List.range o.handles.length).map fun i => (sp, BitVec.ofNat 24 i) })

/-! ## Reading an image -/

/-- The bytes at a host address, on link 0, as DMA reads them: nothing where they lie outside the host's space or cannot
be read. -/
def hostBytes (s : State) (a n : Nat) : Option (List Byte) :=
  if 2 ^ 53 < a + n ∨ s.badIn [(.phys (2 ^ 54 + a), n)] ≠ [] then none else some (s.raw [(.phys (2 ^ 54 + a), n)])

/-- The load command on a partition (R362): done, or refused. -/
def loadImage (s : State) (p : Nat) : State :=
  let keys := ((List.range 8).map fun i => s.pkg.ownerkeys.get (zeroes 32) i).filter (· ≠ zeroes 32)
  match s.hostBytes s.pkg.imgaddr.toNat s.pkg.imgsize.toNat with
  | none => s.setResult p 2
  | some img =>
    match imageFault 1 keys 0 img, Obj.parse (img.drop 512) with
    | none, some o =>
      match s.startImage p o with
      | some s => (s.modPart p fun x => { x with mpart := extend x.mpart (digest img) }).done p
      | none => s.setResult p 2
    | _, _ => s.setResult p 2

end State

end Sys2Proof.Machine
end

