-- ==== Sys2Proof/Machine/EventsBoot.lean ====
section
/-!
DEFINITION. Bring-up and security: the rails and PERST# (R355 to R357), the boot mailbox's commands (R358 to R361), the
firmware's start (R356), attestation (R364, R365), the load command (R362), and the thermal trip (R374).
-/

namespace Sys2Proof.Machine

namespace State

/-- The rails in power-on order: VAUX 0, VIO 1, VMEM 2, VCORE0 to VCORE7 3 to 10 (R355). -/
def railUp (s : State) (r : Nat) : Bool := s.pkg.rails.get false r

/-- The firmware has started since the package reset: a partition's own bit of TPORTS is set (R352). -/
def started (s : State) (p : Nat) : Bool := (s.part p).tports ≠ 0

/-- A partition is off (R357): the firmware has started, and its STATE is 0. -/
def off (s : State) (p : Nat) : Bool := s.started p && (s.part p).state == 0

/-- A rail is within its range (R355, R357): the retention level is VCORE's range while the die's partition is off. -/
def inRange (s : State) (r : Nat) : Bool := s.railUp r && (!s.pkg.retention.get false r || s.off (r - 3))

/-- Every rail is within its range. -/
def allRails (s : State) : Bool := (List.range 11).all s.inRange

/-- The package reset with one rail gone (R356, R357): every state but the rails', the fuses' and that of the world
outside is as package reset leaves it; host memory and the tier are not the package's. -/
def packageReset (s : State) (rail : Nat) : State :=
  { State.reset with
    pkg := { Package.reset with rails := s.pkg.rails.set false rail false, retention := s.pkg.retention.set false rail false,
                                minsvn := s.pkg.minsvn, raises := s.pkg.raises },
    mem := s.mem.filter fun x => 2 ^ 54 ≤ x.1,
    bad := s.bad.filter fun l => match l with | .phys a => 2 ^ 54 ≤ a | _ => false,
    inbox := s.inbox, sched := s.sched, seq := s.seq, cycles := s.cycles }

/-- A descriptor's defaults, and STATE 1 but for a partition that is off, which leaves STATE 0 through a reset only (R352,
R356, R357). -/
def setDefaults (s : State) (p : Nat) : State :=
  let state := if s.off p then 0 else 1
  s.modPart p fun x =>
    { x with hbmStacks := 3#16 <<< (2 * p), asidlo := BitVec.ofNat 14 (2048 * p), asidhi := BitVec.ofNat 14 (2048 * p + 2047),
             tports := 1#8 <<< p, pools := 0, arenaBase := 0, arenaSize := 0, save := 0, peersBase := 0, state := state,
             resetAt := s.cycles, grantAt := 0 }

/-- What the firmware does as it starts (R356, step 6): it clears the access tables, writes the descriptors' defaults
(R352), extends MCFG where the STACKS change with them (R363), and sets every partition to STATE 1. One that starts again resets
the partitions that run (log 21). -/
def startFirmware (s : State) : State :=
  let owned (s : State) : List (BitVec 16) := (List.range 8).map fun p => (s.part p).hbmStacks
  let t := ((List.range 8).filter fun p => (s.part p).state ≠ 0).foldl (fun s p =>
    ((s.stopPart p).newEpoch p).resetRegs p) s
  let t := (List.range 8).foldl setDefaults (t.modPkg fun x => { x with acl := [] })
  (if owned t = owned s then t else t.extendCfg).modPkg fun x => { x with bootstat := 4 }

/-- The firmware is loaded and is to start. -/
def firmwareDue (s : State) : Bool := s.pkg.bootstat == 3 && s.pkg.clocks

/-- The ROM reads an image into the scratchpad of cluster 0 and checks it (R360). -/
def romLoad (s : State) : State :=
  let refuse (s : State) (n : Nat) : State := s.modPkg fun x => { x with bootstat := n }
  if s.pkg.imgsize.toNat < 512 ∨ 2 ^ 21 < s.pkg.imgsize.toNat then refuse s 8
  else
    match s.hostBytes s.pkg.imgaddr.toNat s.pkg.imgsize.toNat with
    | none => refuse s 12
    | some img =>
      let s := s.putRaw (.scratch 0 0) img
      match imageFault 0 ((List.range 4).filterMap Config.fusedKey) s.pkg.minsvn.toNat img with
      | some n => refuse s n
      | none => s.modPkg fun x => { x with bootstat := 3, mfw := extend x.mfw (digest img), svn := BitVec.ofNat 32 (field img 16 4) }

/-- The 57-byte seed of the identity key (R364). -/
def identitySeed : List Byte :=
  Shake.shake256 ([0x69, 0x64, 0x65, 0x6E, 0x74, 0x69, 0x74, 0x79] ++ leBytes 32 Config.deviceSecret.toNat) 57

/-- The bytes of IDPUB (R358). -/
def idpub : List Byte := Ed448.publicKey identitySeed

/-- The boot mailbox as the host reads it (R358); what only takes writes reads 0. -/
def mailboxRead (s : State) (off n : Nat) : List Byte :=
  window (leBytes 8 s.pkg.bootstat ++ zeroes 0x1F8 ++ leBytes 8 Config.serial.toNat ++ leBytes 8 s.pkg.minsvn.toNat ++ idpub)
    off n

/-- PF0's BAR0 on a link as the host reads it (R331): the boot mailbox (R358), the error log of partition p at 0x4000 + 0x800 p
(R371), the link's decoders (log 56), the descriptors (R352), and the access-table window (R351), which is read in words of 8
bytes. -/
def pf0Read (s : State) (link off n : Nat) : List Byte :=
  if off < 0x1000 then s.mailboxRead off n
  else if 0x4000 ≤ off ∧ off < 0x8000 then s.errorLogRead ((off - 0x4000) / 0x800) ((off - 0x4000) % 0x800) n
  else if 0x8000 ≤ off ∧ off < 0x8100 then s.hdmRead link (off - 0x8000) n
  else if 0x10000 ≤ off ∧ off < 0x18000 then s.descriptorRead ((off - 0x10000) / 0x1000) ((off - 0x10000) % 0x1000) n
  else if 0x1000000 ≤ off then leBytes n (s.accessTableRead (off - 0x1000000)).toNat
  else zeroes n

/-- Bytes 0 to 759 of the report (R365). -/
def reportBody (s : State) : List Byte :=
  let mask := s.pkg.attmask.toNat % 256
  [0x41, 0x58, 0x41, 0x54] ++ leBytes 2 1 ++ leBytes 2 mask ++ leBytes 8 Config.serial.toNat ++ s.pkg.nonce ++ s.pkg.mfw ++
    s.pkg.mcfg ++ ((List.range 8).flatMap fun p => if mask.testBit p then (s.part p).mpart else zeroes 64) ++
    leBytes 4 s.pkg.svn.toNat ++ leBytes 4 s.pkg.minsvn.toNat ++ idpub ++ zeroes 7

/-- The 896 bytes of the report (R365). -/
def report (s : State) : List Byte :=
  let b := s.reportBody
  b ++ Ed448.sign identitySeed (Shake.shake256 b 64) ++ zeroes 22

end State

/-- PARTITION_LOAD (R362). -/
def execPartitionLoad (p : BitVec 3) (s : State) : Out :=
  let n := p.toNat
  .next (s.command n 4 0 0 ((s.part n).state == 1) fun s => s.loadImage n)

/-- LOAD_IMAGE (R358, R360): BOOTCMD 1, which only BOOTSTAT 2 ignores. -/
def execLoadImage (s : State) : Out :=
  .next (if s.pkg.clocks && s.pkg.bootstat ≠ 0 && s.pkg.bootstat ≠ 2 then s.romLoad else s)

/-- COMMIT_SECURITY_VERSION (R361): BOOTCMD 2, while firmware runs. -/
def execCommitSecurityVersion (s : State) : Out :=
  .next (if s.pkg.clocks && (s.pkg.bootstat == 3 || s.pkg.bootstat == 4) && s.pkg.minsvn < s.pkg.svn && s.pkg.raises < 64 then
    (s.modPkg fun x => { x with minsvn := x.svn, raises := x.raises + 1 }).extendCfg else s)

/-- ATTEST (R365): BOOTCMD 3. The registers are read and the report is written in one step. -/
def execAttest (s : State) : Out :=
  .next (if s.pkg.clocks && s.pkg.bootstat ≠ 0 && s.pkg.bootstat ≠ 2 then
    s.noHart fun t => t.store [(.phys (2 ^ 54 + s.pkg.attaddr.toNat % 2 ^ 53), 896)] s.report 0 else s)

/-- RAIL_RAISE (R355, R357): every rail above it in the power-on order must be within its range. -/
def execRailRaise (rail : BitVec 4) (s : State) : Out :=
  let r := rail.toNat
  .next (if 10 < r || !(List.range r).all s.inRange then s
    else s.modPkg fun x => { x with rails := x.rails.set false r true, retention := x.retention.set false r false })

/-- PERST_RELEASE (R356): the boot ROM presents PF0. -/
def execPerstRelease (s : State) : Out :=
  .next (if s.pkg.perst && s.allRails then s.modPkg fun x => { x with perst := false, bootstat := 1 } else s)

/-- RAIL_OUT_OF_RANGE (R356). -/
def execRailOutOfRange (rail : BitVec 4) (s : State) : Out :=
  .next (if s.railUp rail.toNat then s.packageReset rail.toNat else s)

/-- RAIL_REMOVE (R355, R357): a partition that is off gives up its die's VCORE to retention; otherwise rails go in the
reverse of the power-on order, and the package keeps nothing. -/
def execRailRemove (rail : BitVec 4) (s : State) : Out :=
  let r := rail.toNat
  .next (if !s.railUp r then s
    else if 3 ≤ r && s.pkg.clocks && s.off (r - 3) && !s.pkg.retention.get false r then
      s.modPkg fun x => { x with retention := x.retention.set false r true }
    else if (List.range 11).any (fun q => r < q && s.railUp q) then s
    else s.packageReset r)

/-- THERMTRIP (R374): every clock stops, THERMTRIP_N is asserted, and every partition's state is lost as power-off loses
it. -/
def execThermtrip (s : State) : Out :=
  .next (((List.range 8).foldl State.losePart s).modPkg fun x => { x with clocks := false, thermtrip := true })

end Sys2Proof.Machine
end

