-- ==== Sys2Proof/Machine/VecEw.lean ====
section
/-!
DEFINITION. Element-wise arithmetic of two sources: the family of R176 and R177, VCMP, VSEL and VPMUL's product (R172 to
R179), and the kind-tagged forms of K format (R127, R183).
-/

namespace Sys2Proof.Machine

/-- The two-source operations (R176, R177). -/
inductive EwOp where
  | add | sub | mul | mulh | fma | fms | div | rem | min | max | and | or | xor | shl | shrL | shrA | shrAr
  | adds | absd | avg
  deriving DecidableEq, Repr

namespace EwOp

/-- Operations that accept integer kind only (R54). -/
def intOnly : EwOp → Bool
  | mulh | div | rem | and | or | xor | shl | shrL | shrA | shrAr => true
  | _ => false

/-- Operations that read VD (R176). -/
def readsD : EwOp → Bool
  | fma | fms => true
  | _ => false

end EwOp

/-- A product and a term added, exactly (R176). -/
def fmaNum (k : Kind) (rm : RM) (a b d : Num) : Num × Flags :=
  let (p, f) := a.mul b
  let (x, g) := Num.add k rm p d
  (x, f ||| g)

/-- `(x, f)` as an answer. -/
def ansOf (x : Num × Flags) : Ans := .val x.1 x.2

/-- The result of an operation on the values of an element, with w the width of VD's tag (R176, R177). -/
def EwOp.apply (op : EwOp) (k : Kind) (rm : RM) (w : Nat) (a b d : Num) : Ans :=
  let x := a.toInt
  let y := b.toInt
  let u := wrapInt w x
  let t := intValue true w u
  let n := (y % 64).toNat
  match op with
  | .add => ansOf (Num.add k rm a b)
  | .sub => ansOf (Num.add k rm a b.neg)
  | .mul => ansOf (a.mul b)
  | .mulh => .val (.ofInt ((x * y) / 2 ^ w)) 0
  | .fma => ansOf (fmaNum k rm a b d)
  | .fms => ansOf (fmaNum k rm a b d.neg)
  | .div => if y = 0 then .raw (2 ^ w - 1) Flags.dz else .val (.ofInt (x.tdiv y)) 0
  | .rem => if y = 0 then .val a 0 else .val (.ofInt (x - y * x.tdiv y)) 0
  | .min => .val (a.min2 b) 0
  | .max => .val (a.max2 b) 0
  | .and => .raw (u &&& wrapInt w y) 0
  | .or => .raw (u ||| wrapInt w y) 0
  | .xor => .raw (u ^^^ wrapInt w y) 0
  | .shl => .val (.ofInt (x * 2 ^ n)) 0
  | .shrL => .raw (u / 2 ^ n) 0
  | .shrA => .raw (wrapInt w (t / 2 ^ n)) 0
  | .shrAr => .raw (wrapInt w ((2 * t + 2 ^ n) / 2 ^ (n + 1))) 0
  | .adds => ansOf (Num.add k rm a b)
  | .absd => let (v, f) := Num.add k rm a b.neg; .val v.abs f
  | .avg => let (v, f) := Num.add k rm a b; .val (v.scale (-1)) f

/-- An answer with more flags. -/
def Ans.more (a : Ans) (f : Flags) : Ans :=
  match a with
  | .val x g => .val x (f ||| g)
  | .raw b g => .raw b (f ||| g)

namespace State

/-- The entry of VB that each element below G meets (R128, R175): its own, or under a depth suffix the entry of its
segment of VA; none where it lies in no segment (R375). -/
def seconds (s : State) (a : VReg) (e : BitVec 3) : List (Option Nat) :=
  if e = 0 then (List.range s.g).map some
  else (segMap (a.segs s.g ((depthOf e a.depth).getD 0)) s.g).map (·.map (·.1))

/-- A depth suffix beyond VA's stack (R36). -/
def tooDeep (a : VReg) (e : BitVec 3) : Bool := (depthOf e a.depth).isNone

/-- Condition 3 of R174 for an instruction at a depth: more segments than G. -/
def manySegs (s : State) (a : VReg) (d : Nat) : List (Nat × Nat) :=
  if d ≠ 0 ∧ s.g < (a.segs s.g d).length then [(3, d)] else []

/-- Condition 3 for a per-segment operand. -/
def operandLimit (s : State) (a : VReg) (e : BitVec 3) : List (Nat × Nat) :=
  if e = 0 then [] else s.manySegs a ((depthOf e a.depth).getD 0)

/-- The active elements of an instruction with the entry of VB that each meets. -/
def meets (s : State) (a : VReg) (e : BitVec 3) (m : Nat) : List (Nat × Nat) :=
  ((List.range s.g).zip (s.seconds a e)).filterMap fun x => if s.maskBit m x.1 then x.2.map fun j => (x.1, j) else none

/-- Answers written to VD with a descriptor, their flags raised, and on to the next instruction. -/
def finish (s : State) (d : Nat) (desc : VReg) (fit : Num → Nat × Flags) (l : List (Nat × Ans)) : Out :=
  let (r, f) := writeAns (s.vreg d).ty s.rm fit (s.vreg d).bits l
  .next ((s.putVec d r desc).raiseFlags f).adv

/-- The kind of an operation (R54, R176). -/
def kindOp (s : State) (op : EwOp) (d a b : Nat) : Kind :=
  let k := kindOf (s.vreg a).ty (s.vreg b).ty
  if op.readsD then k.join (s.vreg d).ty.kind else k

/-- The fitting of an operation: VADDS saturates (R176). -/
def fitOp (s : State) (op : EwOp) (t : Ty) (k : Kind) : Num → Nat × Flags :=
  if op = .adds then fitSat t k s.rm else s.fitter t k

/-- The answers of an operation over its active elements. -/
def ewAnswers (s : State) (op : EwOp) (d a b : Nat) (e : BitVec 3) (m : Nat) : List (Nat × Ans) :=
  let k := s.kindOp op d a b
  (s.meets (s.vreg a) e m).map fun x =>
    let (p, f) := (s.vreg a).num x.1
    let (q, g) := (s.vreg b).num x.2
    let (r, h) := if op.readsD then (s.vreg d).num x.1 else (.zero, 0)
    (x.1, (op.apply k s.rm (s.vreg d).ty.width p q r).more (f ||| g ||| h))

end State

/-- A two-source element-wise instruction (R176). -/
def ewInstr (op : EwOp) (word : BitVec 32) (c : Bool) (d a b : BitVec 6) (e : BitVec 3) (m : BitVec 2) (s : State) : Out :=
  let (d, a, b) := (d.toNat, a.toNat, b.toNat)
  s.vector c .ew word [d, a, b] (fun s =>
      { tag := op.intOnly && s.kindOp op d a b != .integer, depth := State.tooDeep (s.vreg a) e && e != 0 }) fun s =>
    s.overflow word (s.operandLimit (s.vreg a) e ++ s.stackLimits d (s.vreg a).levels) fun s =>
      s.finish d (s.vreg a) (s.fitOp op (s.vreg d).ty (s.kindOp op d a b)) (s.ewAnswers op d a b e m.toNat)

/-- The condition that a COND field names (R137). -/
def condOf (o : BitVec 3) : Cond :=
  match o.toNat with | 0 => .eq | 1 => .ne | 2 => .lt | 3 => .le | 4 => .gt | 5 => .ge | _ => .nz

/-- A mask register with some of its bits written (R173, R178). -/
def writeMaskBits (r : Nat) (l : List (Nat × Bool)) : Nat :=
  l.foldl (fun r x => putBits r x.1 1 (if x.2 then 1 else 0)) r

/-- Comparison results written to a mask, with their flags. -/
def State.finishMask (s : State) (d : Nat) (l : List (Nat × Bool × Flags)) : Out :=
  let s := s.raiseFlags (l.foldl (fun f x => f ||| x.2.2) 0)
  .next (s.setMask d (writeMaskBits (s.h.m.get 0 d) (l.map fun x => (x.1, x.2.1)))).adv

/-- A comparison of two values read as numbers (R178). -/
def compareNums (o : Cond) (x y : Num × Flags) : Bool × Flags :=
  let (r, f) := Num.compare o x.1 y.1
  (r, f ||| x.2 ||| y.2)

/-- VCMP (R178). -/
def execVcmp (c : Bool) (o d : BitVec 3) (a b : BitVec 6) (e : BitVec 3) (m : BitVec 2) (s : State) : Out :=
  let (na, nb) := (a.toNat, b.toNat)
  let word := encode (.vcmp c o d a b e m)
  s.vector c .ew word [na, nb]
      (fun s => { depth := State.tooDeep (s.vreg na) e && e != 0 }) fun s =>
    s.overflow word (s.operandLimit (s.vreg na) e) fun s =>
      s.finishMask d.toNat ((s.meets (s.vreg na) e m.toNat).map fun x =>
        (x.1, compareNums (condOf o) ((s.vreg na).num x.1) ((s.vreg nb).num x.2)))

/-- VSEL (R179): the mask selects, and only the chosen source is read as a number. -/
def execVsel (c : Bool) (d a b : BitVec 6) (e : BitVec 3) (m : BitVec 2) (s : State) : Out :=
  let (nd, na, nb) := (d.toNat, a.toNat, b.toNat)
  let word := encode (.vsel c d a b e m)
  s.vector c .ew word [nd, na, nb]
      (fun s => { depth := State.tooDeep (s.vreg na) e && e != 0 }) fun s =>
    s.overflow word (s.operandLimit (s.vreg na) e ++ s.stackLimits nd (s.vreg na).levels) fun s =>
      s.finish nd (s.vreg na) (s.fitter (s.vreg nd).ty (kindOf (s.vreg na).ty (s.vreg nb).ty))
        ((s.meets (s.vreg na) e 0).map fun x =>
          (x.1, ansOf (if s.maskBit m.toNat x.1 then (s.vreg na).num x.1 else (s.vreg nb).num x.2)))

/-- VPMUL (R231): VA carries the p8 tag, VB and VD IEEE tags. -/
def execVpmul (c : Bool) (d a b : BitVec 6) (e : BitVec 3) (m : BitVec 2) (s : State) : Out :=
  let (nd, na, nb) := (d.toNat, a.toNat, b.toNat)
  let word := encode (.vpmul c d a b e m)
  s.vector c .ew word [nd, na, nb] (fun s =>
      { tag := (s.vreg na).ty != .p8 || !(s.vreg nb).ty.isFp || !(s.vreg nd).ty.isFp,
        depth := State.tooDeep (s.vreg na) e && e != 0 }) fun s =>
    s.overflow word (s.operandLimit (s.vreg na) e ++ s.stackLimits nd (s.vreg na).levels) fun s =>
      s.finish nd (s.vreg na) (s.fitter (s.vreg nd).ty (s.kindOp .mul nd na nb)) (s.ewAnswers .mul nd na nb e m.toNat)

/-! ## Kind-tagged forms -/

/-- A literal as a value of a tag, with the flags of its one fitting (R127): for a block-scaled tag, alone in a block. -/
def literalNum (t : Ty) (rm : RM) (sat : Bool) (v : Int) : Num × Flags :=
  match t with
  | .q w =>
    let e := chooseScale w [.ofInt v]
    let (k, f) := fitK w rm e (.ofInt v)
    (.ofSigned (intValue true w k) e, f)
  | t =>
    let (b, f) := fitTy t .integer rm sat (.ofInt v)
    ((tyValue t b).1, f)

namespace State

/-- The type of a K-format source: its own for a vector, else the one given (R54). -/
def srcTy (s : State) (p : BitVec 2) (n : BitVec 6) (t : Ty) : Ty := if p = 0 then (s.vreg n.toNat).ty else t

/-- A word's value in a type, as a scalar source (R51, R182), and the flags of reading it. -/
def wordNum (t : Ty) (w : Word) : Num × Flags :=
  let (x, f) := match t with
    | .q _ => (Num.ofInt w.toInt, 0)
    | t => tyValue t (bits w.toNat 0 t.width)
  (x, f ||| x.readNv)

/-- The value of element i of a K-format source under the type of its scalars (R127). -/
def srcNum (s : State) (p : BitVec 2) (n : BitVec 6) (t : Ty) (i : Nat) : Num × Flags :=
  match p.toNat with
  | 0 => (s.vreg n.toNat).num i
  | 1 => wordNum t (s.rd n)
  | 2 => wordNum t (s.h.c.get 0 n.toNat)
  | _ => ((literalNum t s.rm s.sat n.toInt).1, 0)

/-- The flags of a literal's fitting, set once (R127). -/
def srcFlags (s : State) (p : BitVec 2) (n : BitVec 6) (t : Ty) : Flags :=
  if p = 3 then (literalNum t s.rm s.sat n.toInt).2 else 0

/-- The vector registers among the sources of a K-format instruction. -/
def srcRegs (p q : BitVec 2) (a b : BitVec 6) : List Nat :=
  (if p = 0 then [a.toNat] else []) ++ (if q = 0 then [b.toNat] else [])

/-- The descriptor of a VK result: that of the first vector source, else VD's own (R39). -/
def vkDesc (s : State) (d : Nat) (p q : BitVec 2) (a b : BitVec 6) : VReg :=
  if p = 0 then s.vreg a.toNat else if q = 0 then s.vreg b.toNat else s.vreg d

/-- The kind of a VK instruction (R54, R176). -/
def vkKind (s : State) (op : EwOp) (d : Nat) (p q : BitVec 2) (a b : BitVec 6) : Kind :=
  let t := (s.vreg d).ty
  let k := kindOf (s.srcTy p a t) (s.srcTy q b t)
  if op.readsD then k.join t.kind else k

/-- The answers of a VK operation over its active elements. DESIGN CHOICE: those are all that R183 names, whatever the stack
of a vector source covers (R127, log 71). -/
def vkAnswers (s : State) (op : EwOp) (d : Nat) (p q : BitVec 2) (a b : BitVec 6) : List (Nat × Ans) :=
  let t := (s.vreg d).ty
  let k := s.vkKind op d p q a b
  (s.active s.dm).map fun i =>
    let (x, f) := s.srcNum p a t i
    let (y, g) := s.srcNum q b t i
    let (z, h) := if op.readsD then (s.vreg d).num i else (.zero, 0)
    (i, (op.apply k s.rm t.width x y z).more (f ||| g ||| h))

end State

/-- A kind-tagged instruction (R183). DESIGN CHOICE: a stack that VD keeps, where no source is a vector, is held against its
limits like one that it takes (R37, R39, log 72). -/
def vkInstr (op : EwOp) (word : BitVec 32) (c : Bool) (d : BitVec 6) (p : BitVec 2) (a : BitVec 6) (q : BitVec 2)
    (b : BitVec 6) (s : State) : Out :=
  let nd := d.toNat
  s.vector c .ew word (nd :: State.srcRegs p q a b) (fun _ => {}) fun s =>
    let desc := s.vkDesc nd p q a b
    let t := (s.vreg nd).ty
    s.overflow word (s.stackLimits nd desc.levels) fun s =>
      (s.raiseFlags (s.srcFlags p a t ||| s.srcFlags q b t)).finish nd desc (s.fitter t (s.vkKind op nd p q a b))
        (s.vkAnswers op nd p q a b)

/-- VSELK (R183). -/
def execVselk (c : Bool) (d : BitVec 6) (p : BitVec 2) (a : BitVec 6) (q : BitVec 2) (b : BitVec 6) (s : State) : Out :=
  let nd := d.toNat
  let word := encode (.vselk c d p a q b)
  s.vector c .ew word (nd :: State.srcRegs p q a b) (fun _ => {}) fun s =>
    let desc := s.vkDesc nd p q a b
    let t := (s.vreg nd).ty
    s.overflow word (s.stackLimits nd desc.levels) fun s =>
      (s.raiseFlags (s.srcFlags p a t ||| s.srcFlags q b t)).finish nd desc (s.fitter t (s.vkKind .add nd p q a b))
        ((List.range s.g).map fun i => (i, ansOf (if s.maskBit s.dm i then s.srcNum p a t i else s.srcNum q b t i)))

/-- VCMPK (R183): a source that is no vector takes the other's tag. -/
def execVcmpk (c : Bool) (o d : BitVec 3) (p : BitVec 2) (a : BitVec 6) (q : BitVec 2) (b : BitVec 6) (s : State) : Out :=
  s.vector c .ew (encode (.vcmpk c o d p a q b)) (State.srcRegs p q a b) (fun _ => { tag := p != 0 && q != 0 }) fun s =>
    let t := (s.vreg (if p = 0 then a else b).toNat).ty
    (s.raiseFlags (s.srcFlags p a t ||| s.srcFlags q b t)).finishMask d.toNat ((s.active s.dm).map fun i =>
      (i, compareNums (condOf o) (s.srcNum p a t i) (s.srcNum q b t i)))

/-! ## The instructions of one form -/

/-- VADD (R176). -/
def execVadd (c : Bool) (d a b : BitVec 6) (e : BitVec 3) (m : BitVec 2) (s : State) : Out :=
  ewInstr .add (encode (.vadd c d a b e m)) c d a b e m s

/-- VSUB (R176). -/
def execVsub (c : Bool) (d a b : BitVec 6) (e : BitVec 3) (m : BitVec 2) (s : State) : Out :=
  ewInstr .sub (encode (.vsub c d a b e m)) c d a b e m s

/-- VMUL (R176). -/
def execVmul (c : Bool) (d a b : BitVec 6) (e : BitVec 3) (m : BitVec 2) (s : State) : Out :=
  ewInstr .mul (encode (.vmul c d a b e m)) c d a b e m s

/-- VMULH (R176). -/
def execVmulh (c : Bool) (d a b : BitVec 6) (e : BitVec 3) (m : BitVec 2) (s : State) : Out :=
  ewInstr .mulh (encode (.vmulh c d a b e m)) c d a b e m s

/-- VFMA (R176). -/
def execVfma (c : Bool) (d a b : BitVec 6) (e : BitVec 3) (m : BitVec 2) (s : State) : Out :=
  ewInstr .fma (encode (.vfma c d a b e m)) c d a b e m s

/-- VFMS (R176). -/
def execVfms (c : Bool) (d a b : BitVec 6) (e : BitVec 3) (m : BitVec 2) (s : State) : Out :=
  ewInstr .fms (encode (.vfms c d a b e m)) c d a b e m s

/-- VDIV (R176). -/
def execVdiv (c : Bool) (d a b : BitVec 6) (e : BitVec 3) (m : BitVec 2) (s : State) : Out :=
  ewInstr .div (encode (.vdiv c d a b e m)) c d a b e m s

/-- VREM (R176). -/
def execVrem (c : Bool) (d a b : BitVec 6) (e : BitVec 3) (m : BitVec 2) (s : State) : Out :=
  ewInstr .rem (encode (.vrem c d a b e m)) c d a b e m s

/-- VMIN (R176). -/
def execVmin (c : Bool) (d a b : BitVec 6) (e : BitVec 3) (m : BitVec 2) (s : State) : Out :=
  ewInstr .min (encode (.vmin c d a b e m)) c d a b e m s

/-- VMAX (R176). -/
def execVmax (c : Bool) (d a b : BitVec 6) (e : BitVec 3) (m : BitVec 2) (s : State) : Out :=
  ewInstr .max (encode (.vmax c d a b e m)) c d a b e m s

/-- VAND (R176). -/
def execVand (c : Bool) (d a b : BitVec 6) (e : BitVec 3) (m : BitVec 2) (s : State) : Out :=
  ewInstr .and (encode (.vand c d a b e m)) c d a b e m s

/-- VOR (R176). -/
def execVor (c : Bool) (d a b : BitVec 6) (e : BitVec 3) (m : BitVec 2) (s : State) : Out :=
  ewInstr .or (encode (.vor c d a b e m)) c d a b e m s

/-- VXOR (R176). -/
def execVxor (c : Bool) (d a b : BitVec 6) (e : BitVec 3) (m : BitVec 2) (s : State) : Out :=
  ewInstr .xor (encode (.vxor c d a b e m)) c d a b e m s

/-- VSHL (R176). -/
def execVshl (c : Bool) (d a b : BitVec 6) (e : BitVec 3) (m : BitVec 2) (s : State) : Out :=
  ewInstr .shl (encode (.vshl c d a b e m)) c d a b e m s

/-- VSHR_L (R177). -/
def execVshrL (c : Bool) (d a b : BitVec 6) (e : BitVec 3) (m : BitVec 2) (s : State) : Out :=
  ewInstr .shrL (encode (.vshrL c d a b e m)) c d a b e m s

/-- VSHR_A (R177). -/
def execVshrA (c : Bool) (d a b : BitVec 6) (e : BitVec 3) (m : BitVec 2) (s : State) : Out :=
  ewInstr .shrA (encode (.vshrA c d a b e m)) c d a b e m s

/-- VSHR_AR (R177). -/
def execVshrAr (c : Bool) (d a b : BitVec 6) (e : BitVec 3) (m : BitVec 2) (s : State) : Out :=
  ewInstr .shrAr (encode (.vshrAr c d a b e m)) c d a b e m s

/-- VADDS (R176). -/
def execVadds (c : Bool) (d a b : BitVec 6) (e : BitVec 3) (m : BitVec 2) (s : State) : Out :=
  ewInstr .adds (encode (.vadds c d a b e m)) c d a b e m s

/-- VABSD (R176). -/
def execVabsd (c : Bool) (d a b : BitVec 6) (e : BitVec 3) (m : BitVec 2) (s : State) : Out :=
  ewInstr .absd (encode (.vabsd c d a b e m)) c d a b e m s

/-- VAVG (R176). -/
def execVavg (c : Bool) (d a b : BitVec 6) (e : BitVec 3) (m : BitVec 2) (s : State) : Out :=
  ewInstr .avg (encode (.vavg c d a b e m)) c d a b e m s

/-- VADDK (R183). -/
def execVaddk (c : Bool) (d : BitVec 6) (p : BitVec 2) (a : BitVec 6) (q : BitVec 2) (b : BitVec 6) (s : State) : Out :=
  vkInstr .add (encode (.vaddk c d p a q b)) c d p a q b s

/-- VSUBK (R183). -/
def execVsubk (c : Bool) (d : BitVec 6) (p : BitVec 2) (a : BitVec 6) (q : BitVec 2) (b : BitVec 6) (s : State) : Out :=
  vkInstr .sub (encode (.vsubk c d p a q b)) c d p a q b s

/-- VMULK (R183). -/
def execVmulk (c : Bool) (d : BitVec 6) (p : BitVec 2) (a : BitVec 6) (q : BitVec 2) (b : BitVec 6) (s : State) : Out :=
  vkInstr .mul (encode (.vmulk c d p a q b)) c d p a q b s

/-- VFMAK (R183). -/
def execVfmak (c : Bool) (d : BitVec 6) (p : BitVec 2) (a : BitVec 6) (q : BitVec 2) (b : BitVec 6) (s : State) : Out :=
  vkInstr .fma (encode (.vfmak c d p a q b)) c d p a q b s

/-- VMINK (R183). -/
def execVmink (c : Bool) (d : BitVec 6) (p : BitVec 2) (a : BitVec 6) (q : BitVec 2) (b : BitVec 6) (s : State) : Out :=
  vkInstr .min (encode (.vmink c d p a q b)) c d p a q b s

/-- VMAXK (R183). -/
def execVmaxk (c : Bool) (d : BitVec 6) (p : BitVec 2) (a : BitVec 6) (q : BitVec 2) (b : BitVec 6) (s : State) : Out :=
  vkInstr .max (encode (.vmaxk c d p a q b)) c d p a q b s

end Sys2Proof.Machine
end

