-- ==== Sys2Proof/Machine/Matrix.lean ====
section
/-!
DEFINITION. MMAC (R67, R226 to R228) and VRAND (R238).
-/

namespace Sys2Proof.Machine

/-- The kind that a pair of A and B tags selects (R227). -/
inductive MacKind where
  | float | integer | exact
  deriving DecidableEq, Repr

/-- The row of R227 that a pair of tags selects, with the C tags it accepts. -/
def macRow (a b : Ty) : Option (MacKind × (Ty → Bool)) :=
  let half := fun t => t == .fp .f16 || t == .fp .bf16
  let f32 := fun t => t == .fp .f32
  if a = .fp .f64 ∧ b = .fp .f64 then some (.float, fun t => t == .fp .f64)
  else if a = .fp .f32 ∧ b = .fp .f32 then some (.float, fun t => t == .fp .f32 || t == .fp .f64)
  else if (half a ∨ a = .p8) ∧ half b then some (.float, f32)
  else if a.isInt ∧ !a.isWide ∧ b.isInt ∧ !b.isWide then some (.integer, fun t => t == .int true 32 false)
  else if a.isQ ∧ b.isQ then some (.exact, f32)
  else none

/-- The exact sum of c and products, with its special values and flags (R67). `l` gives the contributing pairs. -/
def macSum (float : Bool) (rm : RM) (c : Num) (l : List (Num × Num)) : Num × Flags :=
  let prods := l.map fun x => x.1.mul x.2
  let fl := prods.foldl (fun f p => f ||| p.2) 0
  let terms := c :: prods.map (·.1)
  let plus := terms.contains (.inf false)
  let minus := terms.contains (.inf true)
  let fl := fl ||| Flags.when_ (plus && minus) Flags.nv
  if terms.any Num.isNan || (plus && minus) then (.nan false, fl)
  else if plus then (.inf false, fl)
  else if minus then (.inf true, fl)
  else
    let sum := terms.foldl (fun a x => (Num.add .integer rm a x).1) .zero
    if !sum.isZero then (sum, fl)
    else if !float then (.zero, fl)
    else
      let allNeg := terms.all fun x => x.isZero && x.isNeg
      let allPos := terms.all fun x => x.isZero && !x.isNeg
      (.fin (allNeg || (rm == .rdn && !allPos)) 0 0, fl)

/-- One element of C with a contributing term (R228): its bits and the flags. -/
def macElem (k : MacKind) (rm : RM) (t : Ty) (c : Num × Flags) (l : List ((Num × Flags) × (Num × Flags))) : Nat × Flags :=
  let read := l.foldl (fun f x => f ||| x.1.2 ||| x.2.2) c.2
  let (x, f) := macSum (k == .float) rm c.1 (l.map fun y => (y.1.1, y.2.1))
  match k with
  | .integer => (wrapInt t.width x.toInt, 0)
  | _ => let (b, g) := fitTy t (.float .f64) rm false x; (b, read ||| f ||| g)

namespace State

/-- The C registers: vd + t·VLR + i (R226). -/
def macC (s : State) (d n : Nat) : List Nat := (List.range (n * s.h.vlr)).map (d + ·)

/-- Every register MMAC names or reaches (R126, R226). -/
def macRegs (s : State) (d a b n : Nat) : List Nat :=
  d :: ((List.range 8).map (b + ·) ++ (List.range n).map (a + ·) ++ s.macC d n)

/-- What makes MMAC illegal (R226, R227). -/
def badMac (s : State) (d a b n : Nat) : Illegal :=
  let ab := (List.range 8).map (b + ·) ++ (List.range n).map (a + ·)
  let one (l : List Nat) (r : Nat) : Bool := l.all fun x => (s.vreg x).tag == (s.vreg r).tag
  { reg := b % 8 ≠ 0 || (s.macC d n).any ab.contains,
    tag := !(one ((List.range 8).map (b + ·)) b && one ((List.range n).map (a + ·)) a) ||
      match macRow (s.vreg a).ty (s.vreg b).ty with
      | none => true
      | some x => (s.macC d n).any fun r => !x.2 (s.vreg r).ty }

/-- MMAC's reading of R30 (R226). -/
def shortMac (s : State) (d a b n : Nat) : Bool :=
  8 < s.h.vlr || ((List.range n).any fun t => s.capacity (a + t) < 8 * s.h.vlr) ||
    (((List.range 8).map (b + ·)) ++ s.macC d n).any fun r => s.capacity r < s.h.vlc

/-- One C register updated from row i of repetition t (R228). With no contributing term it is unchanged. An active p8
element of A that is no number sets NV whatever the columns. -/
def macRow_ (s : State) (k : MacKind) (d a b t i m : Nat) : State :=
  let r := d + t * s.h.vlr + i
  let ks := (List.range 8).filter fun k => s.maskBit s.dm (8 * i + k)
  let cols := if ks = [] then [] else (List.range s.h.vlc).filter (s.maskBit m)
  let ty := (s.vreg r).ty
  let codes := if (s.vreg (a + t)).ty = .p8 ∧ 0 < s.h.vlc then
    ks.foldl (fun f q => f ||| ((s.vreg (a + t)).num (8 * i + q)).2) 0 else 0
  let els := cols.map fun j => (j, macElem k s.rm ty ((s.vreg r).num j)
    (ks.map fun q => ((s.vreg (a + t)).num (8 * i + q), (s.vreg (b + q)).num j)))
  (s.setVreg r { s.vreg r with bits := writeBits ty (s.vreg r).bits (els.map fun x => (x.1, x.2.1)) }).raiseFlags
    (els.foldl (fun f x => f ||| x.2.2) codes)

/-- Every repetition and row of an MMAC, in order. -/
def macAll (s : State) (k : MacKind) (d a b n m : Nat) : State :=
  (List.range n).foldl (fun s t => (List.range s.h.vlr).foldl (fun s i => s.macRow_ k d a b t i m) s) s

end State

/-- MMAC (R228). -/
def execMmac (c : Bool) (d a b : BitVec 6) (e : BitVec 3) (m : BitVec 2) (s : State) : Out :=
  let (nd, na, nb, n) := (d.toNat, a.toNat, b.toNat, e.toNat + 1)
  s.issue c .mx (encode (.mmac c d a b e m)) (fun s => s.macRegs nd na nb n) (fun s => s.badMac nd na nb n)
      (fun s => s.shortMac nd na nb n) fun s =>
    match macRow (s.vreg na).ty (s.vreg nb).ty with
    | none => .next s.adv
    | some x => .next (s.macAll x.1 nd na nb n m.toNat).adv

/-! ## VRAND -/

/-- The 64 random bits of an element (R238). -/
def randBits (k b : Word) (i : Nat) : Word :=
  let z := k + (b + BitVec.ofNat 64 i + 1) * 0x9E3779B97F4A7C15#64
  let z := (z ^^^ (z >>> 30)) * 0xBF58476D1CE4E5B9#64
  let z := (z ^^^ (z >>> 27)) * 0x94D049BB133111EB#64
  z ^^^ (z >>> 31)

/-- The element of a tag that 64 random bits give (R238). -/
def randElem (t : Ty) (z : Word) : Nat :=
  match t with
  | .fp f =>
    let keep := f.frac + 1
    (fitFp f .rne (.ofSigned ((z.toNat >>> (64 - keep) : Nat) : Int) (-(keep : Int)))).1
  | t => bits z.toNat 0 t.width

/-- VRAND (R238). -/
def execVrand (c : Bool) (d a : BitVec 6) (s : State) : Out :=
  let nd := d.toNat
  s.vector c .sf (encode (.vrand c d a)) [nd] (fun s =>
      { reg := a == 63, tag := (s.vreg nd).ty == .p8 || (s.vreg nd).ty.isQ }) fun s =>
    let t := (s.vreg nd).ty
    s.finish nd VReg.reset (s.fitter t .integer) ((s.active s.dm).map fun i =>
      (i, .raw (randElem t (randBits (s.rd a) (s.rd (a + 1)) i)) 0))

end Sys2Proof.Machine
end

