-- ==== Sys2Proof/Machine/Move.lean ====
section
/-!
DEFINITION. Moves between elements: VSLIDE and VXL (R49, R185 to R187), and the mask operations of VMSK (R184).

With a qW tag on VA or VD, positions, amounts and indices count blocks of 64 elements; the mask bit and the index of
block j are those of element 64j, as R49, R187 and R200 have them.
-/

namespace Sys2Proof.Machine

/-- The element that moves to a destination position: a source element, or zero of VD's tag. -/
abbrev Moves := List (Nat × Option Nat)

/-- The moves with one source for each destination: the last in the list (R187). -/
def lastWins : Moves → Moves
  | [] => []
  | x :: l => if l.any fun y => y.1 = x.1 then lastWins l else x :: lastWins l

/-- A move of blocks as moves of their elements. -/
def expandBlocks (l : Moves) : Moves :=
  l.flatMap fun x => (List.range 64).map fun e => (64 * x.1 + e, x.2.map fun b => 64 * b + e)

/-- A whole block of a register's bits copied: scale word and slice words (R49). DESIGN CHOICE: bytes 1 to 7 of the scale
word come from the source as they stand there (log 69). -/
def copyBlock (t : Ty) (src r b b' : Nat) : Nat :=
  let w := 8 * t.blockBytes
  putBits r (b * w) w (bits src (b' * w) w)

namespace State

/-- The answer of a move: bits unchanged between equal tags, a fitted value otherwise (R185). DESIGN CHOICE: p8 bits that
pass unchanged raise no NV (log 70). -/
def moved (s : State) (d a : Nat) (src : Option Nat) : Ans :=
  match src with
  | none => .val .zero 0
  | some i => if (s.vreg a).tag = (s.vreg d).tag then .raw ((s.vreg a).ty.get (s.vreg a).bits i) 0
              else ansOf ((s.vreg a).num i)

/-- Elements moved from VA to VD with a descriptor for VD. -/
def finishMoves (s : State) (d a : Nat) (desc : VReg) (l : Moves) : Out :=
  s.finish d desc (s.fitter (s.vreg d).ty (s.vreg a).ty.kind) ((lastWins l).map fun x => (x.1, s.moved d a x.2))

/-- Blocks moved from VA to VD: as they stand between equal block-scaled tags, tail elements of the last block included
(R49, log 54); element by element otherwise, those below G from sources below G (R30, R185). -/
def finishBlocks (s : State) (d a : Nat) (desc : VReg) (l : Moves) : Out :=
  let t := (s.vreg d).ty
  if t.isQ ∧ (s.vreg a).tag = (s.vreg d).tag then
    let zero := (lastWins l).filter fun x => x.2.isNone
    let (r, _) := writeAns t s.rm (s.fitter t .exact) (s.vreg d).bits ((expandBlocks zero).map fun x => (x.1, .val .zero 0))
    let r := (lastWins l).foldl (fun r x =>
      match x.2 with | some b => copyBlock t (s.vreg a).bits r x.1 b | none => r) r
    .next (s.putVec d r desc).adv
  else s.finishMoves d a desc ((expandBlocks (lastWins l)).filter fun x => x.1 < s.g && x.2.all (· < s.g))

/-- Whether a move counts blocks (R185). -/
def byBlocks (s : State) (d a : Nat) : Bool := (s.vreg a).ty.isQ || (s.vreg d).ty.isQ

/-- The blocks of the grant. -/
def gBlocks (s : State) : Nat := (s.g + 63) / 64

/-- The positions an instruction moves at a depth of VA: the element, its position, and its segment's first element and
length; one segment of blocks where blocks move. -/
def positions (s : State) (d a : Nat) (e : BitVec 3) : List (Nat × Nat × Nat × Nat) :=
  if s.byBlocks d a then (List.range s.gBlocks).map fun j => (j, j, 0, s.gBlocks)
  else
    let segs := (s.vreg a).segs s.g ((depthOf e (s.vreg a).depth).getD 0)
    ((List.range s.g).zip (segMap segs s.g)).filterMap fun x => x.2.map fun jp =>
      (x.1, jp.2, x.1 - jp.2, (segs.getD jp.1 (0, 0)).2)

/-- The mask bit that governs a position. -/
def posMask (s : State) (d a m i : Nat) : Bool := s.maskBit m (if s.byBlocks d a then 64 * i else i)

/-- A position of a segment as an element, if it exists there and lies below G. -/
def place (s : State) (d a first n : Nat) (x : Int) : Option Nat :=
  let top := if s.byBlocks d a then s.gBlocks else s.g
  if 0 ≤ x ∧ x < n ∧ first + x.toNat < top then some (first + x.toNat) else none

/-- The descriptor that a move at a depth gives VD: VA's, or depth 0 (R39). -/
def moveDesc (s : State) (a : Nat) (e : BitVec 3) : VReg :=
  if (depthOf e (s.vreg a).depth).getD 0 = 0 then VReg.reset else s.vreg a

/-- The index that a position takes from VB, signed for i tags. -/
def indexOf (s : State) (d a b i : Nat) : Int :=
  ((s.vreg b).num (if s.byBlocks d a then 64 * i else i)).1.toInt

/-- The moves written, by blocks or by elements. -/
def finishAny (s : State) (d a : Nat) (desc : VReg) (l : Moves) : Out :=
  if s.byBlocks d a then s.finishBlocks d a desc l else s.finishMoves d a desc l

/-- What a moving instruction rejects: block-scaled tags at a depth (R185), an index tag that is no integer (R187), and a
depth beyond VA's stack. -/
def badMove (s : State) (d a : Nat) (e : BitVec 3) (index : Option Nat) : Illegal :=
  { tag := (s.byBlocks d a && e != 0) || (match index with | some b => !(s.vreg b).ty.isInt | none => false),
    depth := tooDeep (s.vreg a) e }

end State

/-- A slide (R186): for an active position p, the source is at `src p`. -/
def slide (src : Int → Int → Int) (word : BitVec 32) (c : Bool) (d a b : BitVec 6) (e : BitVec 3) (m : BitVec 2)
    (s : State) : Out :=
  let (nd, na) := (d.toNat, a.toNat)
  s.vector c .xl word [nd, na] (fun s => s.badMove nd na e none) fun s =>
    s.overflow word (s.stackLimits nd (s.vreg na).levels) fun s =>
      s.finishAny nd na (s.vreg na) ((s.positions nd na e).filterMap fun x =>
        if s.posMask nd na m.toNat x.1 then
          (s.place nd na x.2.2.1 x.2.2.2 (src x.2.1 (s.rd b).toNat)).map fun y => (x.1, some y)
        else none)

/-- VSLIDE_UP (R186). -/
def execVslideUp (c : Bool) (d a b : BitVec 6) (e : BitVec 3) (m : BitVec 2) (s : State) : Out :=
  slide (· - ·) (encode (.vslideUp c d a b e m)) c d a b e m s

/-- VSLIDE_DN (R186). -/
def execVslideDn (c : Bool) (d a b : BitVec 6) (e : BitVec 3) (m : BitVec 2) (s : State) : Out :=
  slide (· + ·) (encode (.vslideDn c d a b e m)) c d a b e m s

/-- VGATHERR (R187). -/
def execVgatherr (c : Bool) (d a b : BitVec 6) (e : BitVec 3) (m : BitVec 2) (s : State) : Out :=
  let (nd, na, nb) := (d.toNat, a.toNat, b.toNat)
  let word := encode (.vgatherr c d a b e m)
  s.vector c .xl word [nd, na, nb] (fun s => s.badMove nd na e (some nb)) fun s =>
    let desc := s.moveDesc na e
    s.overflow word (s.stackLimits nd desc.levels) fun s =>
      s.finishAny nd na desc ((s.positions nd na e).filterMap fun x =>
        if s.posMask nd na m.toNat x.1 then
          some (x.1, s.place nd na x.2.2.1 x.2.2.2 (s.indexOf nd na nb x.1))
        else none)

/-- VPUSHL (R187): the source of highest index wins a position. -/
def execVpushl (c : Bool) (d a b : BitVec 6) (e : BitVec 3) (m : BitVec 2) (s : State) : Out :=
  let (nd, na, nb) := (d.toNat, a.toNat, b.toNat)
  let word := encode (.vpushl c d a b e m)
  s.vector c .xl word [nd, na, nb] (fun s => s.badMove nd na e (some nb)) fun s =>
    let desc := s.moveDesc na e
    s.overflow word (s.stackLimits nd desc.levels) fun s =>
      s.finishAny nd na desc ((s.positions nd na e).filterMap fun x =>
        if s.posMask nd na m.toNat x.1 then
          (s.place nd na x.2.2.1 x.2.2.2 (s.indexOf nd na nb x.1)).map fun y => (y, some x.1)
        else none)

/-- VPERMB (R187): blocks of 64 elements for every tag. -/
def execVpermb (c : Bool) (d a b : BitVec 6) (m : BitVec 2) (s : State) : Out :=
  let (nd, na, nb) := (d.toNat, a.toNat, b.toNat)
  s.vector c .xl (encode (.vpermb c d a b m)) [nd, na, nb] (fun s => s.badMove nd na 0 (some nb)) fun s =>
    s.finishBlocks nd na VReg.reset ((List.range s.gBlocks).filterMap fun j =>
      if s.maskBit m.toNat (64 * j) then
        let x := ((s.vreg nb).num (64 * j)).1.toInt
        if 0 ≤ x ∧ x < s.gBlocks then some (j, some x.toNat) else none
      else none)

/-- VREV (R187). -/
def execVrev (c : Bool) (d a : BitVec 6) (e : BitVec 3) (m : BitVec 2) (s : State) : Out :=
  let (nd, na) := (d.toNat, a.toNat)
  let word := encode (.vrev c d a e m)
  s.vector c .xl word [nd, na] (fun s => s.badMove nd na e none) fun s =>
    let desc := s.moveDesc na e
    s.overflow word (s.stackLimits nd desc.levels) fun s =>
      s.finishAny nd na desc ((s.positions nd na e).filterMap fun x =>
        if s.posMask nd na m.toNat x.1 then
          (s.place nd na x.2.2.1 x.2.2.2 ((x.2.2.2 : Int) - 1 - x.2.1)).map fun y => (x.1, some y)
        else none)

/-! ## Mask operations -/

/-- The bits of a mask register below G, as a number; m0 reads as all ones (R173). -/
def State.maskLow (s : State) (m : BitVec 3) : Nat :=
  if m = 0 then 2 ^ s.g - 1 else bits (s.h.m.get 0 m.toNat) 0 s.g

/-- A mask operation (R184): bits 0 to G - 1 of `d` take those of a number. -/
def maskOp (f : State → Nat) (word : BitVec 32) (c : Bool) (d : BitVec 3) (s : State) : Out :=
  s.vector c .ew word [] (fun _ => {}) fun s =>
    .next (s.setMask d.toNat (putBits (s.h.m.get 0 d.toNat) 0 s.g (f s))).adv

/-- VMSK_AND (R184). -/
def execVmskAnd (c : Bool) (d a b : BitVec 3) (s : State) : Out :=
  maskOp (fun s => s.maskLow a &&& s.maskLow b) (encode (.vmskAnd c d a b)) c d s

/-- VMSK_OR (R184). -/
def execVmskOr (c : Bool) (d a b : BitVec 3) (s : State) : Out :=
  maskOp (fun s => s.maskLow a ||| s.maskLow b) (encode (.vmskOr c d a b)) c d s

/-- VMSK_XOR (R184). -/
def execVmskXor (c : Bool) (d a b : BitVec 3) (s : State) : Out :=
  maskOp (fun s => s.maskLow a ^^^ s.maskLow b) (encode (.vmskXor c d a b)) c d s

/-- VMSK_ANDN (R184). -/
def execVmskAndn (c : Bool) (d a b : BitVec 3) (s : State) : Out :=
  maskOp (fun s => s.maskLow a &&& (2 ^ s.g - 1 - s.maskLow b)) (encode (.vmskAndn c d a b)) c d s

/-- VMSK_NOT (R184). -/
def execVmskNot (c : Bool) (d a : BitVec 3) (s : State) : Out :=
  maskOp (fun s => 2 ^ s.g - 1 - s.maskLow a) (encode (.vmskNot c d a)) c d s

/-- The set bits of a mask below G, in rising order. -/
def State.setBelow (s : State) (a : BitVec 3) : List Nat := (List.range s.g).filter (s.maskBit a.toNat)

/-- VMSK_COUNT (R184). -/
def execVmskCount (c : Bool) (d a : BitVec 6) (s : State) : Out :=
  s.vector c .ew (encode (.vmskCount c d a)) [] (fun _ => {}) fun s =>
    .next (s.wr d (BitVec.ofNat 64 (s.setBelow (a.extractLsb' 3 3)).length)).adv

/-- VMSK_FIRST (R184). -/
def execVmskFirst (c : Bool) (d a : BitVec 6) (s : State) : Out :=
  s.vector c .ew (encode (.vmskFirst c d a)) [] (fun _ => {}) fun s =>
    .next (s.wrInt d (match (s.setBelow (a.extractLsb' 3 3)).head? with | some i => i | none => -1)).adv

end Sys2Proof.Machine
end

