-- ==== Sys2Proof/Machine/Red.lean ====
section
/-!
DEFINITION. Reductions and scans (R38, R64 to R66, R191 to R193).

The tree of R64 over the first elements of a segment is built leaf by leaf: a stack holds the complete subtrees so far,
newest first, and joining them from the newest on gives the tree's value. An absent node joins as R64 has it: the other
passes unchanged. A node carries the flags of the combinations below it, so that only what a result is made of counts.
-/

namespace Sys2Proof.Machine

/-- The combinations of VRED and VREDB. -/
inductive RedOp where
  | add | mul | min | max | and | or | xor
  deriving DecidableEq, Repr

/-- Combinations that act on bits, in integer kind. -/
def RedOp.bitwise : RedOp → Bool
  | and | or | xor => true
  | _ => false

/-- A node's value and the flags of what it is made of. -/
abbrev Node := Num × Flags

/-- What a reduction combines with: the operation, the kind of VA and VD together, the rounding mode, VD's type and its
fitting. -/
structure Combiner where
  op : RedOp
  k : Kind
  rm : RM
  t : Ty
  fit : Num → Nat × Flags

namespace Combiner

/-- The bits of an integer value modulo 2^w (R191). -/
def low (c : Combiner) (x : Num) : Nat := wrapInt c.t.width x.toInt

/-- A value from bits of VD's type. -/
def ofBits (c : Combiner) (b : Nat) : Num := (tyValue c.t b).1

/-- A leaf: an element's value; for a bitwise operation its value modulo 2^w. -/
def leaf (c : Combiner) (x : Node) : Node := if c.op.bitwise then (c.ofBits (c.low x.1), x.2) else x

/-- One combination, fitted into VD's tag (R64). -/
def combine (c : Combiner) (x y : Node) : Node :=
  let f0 := x.2 ||| y.2
  match c.op with
  | .and => (c.ofBits (c.low x.1 &&& c.low y.1), f0)
  | .or => (c.ofBits (c.low x.1 ||| c.low y.1), f0)
  | .xor => (c.ofBits (c.low x.1 ^^^ c.low y.1), f0)
  | .add => let (v, f) := Num.add c.k c.rm x.1 y.1; let (b, g) := c.fit v; (c.ofBits b, f0 ||| f ||| g)
  | .mul => let (v, f) := x.1.mul y.1; let (b, g) := c.fit v; (c.ofBits b, f0 ||| f ||| g)
  | .min => let (b, g) := c.fit (x.1.min2 y.1); (c.ofBits b, f0 ||| g)
  | .max => let (b, g) := c.fit (x.1.max2 y.1); (c.ofBits b, f0 ||| g)

/-- Two nodes of the tree joined, either of which may be absent (R64, step 4). -/
def join (c : Combiner) : Option Node → Option Node → Option Node
  | some x, some y => some (c.combine x y)
  | some x, none => some x
  | none, y => y

/-- A complete subtree of 2^l leaves added to the stack; two of one size make the next. -/
def push (c : Combiner) : Nat → Option Node → List (Nat × Option Node) → List (Nat × Option Node)
  | l, x, [] => [(l, x)]
  | l, x, (l', y) :: st => if l = l' then push c (l + 1) (c.join y x) st else (l, x) :: (l', y) :: st

/-- The tree's value: the subtrees joined, the newest being the rightmost. -/
def value (c : Combiner) (st : List (Nat × Option Node)) : Option Node := st.foldl (fun acc y => c.join y.2 acc) none

/-- The tree values of a segment cut after each of its positions (R65), oldest first, and the whole. -/
def prefixes (c : Combiner) : List (Nat × Option Node) → List (Option Node) → List (Option Node) × Option Node
  | st, [] => ([], c.value st)
  | st, x :: l =>
    let st := c.push 0 x st
    let (r, v) := prefixes c st l
    (c.value st :: r, v)

/-- The identity's bits in VD's tag (R66). Where it is written, it raises no flag (log 63). DESIGN CHOICE: a reduction of the
exact kind into an integer VD takes the column of VD's tag (log 74). -/
def identity (op : RedOp) (t : Ty) : Nat :=
  match t, op with
  | .fp _, .add => 0
  | .fp f, .mul => f.bias * 2 ^ f.frac
  | .fp f, .min => f.infBits false
  | .fp f, .max => f.infBits true
  | .p8, .mul => 0
  | .p8, .min => 3
  | .p8, _ => 0xFC
  | .int s w _, .min => wrapInt w (intMax s w)
  | .int s w _, .max => wrapInt w (intMin s w)
  | .int .., .mul => 1
  | t, .and => 2 ^ t.width - 1
  | _, _ => 0

/-- A segment's result from its tree value, with a seed where it takes the carry-in (R64, steps 6 and 7): the bits of
VD's element and the flags. -/
def result (c : Combiner) (seed : Option (Nat × Node)) (root : Option Node) : Nat × Flags :=
  match seed, root with
  | none, none => (identity c.op c.t, 0)
  | some (_, x), none => let (b, f) := c.fit x.1; (b, f ||| x.2)
  | none, some r => let (b, f) := c.fit r.1; (b, f ||| r.2)
  | some (_, x), some r => let y := c.combine r x; let (b, f) := c.fit y.1; (b, f ||| y.2)

end Combiner

namespace State

/-- The combiner of an instruction: nodes are combined in the kind of VA and VD together (R54, R64). -/
def combiner (s : State) (op : RedOp) (d a : Nat) : Combiner :=
  let t := (s.vreg d).ty
  let k := kindOf (s.vreg a).ty t
  { op := op, k := k, rm := s.rm, t := t, fit := s.fitter t k }

/-- The elements of a segment that lie below G. -/
def segElems (s : State) (g : Seg) : List Nat := (List.range (min g.2 (s.g - g.1))).map (g.1 + ·)

/-- The leaves of a segment: its elements, present where active (R36, R64). -/
def leaves (s : State) (c : Combiner) (v : VReg) (m : Nat) (g : Seg) : List (Option Node) :=
  (s.segElems g).map fun i => if s.maskBit m i then some (c.leaf (v.num i)) else none

/-- The carry-in of a scalar in a type: its bits, and its value with the flags of reading it. -/
def carryIn (s : State) (t : Ty) (b : BitVec 6) : Nat × Node := (s.scalarBits t b, wordNum t (s.rd b))

/-- The seeds of the segments: the first takes the carry-in where HEADOPEN is set (R38). -/
def seeds (v : VReg) (c : Nat × Node) (n : Nat) : List (Option (Nat × Node)) :=
  (List.range n).map fun j => if j = 0 ∧ v.headOpen then some c else none

/-- The descriptor of a reduction at a depth (R39). -/
def redDesc (v : VReg) (d : Nat) : VReg :=
  if d = 0 then VReg.reset else { v with levels := v.levels.take (d - 1) }

/-- The checks that reductions and scans share: a qW VD, and depth (R65, R36). -/
def badRed (s : State) (d a : Nat) (e : BitVec 3) : Illegal :=
  { tag := (s.vreg d).ty.isQ, depth := tooDeep (s.vreg a) e }

/-- Elements written as bits from element 0 on, as far as they lie below G, with a descriptor and a carry-out. -/
def finishRed (s : State) (d : Nat) (desc : VReg) (l : List (Nat × Nat)) (b : BitVec 6) (carry : Word) (f : Flags) : Out :=
  let r := writeBits (s.vreg d).ty (s.vreg d).bits (l.filter fun x => x.1 < s.g)
  .next (((s.putVec d r desc).raiseFlags f).wr b carry).adv

end State

/-- A reduction (R191). -/
def redInstr (op : RedOp) (word : BitVec 32) (c : Bool) (d a b : BitVec 6) (e : BitVec 3) (m : BitVec 2) (s : State) : Out :=
  let (nd, na) := (d.toNat, a.toNat)
  s.vector c .xl word [nd, na] (fun s =>
      let x := s.badRed nd na e
      { x with tag := x.tag || (op.bitwise && (s.combiner op nd na).k != .integer) }) fun s =>
    let v := s.vreg na
    let dep := (depthOf e v.depth).getD 0
    let desc := State.redDesc v dep
    s.overflow word (s.manySegs v dep ++ s.stackLimits nd desc.levels) fun s =>
      let cb := s.combiner op nd na
      let segs := v.segs s.g dep
      let carry := s.carryIn cb.t b
      let res := (segs.zip (State.seeds v carry segs.length)).map fun x =>
        cb.result x.2 (cb.prefixes [] (s.leaves cb v m.toNat x.1)).2
      let out := match res.getLast? with | some r => r.1 | none => carry.1
      s.finishRed nd desc ((List.range res.length).zip (res.map (·.1))) b (toScalar cb.t out)
        (res.foldl (fun f r => f ||| r.2) 0)

/-- A scan (R65, R193). -/
def scanInstr (op : RedOp) (exclusive : Bool) (word : BitVec 32) (c : Bool) (d a b : BitVec 6) (e : BitVec 3)
    (m : BitVec 2) (s : State) : Out :=
  let (nd, na) := (d.toNat, a.toNat)
  s.vector c .xl word [nd, na] (fun s => s.badRed nd na e) fun s =>
    let v := s.vreg na
    let dep := (depthOf e v.depth).getD 0
    s.overflow word (s.manySegs v dep ++ s.stackLimits nd v.levels) fun s =>
      let cb := s.combiner op nd na
      let segs := v.segs s.g dep
      let carry := s.carryIn cb.t b
      let res := (segs.zip (State.seeds v carry segs.length)).map fun x =>
        let (pre, whole) := cb.prefixes [] (s.leaves cb v m.toNat x.1)
        let vals := if exclusive then (none :: pre).take pre.length else pre
        (((s.segElems x.1).zip vals).filterMap fun (y : Nat × Option Node) =>
          if s.maskBit m.toNat y.1 then some (y.1, cb.result x.2 y.2) else none, cb.result x.2 whole)
      let out := match res.getLast? with | some r => r.2 | none => (carry.1, 0)
      let els := res.flatMap (·.1)
      s.finishRed nd v (els.map fun x => (x.1, x.2.1)) b (toScalar cb.t out.1)
        (els.foldl (fun f x => f ||| x.2.2) out.2)

/-- The order of VIDXMAX: a NaN below every number, -0 below +0 (R192). -/
def rankBelow (x y : Num) : Bool := if x.isNan then !y.isNan else !y.isNan && Num.below x y

/-- The greatest of a list of positions with values, ties to the earlier. -/
def greatest : Option (Int × Num) → List (Int × Num) → Option (Int × Num)
  | best, [] => best
  | none, x :: l => greatest (some x) l
  | some b, x :: l => greatest (some (if rankBelow b.2 x.2 then x else b)) l

/-- The greatest value as the carry scalar receives it, in VA's tag (R192). -/
def maxCarry (t : Ty) (x : Option (Int × Num)) : Nat :=
  match x with
  | none => Combiner.identity .max t
  | some (_, v) => (fitTy t t.kind .rne true v).1

/-- VIDXMAX (R192). The spec gives no scalar form of a block-scaled value, so such a carry-out is a free value. -/
def execVidxmax (c : Bool) (d a b : BitVec 6) (e : BitVec 3) (m : BitVec 2) (s : State) : Out :=
  let (nd, na) := (d.toNat, a.toNat)
  let word := encode (.vidxmax c d a b e m)
  s.vector c .xl word [nd, na] (fun s =>
      { s.badRed nd na e with tag := match (s.vreg nd).ty with | .int true _ false => false | _ => true }) fun s =>
    let v := s.vreg na
    let dep := (depthOf e v.depth).getD 0
    let desc := State.redDesc v dep
    s.overflow word (s.manySegs v dep ++ s.stackLimits nd desc.levels) fun s =>
      let segs := v.segs s.g dep
      let carry := s.carryIn v.ty b
      let res := (segs.zip (State.seeds v carry segs.length)).map fun x =>
        let els := (s.segElems x.1).filter (s.maskBit m.toNat)
        let nums := els.map fun i => v.num i
        let fl := nums.foldl (fun f y => f ||| y.2) (match x.2 with | some y => y.2.2 | none => 0)
        (greatest (x.2.map fun y => (-1, y.2.1)) ((els.zip nums).map fun y => ((y.1 : Int) - x.1.1, y.2.1)), fl)
      let (out, s) := match v.ty, res.getLast? with
        | .q _, some _ => (Config.freeWord s.seq, { s with seq := s.seq + 1 })
        | t, some r => (toScalar t (maxCarry t r.1), s)
        | .q _, none => (s.rd b, s)
        | t, none => (toScalar t carry.1, s)
      let w := (s.vreg nd).ty.width
      s.finishRed nd desc ((List.range res.length).zip (res.map fun r => wrapInt w (match r.1 with | some x => x.1 | none => -1)))
        b out (res.foldl (fun f r => f ||| r.2) 0)

/-! ## The instructions of one form -/

/-- VRED_ADD (R191). -/
def execVredAdd (c : Bool) (d a b : BitVec 6) (e : BitVec 3) (m : BitVec 2) (s : State) : Out :=
  redInstr .add (encode (.vredAdd c d a b e m)) c d a b e m s

/-- VRED_MUL (R191). -/
def execVredMul (c : Bool) (d a b : BitVec 6) (e : BitVec 3) (m : BitVec 2) (s : State) : Out :=
  redInstr .mul (encode (.vredMul c d a b e m)) c d a b e m s

/-- VRED_MIN (R191). -/
def execVredMin (c : Bool) (d a b : BitVec 6) (e : BitVec 3) (m : BitVec 2) (s : State) : Out :=
  redInstr .min (encode (.vredMin c d a b e m)) c d a b e m s

/-- VRED_MAX (R191). -/
def execVredMax (c : Bool) (d a b : BitVec 6) (e : BitVec 3) (m : BitVec 2) (s : State) : Out :=
  redInstr .max (encode (.vredMax c d a b e m)) c d a b e m s

/-- VREDB_AND (R191). -/
def execVredbAnd (c : Bool) (d a b : BitVec 6) (e : BitVec 3) (m : BitVec 2) (s : State) : Out :=
  redInstr .and (encode (.vredbAnd c d a b e m)) c d a b e m s

/-- VREDB_OR (R191). -/
def execVredbOr (c : Bool) (d a b : BitVec 6) (e : BitVec 3) (m : BitVec 2) (s : State) : Out :=
  redInstr .or (encode (.vredbOr c d a b e m)) c d a b e m s

/-- VREDB_XOR (R191). -/
def execVredbXor (c : Bool) (d a b : BitVec 6) (e : BitVec 3) (m : BitVec 2) (s : State) : Out :=
  redInstr .xor (encode (.vredbXor c d a b e m)) c d a b e m s

/-- VSCAN_ADD_INC (R193). -/
def execVscanAddInc (c : Bool) (d a b : BitVec 6) (e : BitVec 3) (m : BitVec 2) (s : State) : Out :=
  scanInstr .add false (encode (.vscanAddInc c d a b e m)) c d a b e m s

/-- VSCAN_ADD_EXC (R193). -/
def execVscanAddExc (c : Bool) (d a b : BitVec 6) (e : BitVec 3) (m : BitVec 2) (s : State) : Out :=
  scanInstr .add true (encode (.vscanAddExc c d a b e m)) c d a b e m s

/-- VSCAN_MAX_INC (R193). -/
def execVscanMaxInc (c : Bool) (d a b : BitVec 6) (e : BitVec 3) (m : BitVec 2) (s : State) : Out :=
  scanInstr .max false (encode (.vscanMaxInc c d a b e m)) c d a b e m s

/-- VSCAN_MAX_EXC (R193). -/
def execVscanMaxExc (c : Bool) (d a b : BitVec 6) (e : BitVec 3) (m : BitVec 2) (s : State) : Out :=
  scanInstr .max true (encode (.vscanMaxExc c d a b e m)) c d a b e m s

end Sys2Proof.Machine
end

