-- ==== Sys2Proof/Machine/Restruct.lean ====
section
/-!
DEFINITION. Pack, distribute, split, top-k and conflicts: VPACK, VDIST, VSPLIT, VMERGEK and VCONFL (R194 to R198).
-/

namespace Sys2Proof.Machine

/-- A stack with its deepest level replaced; at depth 0 there is none. -/
def setDeepest (levels : List (List Nat)) (l : List Nat) : List (List Nat) :=
  match levels with | [] => [] | _ => levels.dropLast ++ [l]

/-- Bits of VA's elements as answers, written from element 0 of VD on. -/
def inOrder (v : VReg) (l : List Nat) : List (Nat × Ans) :=
  ((List.range l.length).zip l).map fun x => (x.1, .raw (v.ty.get v.bits x.2) 0)

/-- VPACK (R194). -/
def execVpack (c : Bool) (d a : BitVec 6) (m : BitVec 2) (s : State) : Out :=
  let (nd, na) := (d.toNat, a.toNat)
  let word := encode (.vpack c d a m)
  s.vector c .xl word [nd, na] (fun s =>
      { tag := (s.vreg na).tag != (s.vreg nd).tag || (s.vreg na).ty.isQ }) fun s =>
    let v := s.vreg na
    let kept := (v.segs s.g v.depth).map fun g => (s.segElems g).filter (s.maskBit m.toNat)
    let desc := { v with levels := setDeepest v.levels (kept.map List.length) }
    s.overflow word (s.stackLimits nd desc.levels) fun s =>
      s.finish nd desc (s.fitter v.ty v.ty.kind) (inOrder v kept.flatten)

/-- VDIST (R195): VB is the shape. -/
def execVdist (c : Bool) (d a b : BitVec 6) (e : BitVec 3) (m : BitVec 2) (s : State) : Out :=
  let (nd, na, nb) := (d.toNat, a.toNat, b.toNat)
  let word := encode (.vdist c d a b e m)
  s.vector c .xl word [nd, na, nb] (fun s => { depth := State.tooDeep (s.vreg nb) e }) fun s =>
    let v := s.vreg na
    let shape := s.vreg nb
    let dep := (depthOf e shape.depth).getD 0
    s.overflow word (s.manySegs shape dep ++ s.stackLimits nd shape.levels) fun s =>
      s.finish nd shape (s.fitter (s.vreg nd).ty v.ty.kind)
        (((List.range s.g).zip (segMap (shape.segs s.g dep) s.g)).filterMap fun x =>
          if s.maskBit m.toNat x.1 then x.2.map fun j => (x.1, ansOf (v.num j.1)) else none)

/-- A split of VA's deepest segments (R196): `kids` gives the children of a segment, each a list of its elements, with
the flags of comparing. -/
def splitInstr (word : BitVec 32) (c : Bool) (d a : BitVec 6) (kids : State → VReg → List Nat → List (List Nat) × Flags)
    (count : Nat → Nat) (s : State) : Out :=
  let (nd, na) := (d.toNat, a.toNat)
  s.vector c .xl word [nd, na] (fun s => { tag := (s.vreg na).tag != (s.vreg nd).tag || (s.vreg na).ty.isQ }) fun s =>
    let v := s.vreg na
    let segs := v.segs s.g v.depth
    let n := (segs.map (·.2)).sum
    let children := (segs.map fun g => count g.2).sum
    s.overflow word ((if v.depth = 8 then [(1, 9)] else []) ++ (if s.capacity nd < children then [(0, v.depth + 1)] else []) ++
        (if s.g < n then [(3, v.depth)] else [])) fun s =>
      let parts := segs.map fun g => kids s v ((List.range g.2).map (g.1 + ·))
      let lens := (parts.flatMap (·.1)).map List.length
      let levels := setDeepest v.levels (parts.map fun p => p.1.length) ++ [lens]
      s.overflow word (s.stackLimits nd levels) fun s =>
        (s.raiseFlags (parts.foldl (fun f p => f ||| p.2) 0)).finish nd { v with levels := levels }
          (s.fitter v.ty v.ty.kind) (inOrder v ((parts.flatMap (·.1)).flatten))

/-- VSPLIT_MASK (R196). -/
def execVsplitMask (c : Bool) (d a : BitVec 6) (m : BitVec 2) (s : State) : Out :=
  splitInstr (encode (.vsplitMask c d a m)) c d a
    (fun s _ l => ([l.filter (s.maskBit m.toNat), l.filter fun i => !s.maskBit m.toNat i], 0)) (fun _ => 2) s

/-- The children of a segment split against its first element (R196). -/
def threeKids (v : VReg) (l : List Nat) : List (List Nat) × Flags :=
  match l with
  | [] => ([[]], 0)
  | [i] => ([[i]], 0)
  | i :: t =>
    let cmp := fun j => compareNums .lt (v.num j) (v.num i)
    ([t.filter fun j => (cmp j).1, [i], t.filter fun j => !(cmp j).1], t.foldl (fun f j => f ||| (cmp j).2) 0)

/-- VSPLIT_THREE (R196). -/
def execVsplitThree (c : Bool) (d a : BitVec 6) (s : State) : Out :=
  splitInstr (encode (.vsplitThree c d a)) c d a (fun _ v l => threeKids v l) (fun n => if n ≤ 1 then 1 else 3) s

/-! ## Top-k by key -/

/-- A key as it is ranked and written: an infinity is the greatest finite value of its sign (R197). -/
def finiteKey (t : Ty) (x : Num) : Num :=
  match t, x with
  | .fp f, .inf n => fpValue f (f.maxBits n)
  | _, x => x

/-- Whether a key ranks strictly ahead of another: greater first, a NaN last, zeros equal (R197). -/
def rankAhead (x y : Num) : Bool := if x.isNan then false else y.isNan || Num.lt y x

/-- A ranked element put among others: behind those that rank ahead of it or equal. -/
def rankIns (x : Nat × Num) : List (Nat × Num) → List (Nat × Num)
  | [] => [x]
  | y :: l => if rankAhead x.2 y.2 then x :: y :: l else y :: rankIns x l

/-- The elements of a segment in rank order; ties keep the lower position. -/
def ranked (l : List (Nat × Num)) : List (Nat × Num) := l.foldl (fun acc x => rankIns x acc) []

/-- VMERGEK (R197). -/
def execVmergek (c : Bool) (d a b : BitVec 6) (e : BitVec 3) (m : BitVec 2) (s : State) : Out :=
  let (nd, na) := (d.toNat, a.toNat)
  let word := encode (.vmergek c d a b e m)
  s.vector c .xl word [nd, na] (fun s =>
      { depth := depthOf e (s.vreg na).depth != some (s.vreg na).depth }) fun s =>
    let v := s.vreg na
    let k := (s.rd b).toNat
    let segs := v.segs s.g v.depth
    let active := segs.map fun g => (g, (s.segElems g).filter (s.maskBit m.toNat))
    let kept := active.map fun x =>
      (ranked (x.2.map fun i => (i - x.1.1, finiteKey v.ty (v.num i).1))).take k
    let fl := (active.flatMap (·.2)).foldl (fun f i =>
      f ||| (v.num i).2 ||| Flags.when_ (v.num i).1.isNan Flags.gatenan) 0
    let desc := { v with levels := setDeepest v.levels (kept.map List.length) }
    s.overflow word (s.stackLimits nd desc.levels) fun s =>
      let t := (s.vreg nd).ty
      let positions := match t with | .int true _ false => true | _ => false
      let all := kept.flatten
      (s.raiseFlags fl).finish nd desc (s.fitter t v.ty.kind) (((List.range all.length).zip all).map fun x =>
        (x.1, if positions then .raw x.2.1 0 else .val x.2.2 0))

/-! ## Conflicts -/

/-- The nearest earlier active element of equal value (R198). -/
def nearest (v : VReg) (earlier : List Nat) (i : Nat) : Option Nat :=
  earlier.reverse.find? fun j => v.ty.get v.bits j = v.ty.get v.bits i

/-- VCONFL (R198). -/
def execVconfl (c : Bool) (d a : BitVec 6) (g : BitVec 3) (m : BitVec 2) (s : State) : Out :=
  let (nd, na) := (d.toNat, a.toNat)
  s.vector c .xl (encode (.vconfl c d a g m)) [nd, na] (fun s =>
      { tag := !(s.vreg na).ty.isInt || (match (s.vreg nd).ty with | .int true _ false => false | _ => true) }) fun s =>
    let v := s.vreg na
    let t := (s.vreg nd).ty
    let act := s.active m.toNat
    let found := ((List.range act.length).zip act).map fun x => (x.2, nearest v (act.take x.1) x.2)
    let s := s.setMask g.toNat (writeMaskBits (s.h.m.get 0 g.toNat) (found.map fun x => (x.1, x.2.isNone)))
    s.finish nd VReg.reset (s.fitter t .integer) (found.map fun x =>
      (x.1, .raw (wrapInt t.width (match x.2 with | some j => (j : Int) | none => -1)) 0))

end Sys2Proof.Machine
end

