-- ==== Sys2Proof/Machine/ScalarFp.lean ====
section
/-!
DEFINITION. Scalar floating point (R148, R149): one rounding in the format the width bit names, in the RM of FCSR.
-/

namespace Sys2Proof.Machine

/-- A source in a format: the low bits of the register (R51). -/
def sfSrc (f : Fmt) (s : State) (a : BitVec 6) : Num := fpValue f (bits (s.rd a).toNat 0 f.width)

/-- A result fitted and written with its flags (R55, R56). -/
def sfWrite (f : Fmt) (s : State) (d : BitVec 6) (x : Num) (fl : Flags) : State :=
  let (b, g) := fitFp f s.rm x
  (s.wr d (BitVec.ofNat 64 b)).raiseFlags (fl ||| g)

/-- An integer result written with its flags. -/
def sfInt (s : State) (d : BitVec 6) (v : Word) (fl : Flags) : State := (s.wr d v).raiseFlags fl

/-- The comparisons of SFCMP, by OPX (R149). -/
def sfCond (o : BitVec 2) : Cond :=
  match o.toNat with | 0 => .eq | 1 => .lt | 2 => .le | _ => .ne

/-- The sum of two values, with the flags of reading them. -/
def sfSum (f : Fmt) (rm : RM) (x y : Num) : Num × Flags :=
  let (z, fl) := Num.add (.float f) rm x y
  (z, fl ||| x.readNv ||| y.readNv)

/-- SFMA: the product and the addend with one rounding; a product 0 × ∞ is invalid (R59). -/
def sfFused (f : Fmt) (rm : RM) (x y z : Num) : Num × Flags :=
  let (p, g) := Num.mul x y
  let (t, fl) := Num.add (.float f) rm p z
  (t, fl ||| g ||| x.readNv ||| y.readNv ||| z.readNv)

/-- The other format of SFCVT with OPX 0 (R149). -/
def otherFmt : Fmt → Fmt
  | .f32 => .f64
  | _ => .f32

/-- SFCVT by OPX (R149): from the other width; to i64; from i64; from n64. -/
def sfConvert (f : Fmt) (o : BitVec 2) (d a : BitVec 6) (s : State) : State :=
  match o.toNat with
  | 0 => let x := sfSrc (otherFmt f) s a; sfWrite f s d x x.readNv
  | 1 =>
    let x := sfSrc f s a
    let (b, fl) := fitIntFloat true 64 s.rm x
    sfInt s d (BitVec.ofNat 64 b) (fl ||| x.readNv)
  | 2 => sfWrite f s d (.ofInt (s.rd a).toInt) 0
  | _ => sfWrite f s d (.ofInt (s.rd a).toNat) 0


/-- SFADD_F32 (R149). -/
def execSfaddF32 (c : Bool) (d a b : BitVec 6) (s : State) : Out :=
  s.scalar c fun s => let (x, fl) := sfSum .f32 s.rm (sfSrc .f32 s a) (sfSrc .f32 s b); sfWrite .f32 s d x fl

/-- SFSUB_F32 (R149). -/
def execSfsubF32 (c : Bool) (d a b : BitVec 6) (s : State) : Out :=
  s.scalar c fun s => let (x, fl) := sfSum .f32 s.rm (sfSrc .f32 s a) (sfSrc .f32 s b).neg; sfWrite .f32 s d x fl

/-- SFMUL_F32 (R149). -/
def execSfmulF32 (c : Bool) (d a b : BitVec 6) (s : State) : Out :=
  s.scalar c fun s =>
    let (x, fl) := Num.mul (sfSrc .f32 s a) (sfSrc .f32 s b)
    sfWrite .f32 s d x (fl ||| (sfSrc .f32 s a).readNv ||| (sfSrc .f32 s b).readNv)

/-- SFDIV_F32 (R149). -/
def execSfdivF32 (c : Bool) (d a b : BitVec 6) (s : State) : Out :=
  s.scalar c fun s =>
    let (x, fl) := Num.div (sfSrc .f32 s a) (sfSrc .f32 s b)
    sfWrite .f32 s d x (fl ||| (sfSrc .f32 s a).readNv ||| (sfSrc .f32 s b).readNv)

/-- SFMA_F32 (R149): SD is both addend and destination. -/
def execSfmaF32 (c : Bool) (d a b : BitVec 6) (s : State) : Out :=
  s.scalar c fun s =>
    let (x, fl) := sfFused .f32 s.rm (sfSrc .f32 s a) (sfSrc .f32 s b) (sfSrc .f32 s d)
    sfWrite .f32 s d x fl

/-- SFSQRT_F32 (R149). -/
def execSfsqrtF32 (c : Bool) (d a : BitVec 6) (s : State) : Out :=
  s.scalar c fun s => let (x, fl) := Num.sqrt (sfSrc .f32 s a); sfWrite .f32 s d x (fl ||| (sfSrc .f32 s a).readNv)

/-- SFMIN_F32 (R61, R149). -/
def execSfminF32 (c : Bool) (d a b : BitVec 6) (s : State) : Out :=
  s.scalar c fun s =>
    sfWrite .f32 s d (Num.min2 (sfSrc .f32 s a) (sfSrc .f32 s b)) ((sfSrc .f32 s a).readNv ||| (sfSrc .f32 s b).readNv)

/-- SFMAX_F32 (R61, R149). -/
def execSfmaxF32 (c : Bool) (d a b : BitVec 6) (s : State) : Out :=
  s.scalar c fun s =>
    sfWrite .f32 s d (Num.max2 (sfSrc .f32 s a) (sfSrc .f32 s b)) ((sfSrc .f32 s a).readNv ||| (sfSrc .f32 s b).readNv)

/-- SFCMP_F32 (R61, R149): the integer 1 or 0. -/
def execSfcmpF32 (c : Bool) (d a b : BitVec 6) (o : BitVec 2) (s : State) : Out :=
  s.scalar c fun s =>
    let (r, fl) := Num.compare (sfCond o) (sfSrc .f32 s a) (sfSrc .f32 s b)
    sfInt s d (if r then 1 else 0) fl

/-- SFCVT_F32 (R149). -/
def execSfcvtF32 (c : Bool) (d a : BitVec 6) (o : BitVec 2) (s : State) : Out := s.scalar c (sfConvert .f32 o d a)

/-- SFMV_F32 (R149): the low bits, with the rest zeroed and no flag. -/
def execSfmvF32 (c : Bool) (d a : BitVec 6) (s : State) : Out :=
  s.scalar c fun s => s.wr d (BitVec.ofNat 64 (bits (s.rd a).toNat 0 Fmt.f32.width))

/-- SFADD_F64 (R149). -/
def execSfaddF64 (c : Bool) (d a b : BitVec 6) (s : State) : Out :=
  s.scalar c fun s => let (x, fl) := sfSum .f64 s.rm (sfSrc .f64 s a) (sfSrc .f64 s b); sfWrite .f64 s d x fl

/-- SFSUB_F64 (R149). -/
def execSfsubF64 (c : Bool) (d a b : BitVec 6) (s : State) : Out :=
  s.scalar c fun s => let (x, fl) := sfSum .f64 s.rm (sfSrc .f64 s a) (sfSrc .f64 s b).neg; sfWrite .f64 s d x fl

/-- SFMUL_F64 (R149). -/
def execSfmulF64 (c : Bool) (d a b : BitVec 6) (s : State) : Out :=
  s.scalar c fun s =>
    let (x, fl) := Num.mul (sfSrc .f64 s a) (sfSrc .f64 s b)
    sfWrite .f64 s d x (fl ||| (sfSrc .f64 s a).readNv ||| (sfSrc .f64 s b).readNv)

/-- SFDIV_F64 (R149). -/
def execSfdivF64 (c : Bool) (d a b : BitVec 6) (s : State) : Out :=
  s.scalar c fun s =>
    let (x, fl) := Num.div (sfSrc .f64 s a) (sfSrc .f64 s b)
    sfWrite .f64 s d x (fl ||| (sfSrc .f64 s a).readNv ||| (sfSrc .f64 s b).readNv)

/-- SFMA_F64 (R149): SD is both addend and destination. -/
def execSfmaF64 (c : Bool) (d a b : BitVec 6) (s : State) : Out :=
  s.scalar c fun s =>
    let (x, fl) := sfFused .f64 s.rm (sfSrc .f64 s a) (sfSrc .f64 s b) (sfSrc .f64 s d)
    sfWrite .f64 s d x fl

/-- SFSQRT_F64 (R149). -/
def execSfsqrtF64 (c : Bool) (d a : BitVec 6) (s : State) : Out :=
  s.scalar c fun s => let (x, fl) := Num.sqrt (sfSrc .f64 s a); sfWrite .f64 s d x (fl ||| (sfSrc .f64 s a).readNv)

/-- SFMIN_F64 (R61, R149). -/
def execSfminF64 (c : Bool) (d a b : BitVec 6) (s : State) : Out :=
  s.scalar c fun s =>
    sfWrite .f64 s d (Num.min2 (sfSrc .f64 s a) (sfSrc .f64 s b)) ((sfSrc .f64 s a).readNv ||| (sfSrc .f64 s b).readNv)

/-- SFMAX_F64 (R61, R149). -/
def execSfmaxF64 (c : Bool) (d a b : BitVec 6) (s : State) : Out :=
  s.scalar c fun s =>
    sfWrite .f64 s d (Num.max2 (sfSrc .f64 s a) (sfSrc .f64 s b)) ((sfSrc .f64 s a).readNv ||| (sfSrc .f64 s b).readNv)

/-- SFCMP_F64 (R61, R149): the integer 1 or 0. -/
def execSfcmpF64 (c : Bool) (d a b : BitVec 6) (o : BitVec 2) (s : State) : Out :=
  s.scalar c fun s =>
    let (r, fl) := Num.compare (sfCond o) (sfSrc .f64 s a) (sfSrc .f64 s b)
    sfInt s d (if r then 1 else 0) fl

/-- SFCVT_F64 (R149). -/
def execSfcvtF64 (c : Bool) (d a : BitVec 6) (o : BitVec 2) (s : State) : Out := s.scalar c (sfConvert .f64 o d a)

/-- SFMV_F64 (R149): the low bits, with the rest zeroed and no flag. -/
def execSfmvF64 (c : Bool) (d a : BitVec 6) (s : State) : Out :=
  s.scalar c fun s => s.wr d (BitVec.ofNat 64 (bits (s.rd a).toNat 0 Fmt.f64.width))

end Sys2Proof.Machine
end

