-- ==== Sys2Proof/Machine/ScalarMem.lean ====
section
/-!
DEFINITION. Scalar loads, stores and atomics (R150, R151), and the atomic operations that VAMO shares (R205).
-/

namespace Sys2Proof.Machine

/-- The access size of a WIDTH code in bytes (R134). -/
def widthBytes (w : BitVec 3) : Nat :=
  match w.toNat with | 0 => 1 | 1 => 2 | 2 => 4 | 3 => 8 | 4 => 1 | 5 => 2 | _ => 4

/-- A loaded value as the register receives it: sign-extended for .b, .h, .w and .d, zero-extended for .bu, .hu and .wu. -/
def widthExtend (w : BitVec 3) (v : Nat) : Word :=
  if w.toNat < 4 then BitVec.ofInt 64 (intValue true (8 * widthBytes w) v) else BitVec.ofNat 64 v

/-- The byte offset of SLD and SST: the register, read as signed, plus IMM6 times the size, without wrapping. -/
def slOffset (s : State) (a : BitVec 6) (w : BitVec 3) (i : BitVec 6) : Int :=
  (s.rd a).toInt + i.toNat * widthBytes w

namespace State

/-- HSTAT.GONE set (R77). -/
def setGone (s : State) : State := s.mod fun h => { h with gone := true }

/-- An atomic AND that cleared KEEP of a live handle entry is an event in the entry order: with no strong hold left the
object is destroyed or becomes reclaimable (R322). -/
def keepCleared (s : State) (l : List Piece) (old new : Nat) : State :=
  match l with
  | [(.phys a, 8)] =>
    if bits old 44 1 = 1 ∧ bits new 44 1 = 0 then
      match (s.tablesOf s.partNo).find? fun sp => sp.htAddr ≤ a ∧ a < sp.htAddr + 64 * sp.htSize ∧ (a - sp.htAddr) % 64 = 0 with
      | some sp => Eng.quiet s s.partNo (Eng.settle sp (BitVec.ofNat 24 ((a - sp.htAddr) / 64)))
      | none => s
    else s
  | _ => s

end State

/-- The operations of SAMO and VAMO (R137). -/
inductive Amo where
  | add | addsat | min | max | and | or | xor | swap
  deriving DecidableEq, Repr

/-- What an atomic step stores over `old`, of `w` bits (R151, R205). -/
def Amo.apply (op : Amo) (signed : Bool) (w old v : Nat) : Nat × Flags :=
  let a := intValue signed w old
  let b := intValue signed w v
  match op with
  | .add => ((old + v) % 2 ^ w, 0)
  | .addsat => fitInt signed w true (a + b)
  | .min => (if b < a then v else old, 0)
  | .max => (if a < b then v else old, 0)
  | .and => (old &&& v, 0)
  | .or => (old ||| v, 0)
  | .xor => (old ^^^ v, 0)
  | .swap => (v, 0)

/-- One atomic step on the bytes of an element (R113): the fetched value and the state with the new one stored. An
uncorrectable word leaves the element unapplied and fetches 0 (R115). -/
def State.amo (s : State) (op : Amo) (signed : Bool) (l : List Piece) (size v elem : Nat) : Nat × State :=
  match s.badIn l with
  | w :: _ => (0, s.meet w elem)
  | [] =>
    let old := leNat (s.raw l)
    let (new, f) := op.apply signed (8 * size) old v
    let s := (s.putAll l (leBytes size new)).raiseFlags f
    (old, if op = .and then s.keepCleared l old new else s)

/-- SLD (R150). -/
def execSld (c : Bool) (d : BitVec 6) (h : BitVec 4) (a : BitVec 6) (w : BitVec 3) (i : BitVec 6) (s : State) : Out :=
  s.onHart c fun s =>
    match s.one h .sld false (slOffset s a w i) (widthBytes w) with
    | (.trap t, s) => s.raise t
    | (.gone, s) => .next (s.wr d 0).setGone.adv
    | (.runs l, s) =>
      let (b, s) := s.load l 0
      .next (s.wr d (widthExtend w (leNat b))).adv

/-- SST (R150): the low bytes of SD. -/
def execSst (c : Bool) (d : BitVec 6) (h : BitVec 4) (a : BitVec 6) (w : BitVec 3) (i : BitVec 6) (s : State) : Out :=
  s.onHart c fun s =>
    match s.one h .store false (slOffset s a w i) (widthBytes w) with
    | (.trap t, s) => s.raise t
    | (.gone, s) => s.raise (Failed.gone.trap false h)
    | (.runs l, s) => .next (s.store l (leBytes (widthBytes w) (s.rd d).toNat) 0).adv

/-- SAMO (R151): s(VI) is the offset, 8 bytes or 4 by bit 5, signed; SD receives the old value sign-extended. The
front end has performed the hart's earlier accesses when it runs, whatever its acquire and release bits say (log 6). -/
def samo (op : Amo) (c : Bool) (d : BitVec 6) (h : BitVec 4) (i : BitVec 6) (w : BitVec 1) (s : State) : Out :=
  s.onHart c fun s =>
    let size := if w = 1 then 4 else 8
    match s.one h .atomic false (s.rd i).toInt size with
    | (.trap t, s) => s.raise t
    | (.gone, s) => s.raise (Failed.gone.trap false h)
    | (.runs l, s) =>
      let (old, s) := s.amo op true l size ((s.rd d).toNat % 2 ^ (8 * size)) 0
      .next (s.wr d (BitVec.ofInt 64 (intValue true (8 * size) old))).adv


/-- SAMO_ADD (R151). -/
def execSamoAdd (c : Bool) (d : BitVec 6) (h : BitVec 4) (i : BitVec 6) (w _q _r : BitVec 1)
    (_s : BitVec 3) (s : State) : Out := samo .add c d h i w s

/-- SAMO_ADDSAT (R151). -/
def execSamoAddsat (c : Bool) (d : BitVec 6) (h : BitVec 4) (i : BitVec 6) (w _q _r : BitVec 1)
    (_s : BitVec 3) (s : State) : Out := samo .addsat c d h i w s

/-- SAMO_MIN (R151). -/
def execSamoMin (c : Bool) (d : BitVec 6) (h : BitVec 4) (i : BitVec 6) (w _q _r : BitVec 1)
    (_s : BitVec 3) (s : State) : Out := samo .min c d h i w s

/-- SAMO_MAX (R151). -/
def execSamoMax (c : Bool) (d : BitVec 6) (h : BitVec 4) (i : BitVec 6) (w _q _r : BitVec 1)
    (_s : BitVec 3) (s : State) : Out := samo .max c d h i w s

/-- SAMO_AND (R151). -/
def execSamoAnd (c : Bool) (d : BitVec 6) (h : BitVec 4) (i : BitVec 6) (w _q _r : BitVec 1)
    (_s : BitVec 3) (s : State) : Out := samo .and c d h i w s

/-- SAMO_OR (R151). -/
def execSamoOr (c : Bool) (d : BitVec 6) (h : BitVec 4) (i : BitVec 6) (w _q _r : BitVec 1)
    (_s : BitVec 3) (s : State) : Out := samo .or c d h i w s

/-- SAMO_XOR (R151). -/
def execSamoXor (c : Bool) (d : BitVec 6) (h : BitVec 4) (i : BitVec 6) (w _q _r : BitVec 1)
    (_s : BitVec 3) (s : State) : Out := samo .xor c d h i w s

/-- SAMO_SWAP (R151). -/
def execSamoSwap (c : Bool) (d : BitVec 6) (h : BitVec 4) (i : BitVec 6) (w _q _r : BitVec 1)
    (_s : BitVec 3) (s : State) : Out := samo .swap c d h i w s

end Sys2Proof.Machine
end

