-- ==== Sys2Proof/Machine/Seg.lean ====
section
/-!
DEFINITION. The segment-stack instructions of SEG (R188 to R190).
-/

namespace Sys2Proof.Machine

/-- Bits of VA's elements copied to VD, of the same tag. A block-scaled block takes VA's scale where none of its other
elements needs its own (R48), and keeps its scale otherwise. -/
def copyEls (t : Ty) (src r : Nat) (l : List Nat) : Nat :=
  let r' := writeBits t r (l.map fun i => (i, t.get src i))
  match t with
  | .q w => (dedup (l.map (· / 64))).foldl (fun x b =>
      let free := (List.range 64).all fun e => l.contains (64 * b + e) || t.get r (64 * b + e) == 0
      if free then putBits x (b * (64 * (w + 1))) 64 (bits src (b * (64 * (w + 1))) 8) else x) r'
  | _ => r'

/-- The tags that lengths are read and written in (R188 to R190). -/
def lengthsTag (t : Ty) : Bool := t.isWide

/-- The stack with a level removed: its parent's entries become the sums over it (R39). -/
def dropLevel : Nat → List (List Nat) → List (List Nat)
  | _, [] => []
  | 0, _ :: t => t
  | 1, p :: l :: t => collapse p l :: t
  | d + 1, p :: t => p :: dropLevel d t

namespace State

/-- Lengths entries written into VD, fitted from unsigned values, at depth 0 (R189, R190). -/
def writeLengths (s : State) (d : Nat) (l : List Nat) : State :=
  let t := (s.vreg d).ty
  let l := l.take s.g
  let (r, f) := writeAns t s.rm (s.fitter t .integer) (s.vreg d).bits
    (((List.range l.length).zip l).map fun x => (x.1, .val (.ofInt x.2) 0))
  (s.putVec d r VReg.reset).raiseFlags f

/-- The elements a register's stack covers: N of R35. -/
def covered (s : State) (v : VReg) : Nat := if v.depth = 0 then s.g else (v.levels.getD (v.depth - 1) []).sum

/-- The entries of a level; level 0 is the single entry N (R190). -/
def levelOf (s : State) (v : VReg) (d : Nat) : List Nat := if d = 0 then [s.covered v] else v.levels.getD (d - 1) []

end State

/-- SPUSH (R188). -/
def execSpush (c : Bool) (d a b : BitVec 6) (s : State) : Out :=
  let (nd, na) := (d.toNat, a.toNat)
  let word := encode (.spush c d a b)
  s.vector c .ew word [nd, na] (fun s => { tag := !lengthsTag (s.vreg na).ty }) fun s =>
    let v := s.vreg nd
    let k := (s.rd b).toNat
    if v.depth = 8 then s.overflow word [(1, 9)] .next
    else if s.capacity na < k ∨ s.capacity nd < k then s.overflow word [(0, 1)] .next
    else
      let new := (List.range k).map fun j => bits ((s.vreg na).ty.get (s.vreg na).bits j) 0 32
      let cover := match v.levels with | [] => s.g | l :: _ => l.length
      if new.sum ≠ cover then s.overflow word [(2, 1)] .next
      else if s.tooLong nd (new :: v.levels) then s.overflow word [(4, v.depth + 1)] .next
      else .next (s.setVreg nd { v with levels := new :: v.levels }).adv

/-- SPOP (R189). -/
def execSpop (c : Bool) (d a b : BitVec 6) (s : State) : Out :=
  let (nd, na) := (d.toNat, a.toNat)
  s.vector c .ew (encode (.spop c d a b)) [nd, na] (fun s =>
      { reg := d == a, tag := !lengthsTag (s.vreg nd).ty, depth := (s.vreg na).depth == 0 }) fun s =>
    let v := s.vreg na
    let l := s.levelOf v 1
    let s := s.setVreg na { v with levels := v.levels.tail }
    .next ((s.writeLengths nd l).wr b (BitVec.ofNat 64 l.length)).adv

/-- SDEPTH (R190). -/
def execSdepth (c : Bool) (d a : BitVec 6) (s : State) : Out :=
  s.vector c .ew (encode (.sdepth c d a)) [a.toNat] (fun _ => {}) fun s =>
    .next (s.wr d (BitVec.ofNat 64 (s.vreg a.toNat).depth)).adv

/-- SGETL (R190). -/
def execSgetl (c : Bool) (d a b : BitVec 6) (e : BitVec 3) (s : State) : Out :=
  let (nd, na) := (d.toNat, a.toNat)
  s.vector c .ew (encode (.sgetl c d a b e)) [nd, na] (fun s =>
      { tag := !lengthsTag (s.vreg nd).ty, depth := State.tooDeep (s.vreg na) e }) fun s =>
    let v := s.vreg na
    let l := s.levelOf v ((depthOf e v.depth).getD 0)
    .next ((s.writeLengths nd l).wr b (BitVec.ofNat 64 l.length)).adv

/-- VFLAT (R190). -/
def execVflat (c : Bool) (d a : BitVec 6) (e : BitVec 3) (s : State) : Out :=
  let (nd, na) := (d.toNat, a.toNat)
  let word := encode (.vflat c d a e)
  s.vector c .ew word [nd, na] (fun s =>
      { tag := (s.vreg na).tag != (s.vreg nd).tag, depth := (depthOf e (s.vreg na).depth).getD 0 == 0 }) fun s =>
    let v := s.vreg na
    let flat := { v with levels := dropLevel ((depthOf e v.depth).getD 0 - 1) v.levels }
    s.overflow word (s.stackLimits nd flat.levels) fun s =>
      .next (s.putVec nd (copyEls v.ty v.bits (s.vreg nd).bits (List.range s.g)) flat).adv

/-- SOPEN (R190). -/
def execSopen (c : Bool) (d a b : BitVec 6) (s : State) : Out :=
  s.vector c .ew (encode (.sopen c d a b)) [d.toNat] (fun _ => {}) fun s =>
    let v := s.vreg d.toNat
    let new := s.rd b
    let v' := if new.getLsbD 2 then v else { v with headOpen := new.getLsbD 0, tailOpen := new.getLsbD 1 }
    .next ((s.setVreg d.toNat v').wr a (0#62 ++ BitVec.ofBool v.tailOpen ++ BitVec.ofBool v.headOpen)).adv

end Sys2Proof.Machine
end

