-- ==== Sys2Proof/Machine/Sfu.lean ====
section
/-!
DEFINITION. The special functions of the SFU group (R232 to R237): VEXP's algorithm (R234, R236), the correctly rounded
VRCP and VRSQ, and the faithful functions (R233).

A faithful result is one of two neighbours of the exact value. The exact value of ln, sin, cos, tanh or the logistic
function at a finite argument is never representable but for the arguments R233's table lists and 1/2 at a = 0 of the
last. It is computed here to about 2^-450 and carried with a last bit that says it lies beyond, so that its neighbours
are those of the exact value; tiny and saturating arguments are taken apart, where the function lies next to a
representable value. Which neighbour is written is `Config.faithfulUp`'s.
-/

namespace Sys2Proof.Machine

/-! ## The exponential -/

/-- log2 e at 64 fractional bits (R234). -/
def expL : Nat := 0x171547652b82fe177
/-- ln 2 at 64 fractional bits. -/
def expC1 : Nat := 0xb17217f7d1cf79ac
/-- (ln 2)^2 / 2 at 64 fractional bits. -/
def expC2 : Nat := 0x3d7f7bff058b1d51
/-- (ln 2)^3 / 6 at 64 fractional bits. -/
def expC3 : Nat := 0xe35846b82505fc6

/-- T[j] of R234: 2^(j/16) at 62 fractional bits. -/
def expT : List Nat :=
  [0x4000000000000000, 0x42d561b3e6243d8a, 0x45cae0f1f545eb73, 0x48e1e9b9d588e19b,
   0x4c1bf828c6dc54b8, 0x4f7a993048d088d7, 0x52ff6b54d8a89c75, 0x56ac1f752150a563,
   0x5a827999fcef3242, 0x5e8451cfac061b5f, 0x62b39508aa836d6f, 0x6712460a8fc24072,
   0x6ba27e656b4eb57a, 0x70666f76154a7089, 0x75606373ee921c97, 0x7a92be8a92436616]

/-- An integer divided by 2^64, to the nearest, ties to even: rne of R234. -/
def rne64 (v : Int) : Int :=
  let (k, _) := Num.roundAt .rne (decide (v < 0)) v.natAbs (-64) 0
  if v < 0 then -(k : Int) else k

/-- The value 2^n · s of R234 for a finite value. -/
def expNum (x : Num) : Num :=
  match x with
  | .fin neg m e =>
    let (k, _) := Num.roundAt .rne neg (m * expL) e 0
    let top : Int := 2 ^ 79
    let y : Int := max (-top) (min top (if neg then -(k : Int) else k))
    let m16 := rne64 (16 * y)
    let f := y - m16 * 2 ^ 60
    let n := m16 / 16
    let j := (m16 - 16 * n).toNat
    let q := rne64 ((expC3 : Int) * f)
    let q := rne64 ((q + expC2) * f)
    let q := rne64 ((q + expC1) * f)
    let s := rne64 ((expT.getD j 0 : Int) * (2 ^ 64 + q))
    .ofSigned s (n - 62)
  | .inf true => .zero
  | x => x

/-! ## Fixed point -/

/-- Fractional bits of the fixed-point numbers below. -/
def fxBits : Nat := 480

/-- π/2 in fixed point. -/
def fxHalfPi : Int := 0x1921fb54442d18469898cc51701b839a252049c1114cf98e804177d4c76273644a29410f31c6809bbdf2a33679a748636605614dbe4be286e9fc26ada

/-- ln 2 in fixed point. -/
def fxLn2 : Int := 0xb17217f7d1cf79abc9e3b39803f2f6af40f343267298b62d8a0d175b8baafa2be7b876206debac98559552fb4afa1b10ed2eae35c138214427573b29

/-- One in fixed point. -/
def fxOne : Int := 2 ^ fxBits

/-- A product in fixed point. -/
def fxMul (a b : Int) : Int := a * b / fxOne

/-- m · 2^e in fixed point. -/
def fxOf (m : Nat) (e : Int) : Int :=
  let sh := e + fxBits
  if 0 ≤ sh then (m * 2 ^ sh.toNat : Nat) else ((m / 2 ^ (-sh).toNat : Nat) : Int)

/-- A power series: each term is the one before times `x`, divided by `d k`, for k from `k` on. -/
def fxSeries (x : Int) (d : Nat → Int) : Nat → Nat → Int → Int → Int
  | 0, _, _, sum => sum
  | fuel + 1, k, term, sum =>
    let t := fxMul term x / d k
    fxSeries x d fuel (k + 1) t (sum + t)

/-- e^x for 0 ≤ x < 1. -/
def fxExp (x : Int) : Int := fxSeries x (fun k => k) 100 1 fxOne fxOne

/-- sin x for |x| < 1. -/
def fxSin (x : Int) : Int := fxSeries (-(fxMul x x)) (fun k => ((2 * k) * (2 * k + 1) : Nat)) 50 1 x x

/-- cos x for |x| < 1. -/
def fxCos (x : Int) : Int := fxSeries (-(fxMul x x)) (fun k => ((2 * k - 1) * (2 * k) : Nat)) 50 1 fxOne fxOne

/-- ln of m / 2^b for 1/2 < m / 2^b < 2, by the series of the inverse hyperbolic tangent. -/
def fxLn (m b : Nat) : Int :=
  let one := 2 ^ b
  let z : Int := ((m : Int) - one) * fxOne / (m + one)
  let z2 := fxMul z z
  let rec go : Nat → Nat → Int → Int → Int
    | 0, _, _, sum => sum
    | fuel + 1, k, p, sum => let p := fxMul p z2; go fuel (k + 1) p (sum + p / (2 * k + 1 : Nat))
  2 * go 110 1 z z

/-- A fixed-point value with the bit that says the exact value lies beyond. -/
def fxNum (v : Int) : Num := .fin (decide (v < 0)) (2 * v.natAbs + 1) (-(fxBits : Int) - 1)

/-- A value just below m · 2^e in magnitude. -/
def justBelow (neg : Bool) (m : Nat) (e : Int) : Num := .fin neg (m * 2 ^ 300 - 1) (e - 300)

/-- A value just above m · 2^e in magnitude. -/
def justAbove (neg : Bool) (m : Nat) (e : Int) : Num := .fin neg (m * 2 ^ 300 + 1) (e - 300)

/-- |m · 2^e| < 2^k. -/
def magBelow (m : Nat) (e k : Int) : Bool := decide (e + m.log2 < k)

/-- e^(-a) or e^a of a = m · 2^e below 2^15, as fixed point times a power of two. -/
def fxExpOf (neg : Bool) (m : Nat) (e : Int) : Int × Int :=
  let a := fxOf m e
  let a := if neg then -a else a
  let n := a / fxLn2
  (fxExp (a - n * fxLn2), n)

/-! ## The functions -/

/-- ln of a positive value other than 1. -/
def lnNum (m : Nat) (e : Int) : Num :=
  let b := m.log2
  -- m / 2^b lies from 1 to below 2; above 3/2 it is halved, so that values below 1 lose nothing
  let (b, k) := if 3 * 2 ^ b ≤ 2 * m then (b + 1, e + b + 1) else (b, e + b)
  fxNum (fxLn m b + k * fxLn2)

/-- The remainder of a finite value modulo π/2, and the quadrant (R237). -/
def reduce (m : Nat) (e : Int) : Int × Nat :=
  let a := fxOf m e
  let q := (2 * a + fxHalfPi) / (2 * fxHalfPi)
  (a - q * fxHalfPi, (q % 4).toNat)

/-- sin of a nonzero finite value. -/
def sinNum (neg : Bool) (m : Nat) (e : Int) : Num :=
  if magBelow m e (-130) then justBelow neg m e
  else
    let (r, q) := reduce m e
    let v := match q with | 0 => fxSin r | 1 => fxCos r | 2 => -(fxSin r) | _ => -(fxCos r)
    fxNum (if neg then -v else v)

/-- cos of a nonzero finite value. -/
def cosNum (m : Nat) (e : Int) : Num :=
  if magBelow m e (-130) then justBelow false 1 0
  else
    let (r, q) := reduce m e
    fxNum (match q with | 0 => fxCos r | 1 => -(fxSin r) | 2 => -(fxCos r) | _ => fxSin r)

/-- tanh of a nonzero finite value. -/
def tanhNum (neg : Bool) (m : Nat) (e : Int) : Num :=
  if magBelow m e (-130) then justBelow neg m e
  else if !magBelow m e 7 then justBelow neg 1 0
  else
    -- e^(-2a) = x · 2^n with n ≤ 0; tanh a = (1 - e^(-2a)) / (1 + e^(-2a))
    let (x, n) := fxExpOf true m (e + 1)
    let y := x / 2 ^ (-n).toNat
    let v := (fxOne - y) * fxOne / (fxOne + y)
    fxNum (if neg then -v else v)

/-- 1 / (1 + e^(-a)) of a nonzero finite value. -/
def sigmNum (neg : Bool) (m : Nat) (e : Int) : Num :=
  if magBelow m e (-130) then (if neg then justBelow false 1 (-1) else justAbove false 1 (-1))
  else if !neg then
    if !magBelow m e 8 then justBelow false 1 0
    else
      let (x, n) := fxExpOf true m e
      fxNum (fxOne * fxOne / (fxOne + x / 2 ^ (-n).toNat))
  else if !magBelow m e 14 then justAbove false 1 (-30000)
  else
    -- e^a = x · 2^n with n ≤ 0; the result is e^a / (1 + e^a)
    let (x, n) := fxExpOf true m e
    let v := x * fxOne / (fxOne + x / 2 ^ (-n).toNat)
    (fxNum v).scale n

/-- 1 / √a of a positive value, to 260 bits with a last bit that marks what was cut off. -/
def rsqrtNum (m : Nat) (e : Int) : Num :=
  let odd := e % 2 = 1
  let m := if odd then 2 * m else m
  let e := if odd then e - 1 else e
  let p := 260 + m.log2
  let r := Num.isqrt (2 ^ (2 * p) / m)
  .fin false (2 * r + (if r * r * m = 2 ^ (2 * p) then 0 else 1)) (-(e / 2) - p - 1)

/-! ## Results -/

/-- A function of the group, by its code (R137). -/
inductive SfuOp where
  | exp | ln | rcp | rsq | sin | cos | tanh | sigm
  deriving DecidableEq, Repr

/-- The VB code of a function. -/
def SfuOp.code : SfuOp → Nat
  | exp => 0 | ln => 1 | rcp => 2 | rsq => 3 | sin => 4 | cos => 5 | tanh => 6 | sigm => 7

/-- What a function gives: a value rounded under R55, or an inexact value of which a neighbour is written (R233). -/
inductive SfuRes where
  | rounded (x : Num) (f : Flags)
  | faithful (x : Num)
  deriving DecidableEq, Repr

/-- The default NaN with some flags. -/
def sfuNan (f : Flags) : SfuRes := .rounded (.nan false) f

/-- The finite arguments that VSIN and VCOS reduce, by the source's format (R237). -/
def inRange (p : Fmt) (m : Nat) (e : Int) : Bool := m == 0 || magBelow m e (if p = .f64 then 48 else 24)

/-- The table of R233 for an argument that is no NaN. -/
def SfuOp.apply (op : SfuOp) (p : Fmt) (x : Num) : SfuRes :=
  match op, x with
  | _, .nan _ => sfuNan 0
  | .exp, x => .rounded (expNum x) 0
  | .ln, .inf false => .rounded (.inf false) 0
  | .ln, .inf true => sfuNan Flags.nv
  | .ln, .fin neg m e =>
    if m = 0 then .rounded (.inf true) Flags.dz
    else if neg then sfuNan Flags.nv
    else if Num.eq (.fin false m e) (.ofInt 1) then .rounded .zero 0
    else .faithful (lnNum m e)
  | .rcp, x => let (y, f) := (Num.ofInt 1).div x; .rounded y f
  | .rsq, .inf false => .rounded .zero 0
  | .rsq, .inf true => sfuNan Flags.nv
  | .rsq, .fin neg m e =>
    if m = 0 then .rounded (.inf neg) Flags.dz
    else if neg then sfuNan Flags.nv
    else .rounded (rsqrtNum m e) 0
  | .sin, .inf _ => sfuNan (Flags.nv ||| Flags.range)
  | .sin, .fin neg m e =>
    if m = 0 then .rounded x 0 else if inRange p m e then .faithful (sinNum neg m e) else sfuNan Flags.range
  | .cos, .inf _ => sfuNan (Flags.nv ||| Flags.range)
  | .cos, .fin _ m e =>
    if m = 0 then .rounded (.ofInt 1) 0 else if inRange p m e then .faithful (cosNum m e) else sfuNan Flags.range
  | .tanh, .inf neg => .rounded (.fin neg 1 0) 0
  | .tanh, .fin neg m e => if m = 0 then .rounded x 0 else .faithful (tanhNum neg m e)
  | .sigm, .inf neg => .rounded (if neg then .zero else .ofInt 1) 0
  | .sigm, .fin neg m e => if m = 0 then .rounded (.fin false 1 (-1)) 0 else .faithful (sigmNum neg m e)

/-- The neighbour of an inexact value that a function writes, and its flags (R233). -/
def faithfulBits (f : Fmt) (up : Bool) (x : Num) : Nat × Flags :=
  let b := (fitFp f .rtz x).1 + (if up then 1 else 0)
  (b, Flags.nx ||| Flags.when_ (b % 2 ^ (f.width - 1) < 2 ^ f.frac) Flags.uf)

/-- The answer of a function for an element's bits. -/
def sfuAns (op : SfuOp) (p : Fmt) (tagA tagD : BitVec 8) (t : Ty) (src : Nat) (x : Num × Flags) : Ans :=
  match op.apply p x.1, t with
  | .rounded y f, _ => .val y (f ||| x.2)
  | .faithful y, .fp f =>
    let (b, fl) := faithfulBits f (Config.faithfulUp op.code src tagA tagD) y
    .raw b (fl ||| x.2)
  | .faithful y, _ => .val y x.2

/-- A function of the SFU group other than VRAND (R232): `dest` says which types VD may carry. -/
def sfuInstr (op : SfuOp) (dest : Ty → Bool) (word : BitVec 32) (c : Bool) (d a : BitVec 6) (s : State) : Out :=
  let (nd, na) := (d.toNat, a.toNat)
  s.vector c .sf word [nd, na] (fun s => { tag := !(s.vreg na).ty.isFp || !dest (s.vreg nd).ty }) fun s =>
    let v := s.vreg na
    let p := match v.ty with | .fp f => f | _ => .f64
    s.overflow word (s.stackLimits nd v.levels) fun s =>
      let t := (s.vreg nd).ty
      s.finish nd v (s.fitter t v.ty.kind) ((s.active s.dm).map fun i =>
        (i, sfuAns op p v.tag (s.vreg nd).tag t (v.ty.get v.bits i) (v.num i)))

/-- VEXP (R234 to R236): the p8 variant writes a p8 register. -/
def execVexp (c : Bool) (d a : BitVec 6) (v : BitVec 1) (s : State) : Out :=
  sfuInstr .exp (fun t => if v = 1 then t == .p8 else t.isFp) (encode (.vexp c d a v)) c d a s

/-- VLN (R233). -/
def execVln (c : Bool) (d a : BitVec 6) (s : State) : Out :=
  sfuInstr .ln Ty.isFp (encode (.vln c d a)) c d a s

/-- VRCP (R233). -/
def execVrcp (c : Bool) (d a : BitVec 6) (s : State) : Out :=
  sfuInstr .rcp Ty.isFp (encode (.vrcp c d a)) c d a s

/-- VRSQ (R233). -/
def execVrsq (c : Bool) (d a : BitVec 6) (s : State) : Out :=
  sfuInstr .rsq Ty.isFp (encode (.vrsq c d a)) c d a s

/-- VSIN (R237). -/
def execVsin (c : Bool) (d a : BitVec 6) (s : State) : Out :=
  sfuInstr .sin Ty.isFp (encode (.vsin c d a)) c d a s

/-- VCOS (R237). -/
def execVcos (c : Bool) (d a : BitVec 6) (s : State) : Out :=
  sfuInstr .cos Ty.isFp (encode (.vcos c d a)) c d a s

/-- VTANH (R233). -/
def execVtanh (c : Bool) (d a : BitVec 6) (s : State) : Out :=
  sfuInstr .tanh Ty.isFp (encode (.vtanh c d a)) c d a s

/-- VSIGM (R233). -/
def execVsigm (c : Bool) (d a : BitVec 6) (s : State) : Out :=
  sfuInstr .sigm Ty.isFp (encode (.vsigm c d a)) c d a s

end Sys2Proof.Machine
end

