-- ==== Sys2Proof/Machine/System.lean ====
section
/-!
DEFINITION. System instructions: calls and returns (R165 to R167), fences (R164), state registers (R159 to R163, R285,
R286), invalidations (R168, R169), vector frames (R170) and WFI (R171).
-/

namespace Sys2Proof.Machine

/-- Sub-cause ILLPRIV (R140). -/
def privileged (s : State) : Bool × Nat := (s.user, 3)

/-! ## State registers -/

/-- Bits of a register changed where a mask has ones. -/
def maskWrite (mask old new : Word) : Word := (old &&& ~~~mask) ||| (new &&& mask)

/-- A field written unless the value is out of range. -/
def fieldWrite (old new lo w : Nat) (ok : Nat → Bool) : Nat :=
  if ok (bits new lo w) then bits new lo w else bits old lo w

/-- HTBASE or ERTBASE after a write (R285). -/
def tableWrite (maxLog : Nat) (old new : Word) : Word :=
  let log := fieldWrite old.toNat new.toNat 56 5 (· ≤ maxLog)
  BitVec.ofNat 64 (log * 2 ^ 56 + bits new.toNat 12 44 * 2 ^ 12)

/-- PCAP after a write: a cap below 200 W is 200 (R285). -/
def pcapWrite (new : Word) : Word := BitVec.ofNat 64 (bits new.toNat 16 1 * 2 ^ 16 + max 200 (bits new.toNat 0 16))

/-- TIERRATE after a write (R285). -/
def tierWrite (old new : Word) : Word :=
  BitVec.ofNat 64 (fieldWrite old.toNat new.toNat 0 10 fun v => 1 ≤ v && v ≤ 512)

/-- PARTCFG after a write: CMD reads 0, and PART is read with the partition's number (R285). -/
def partcfgWrite (old new : Word) : Word :=
  let q := fieldWrite old.toNat new.toNat 16 16 (· ≠ 0)
  BitVec.ofNat 64 (bits new.toNat 39 25 * 2 ^ 39 + q * 2 ^ 16 + bits new.toNat 12 4 * 2 ^ 12)

/-- GB of a gang (R25). -/
def Gang.word (x : Gang) : Word :=
  x.gcol ++ x.grow ++ BitVec.ofBool x.gfix ++ x.phase ++ BitVec.ofNat 5 x.arrived ++ BitVec.ofNat 5 x.members

namespace State

/-- HSTAT of the current hart (R21). -/
def hstat (s : State) : Word :=
  0#32 ++ BitVec.ofBool s.h.gone ++ 0#5 ++ s.pw ++ 0#1 ++ s.h.gang ++ s.hidOf s.cur

/-- CYCLE (R161). -/
def cycle (s : State) : Nat := s.cycles - (s.part s.partNo).resetAt

/-- The value of a state register by its number (R159). -/
def sr (s : State) (r : BitVec 8) : Word :=
  let p := s.part s.partNo
  match r.toNat with
  | 0 => s.h.vtype
  | 1 => BitVec.ofNat 64 s.h.vlr
  | 2 => BitVec.ofNat 64 s.h.vlc
  | 3 => BitVec.ofNat 64 s.h.estart
  | 4 => s.h.fcsr
  | 5 => s.h.exsplit.zeroExtend 64
  | 6 => s.hstat
  | 7 => if s.h.gang = 0 then 0 else (s.gangOf s.clNo s.h.gang).word
  | 8 => s.h.utvec
  | 9 => s.h.uframe
  | 10 => s.h.ucause
  | 11 => s.h.uval
  | 12 => BitVec.ofNat 64 s.cycle
  | 13 => BitVec.ofNat 64 (s.time s.partNo)
  | 64 => s.h.stvec
  | 65 => s.h.scause
  | 66 => s.h.sval
  | 67 => s.h.sframe
  | 68 => s.h.space.asid.zeroExtend 64
  | 69 => s.h.space.ptroot
  | 70 => s.h.space.htbase
  | 71 => s.h.space.ertbase
  | 72 => p.pcap
  | 73 => p.tierrate
  | 74 => p.lsbudget
  | 75 => p.partcfg ||| BitVec.ofNat 64 s.partNo
  | _ => 0

/-- ASID after a write: a value outside the partition's range leaves it (R286). -/
def asidWrite (s : State) (new : Word) : BitVec 14 :=
  let p := s.part s.partNo
  let v := new.extractLsb' 0 14
  if p.asidlo ≤ v ∧ v ≤ p.asidhi then v else s.h.space.asid

/-- The current hart's address space changed. -/
def modSpace (s : State) (f : Space → Space) : State := s.mod fun h => { h with space := f h.space }

/-- The same by a write of one of its registers: the tables are in force for the ASID. -/
def newSpace (s : State) (f : Space → Space) : State := (s.modSpace f).noteSpace s.partNo (f s.h.space)

/-- A state register written: only the fields that accept writes change (R160 to R162, R285). -/
def putSr (s : State) (r : BitVec 8) (v : Word) : State :=
  match r.toNat with
  | 0 => s.mod fun h => { h with vtype := maskWrite 7 h.vtype v, convoy := [] }
  | 4 => s.mod fun h => { h with fcsr := fcsrWrite h.fcsr v }
  | 5 => s.mod fun h => { h with exsplit := if bits v.toNat 0 5 ≤ 16 then v.extractLsb' 0 5 else h.exsplit, convoy := [] }
  | 6 => s.mod fun h => { h with gone := h.gone && v.getLsbD 31 }
  | 8 => s.mod fun h => { h with utvec := v &&& ~~~3#64 }
  | 9 => s.mod fun h => { h with uframe := v &&& ~~~127#64 }
  | 10 => s.mod fun h => { h with ucause := v &&& 0x80000000000001FF#64 }
  | 11 => s.mod fun h => { h with uval := v }
  | 64 => s.mod fun h => { h with stvec := v &&& ~~~3#64 }
  | 65 => s.mod fun h => { h with scause := v &&& 0xC0000000000000FF#64 }
  | 66 => s.mod fun h => { h with sval := v }
  | 67 => s.mod fun h => { h with sframe := v &&& ~~~127#64 }
  | 68 => (s.newSpace fun x => { x with asid := s.asidWrite v }).endConvoy
  | 69 => (s.newSpace fun x => { x with ptroot := v &&& 0x00FFFFFFFFFFFF00#64 }).endConvoy
  | 70 => (s.newSpace fun x => { x with htbase := tableWrite 24 x.htbase v }).endConvoy
  | 71 => (s.newSpace fun x => { x with ertbase := tableWrite 16 x.ertbase v }).endConvoy
  | 72 => s.modPart s.partNo fun p =>
      { p with pcap := pcapWrite v, duty := if p.hot || v.getLsbD 16 then p.duty else 16 }
  | 73 => (s.modPart s.partNo fun p => { p with tierrate := tierWrite p.tierrate v }).endConvoy
  | 74 => s.modPart s.partNo fun p => { p with lsbudget := v &&& 0xFFFFFFFF#64 }
  | 75 => (s.modPart s.partNo fun p => { p with partcfg := partcfgWrite p.partcfg v }).endConvoy
  | _ => s

/-- Registers whose access waits until every earlier vector instruction or access has completed (R163, R285). -/
def srWaits (write : Bool) (r : BitVec 8) : Bool :=
  let n := r.toNat
  n = 3 || n = 4 || n = 6 || n = 10 || n = 11 || (write && (68 ≤ n && n ≤ 71 || n = 73 || n = 75))

/-- A privileged state register (R140). -/
def srPrivileged (r : BitVec 8) : Bool := 64 ≤ r.toNat

/-- The target of a command in a PARTCFG value: the context, if it holds a live hart of that id (R285, R299). -/
def cmdTarget (s : State) (v : Word) : Option Nat :=
  let hid := v.extractLsb' 39 20
  let cl := bits v.toNat 59 5
  let k := 384 * s.partNo + 16 * cl + (hid.extractLsb' 0 4).toNat
  if cl < 24 ∧ (s.hart k).life ≠ .free ∧ (s.hart k).hgen = hid.extractLsb' 4 16 then some k else none

/-- The command that a write of PARTCFG gives (R299); its writer has gone past the write. -/
def partCommand (s : State) (v : Word) : Resumed :=
  match s.cmdTarget v with
  | none => .ok s
  | some k =>
    match bits v.toNat 37 2 with
    | 1 => .ok (s.preempt k)
    | 2 => s.resumeSaved k
    | 3 => .ok (s.endSaved k)
    | _ => .ok s

/-- A state register written with a value, and `d` with the old one where it is given, then on to the next instruction.
A resume that fails raises its trap at the write, which then has no effect (R299). -/
def writeSr (s : State) (r : BitVec 8) (v : Word) (d : Option (BitVec 6)) : Out :=
  let old := s.sr r
  let t := s.putSr r v
  let t := (match d with | some d => t.wr d old | none => t).adv
  if r = 75 then
    match t.partCommand v with
    | .ok t => .next t
    | .failed x _ => s.raise x
  else .next t

/-- An access of a state register: its privilege, then its wait, then its effect. -/
def srAccess (s : State) (word : BitVec 32) (write : Bool) (r : BitVec 8) (f : State → Out) : Out :=
  s.legal word [(srPrivileged r && s.user, 3)] fun _ =>
    if srWaits write r ∧ s.h.xfers ≠ [] then s.wait else f s

/-! ## Frames of VFSAVE -/

/-- A frame of kind 2 stored through a slot (R170). -/
def saveVector (s : State) (h : BitVec 4) (off : Word) : Out :=
  let (size, b, f) := s.makeFrame 2 s.h.pc 0
  match s.reach h .frame true [{ idx := 0, off := off.toNat, len := size }] with
  | (.trap t, s) => s.raise t
  | (.gone, s) => s.raise (Failed.gone.trap true h)
  | (.ok p, s) =>
    match p.elem { idx := 0, off := off.toNat, len := size } [] s with
    | (_, some (_, v), _, s) => s.raise { code := 11, val := v, vec := true, estart := 0 }
    | (l, none, _, s) => .next (s.putFrame l b f).endConvoy.adv

/-- A frame read through a slot and installed (R170). -/
def loadVector (s : State) (h : BitVec 4) (off : Word) : Out :=
  match s.one h .frameIn true off.toNat 1024 with
  | (.trap t, s) => s.raise t
  | (.gone, s) => s.raise (Failed.gone.trap true h)
  | (.runs l, s) =>
    let size := leNat (((s.raw l).drop 4).take 4)
    let bad : Trap := { code := 12, val := off, vec := true, estart := 0 }
    if (s.pkg.frames.find? fun f => f.key = s.h.key ∧ f.sealed = ((s.raw l).drop 32).take 16).isNone then s.raise bad
    else
      match s.one h .frameIn true off.toNat size with
      | (.trap t, s) => s.raise t
      | (.gone, s) => s.raise (Failed.gone.trap true h)
      | (.runs l, s) =>
        let (b, s) := s.load l 0
        match s.goodFrame [2, 3] b with
        | none => s.raise bad
        | some f => .next (s.mod fun x => x.setLanes (f.pw = s.pw) f.lanes).regrant.endConvoy.adv

/-- The TLB and walk-cache entries that a TLBINV of a page covers (R168): the leaves that map it and the pointers on its
path. -/
def onPath (asid : BitVec 14) (page : Word) (x : TlbEntry) : Bool :=
  let va := page.toNat * 65536
  x.asid == asid && (covers x va || (bits x.word0 11 1 = 0 && x.path = va >>> levelShift x.level))

end State

/-! ## The instructions -/

/-- ECALL (R165): the saved pc is the next instruction's. -/
def execEcall (c : Bool) (s : State) : Out := s.onHart c fun s => s.callTrap 2 0 (s.h.pc + 4)

/-- EBREAK (R165): the saved pc is the instruction's own, and SVAL its word. -/
def execEbreak (c : Bool) (s : State) : Out :=
  s.onHart c fun s => s.callTrap 3 ((encode (.ebreak c)).zeroExtend 64) s.h.pc

/-- URET (R166). -/
def execUret (c : Bool) (s : State) : Out := s.onHart c fun s => s.userReturn

/-- SRET (R167). -/
def execSret (c : Bool) (s : State) : Out :=
  s.onHart c fun s => s.legal (encode (.sret c)) [privileged s] fun _ => s.supReturn

/-- FENCE.SV (R104, R164): the front end has performed the scalar agent's stores and run the queue when a fence runs
(log 6). -/
def execFenceSv (c : Bool) (_sc : BitVec 3) (s : State) : Out := s.onHart c fun s => .next s.adv

/-- FENCE.VS (R104, R164): the vector agent's transfers are performed first. -/
def execFenceVs (c : Bool) (_sc : BitVec 3) (s : State) : Out := s.onHart c fun s => s.drained fun s => .next s.adv

/-- FENCE.VV (R104, R164). -/
def execFenceVv (c : Bool) (_sc : BitVec 3) (s : State) : Out := s.onHart c fun s => s.drained fun s => .next s.adv

/-- FENCE.ALL (R104, R164). -/
def execFenceAll (c : Bool) (_sc : BitVec 3) (s : State) : Out := s.onHart c fun s => s.drained fun s => .next s.adv

/-- RDSR (R162). -/
def execRdsr (c : Bool) (d : BitVec 6) (r : BitVec 8) (s : State) : Out :=
  s.onHart c fun s => s.srAccess (encode (.rdsr c d r)) false r fun s => .next (s.wr d (s.sr r)).adv

/-- WRSR (R162). -/
def execWrsr (c : Bool) (a : BitVec 6) (r : BitVec 8) (s : State) : Out :=
  s.onHart c fun s => s.srAccess (encode (.wrsr c a r)) true r fun s => s.writeSr r (s.rd a) none

/-- SETSR (R162). -/
def execSetsr (c : Bool) (d a : BitVec 6) (r : BitVec 8) (s : State) : Out :=
  s.onHart c fun s => s.srAccess (encode (.setsr c d a r)) true r fun s => s.writeSr r (s.sr r ||| s.rd a) (some d)

/-- CLRSR (R162). -/
def execClrsr (c : Bool) (d a : BitVec 6) (r : BitVec 8) (s : State) : Out :=
  s.onHart c fun s => s.srAccess (encode (.clrsr c d a r)) true r fun s => s.writeSr r (s.sr r &&& ~~~s.rd a) (some d)

/-- TLBINV (R168, R316): the hart's accesses are performed first. The front end lets it run once no other hart has an
access in flight that an entry translated (R116). -/
def execTlbinv (c : Bool) (d a : BitVec 6) (k : BitVec 2) (s : State) : Out :=
  s.onHart c fun s => s.legal (encode (.tlbinv c d a k)) [privileged s] fun _ => s.drained fun s =>
    let asid := (s.rd d).extractLsb' 0 14
    let page := s.rd a
    .next (s.modPart s.partNo fun p => { p with tlb := p.tlb.filter fun x =>
      !(k == 0 || (k == 1 && x.asid == asid) || (k == 2 && State.onPath asid page x)) }).adv

/-- HTINV (R169): it completes when every access of the hart that used an old copy has been performed; the front end sees
to the other harts' accesses, as for TLBINV. -/
def execHtinv (c : Bool) (d a : BitVec 6) (k : BitVec 1) (s : State) : Out :=
  s.onHart c fun s => s.legal (encode (.htinv c d a k)) [privileged s] fun _ => s.drained fun s =>
    let asid := (s.rd d).extractLsb' 0 14
    let index := (s.rd a).extractLsb' 0 24
    .next (s.modPart s.partNo fun p => { p with handles := p.handles.filter fun x =>
      !(x.asid == asid && (k == 0 || (!x.ert && x.index == index))) }).adv

/-- VFSAVE (R170): the hart's convoy drains first, and its transfers as for pre-emption (R221): the frame counts those that
have not ended, and they go on. -/
def execVfsave (c : Bool) (a : BitVec 6) (h : BitVec 4) (s : State) : Out :=
  s.onHart c fun s => s.legal (encode (.vfsave c a h)) [privileged s] fun _ => s.saveVector h (s.rd a)

/-- VFRESTORE (R170). It changes the tags and VTYPE, so the convoy ends. -/
def execVfrestore (c : Bool) (a : BitVec 6) (h : BitVec 4) (s : State) : Out :=
  s.onHart c fun s => s.legal (encode (.vfrestore c a h)) [privileged s] fun _ => s.drained fun s => s.loadVector h (s.rd a)

/-- WFI (R171): it completes at once where an interrupt is pending, and parks otherwise. -/
def execWfi (c : Bool) (s : State) : Out :=
  s.onHart c fun s => s.legal (encode (.wfi c)) [privileged s] fun _ =>
    if s.h.intr ≠ [] then .next s.adv else .next ((s.mod fun h => { h with park := some .wfi }).adv)

end Sys2Proof.Machine
end

