-- ==== Sys2Proof/Machine/VecAtomic.lean ====
section
/-!
DEFINITION. Vector atomics, compare-and-swap and wait (R205 to R208, R113 to R115). Acquire and release order
accesses of the vector agent (R105), which the queue keeps in that order: only a plain load or store overtakes, and only a
plain store (log 6).
-/

namespace Sys2Proof.Machine

namespace State

/-- The elements of an atomic or a wait: x(i) of the index vector, with no base (R205). -/
def indexed (s : State) (d i : Nat) : List Elem :=
  let z := (s.vreg d).ty.width / 8
  (s.active s.dm).map fun k => { idx := k, off := ((s.vreg i).num k).1.toInt, len := z }

/-- A list in an order drawn for it. -/
def shuffle {α : Type} (s : State) : List α → Nat → List α × State
  | _, 0 => ([], s)
  | [], _ => ([], s)
  | x :: l, fuel + 1 =>
    let (n, s) := s.pick (l.length + 1)
    let (r, s) := shuffle s ((x :: l).eraseIdx n) fuel
    ((x :: l).getD n x :: r, s)

/-- The elements in an order that an unordered atomic may take (R114): elements of different locations do not meet, so
only the order of those of one location is drawn. -/
def drawOrder (s : State) (l : List (Elem × List Piece)) : List (Elem × List Piece) × State :=
  (dedup (l.map (·.2))).foldl (fun a ps =>
    let same := l.filter fun x => x.2 = ps
    let (r, s) := a.2.shuffle same same.length
    (a.1 ++ r, s)) ([], s)

/-- A vector atomic (R205, R115): the checks of R74 over every active element, then every page, then the elements in
order or in a drawn one, each one atomic step that answers what it fetches. In scratchpad the owning lane applies them in
element order (R94). A watcher sees every value in between (R42, R305). -/
def atomic (s : State) (word : BitVec 32) (ordered : Bool) (d i : Nat) (h : BitVec 4) (f : State → Nat → List Piece → Nat × State) : Out :=
  let l := s.indexed d i
  match s.reach h .atomic true l with
  | (.trap t, s) => s.raise (t.of word)
  | (.gone, s) => s.raise ((Failed.gone.trap true h).of word)
  | (.ok p, s) =>
    match (p.inMode 2).elems l [] s with
    | (_, some (_, _, e, v), _, s) => s.raise ((walkTrap true e v 0).of word)
    | (found, none, _, s) =>
      let (found, s) := if ordered || p.ent.space = 1 then (found, s) else s.drawOrder found
      let t := (s.vreg d).ty
      let (r, s) := found.foldl (fun a x =>
        let (old, s) := f a.2 x.1.idx x.2
        (t.set a.1 x.1.idx old, s.notifyAll)) ((s.vreg d).bits, s)
      .next (s.putVec d r VReg.reset).endResume.adv

/-- What makes a VAMO illegal by its tags (R205). -/
def badAmo (s : State) (op : Amo) (d i : Nat) : Illegal :=
  let t := (s.vreg d).ty
  { tag := !(t.isWide || (op = .swap && (t = .fp .f32 || t = .fp .f64))) || !(s.vreg i).ty.isWide }

/-- A tag of 4 or 8 bytes (R206). -/
def casTag (t : Ty) : Bool := !t.blocked && (t.width = 32 || t.width = 64)

/-- What makes a VCAS illegal: VD + 1 at or beyond NREG, and its tags (R206). -/
def badCas (s : State) (d i : Nat) : Illegal :=
  { tag := !casTag (s.vreg d).ty || !casTag (s.vreg (d + 1)).ty || (s.vreg d).ty.width ≠ (s.vreg (d + 1)).ty.width ||
           !(s.vreg i).ty.isWide }

/-- One atomic step of a VCAS (R206): the value fetched, and the new one stored where it equals the expected one. -/
def casStep (s : State) (l : List Piece) (size want new elem : Nat) : Nat × State :=
  match s.badIn l with
  | w :: _ => (0, s.meet w elem)
  | [] =>
    let old := leNat (s.raw l)
    (old, if old = want then s.putAll l (leBytes size new) else s)

/-- The watch of an element of a VWAIT, tested at issue (R42); the value of a word with an error is 0 (R368). -/
def watchOf (s : State) (cond : Cond) (d : Nat) (x : Elem × List Piece) : Watch × State :=
  let t := (s.vreg d).ty
  let signed := match t with | .int g _ _ => g | _ => false
  let value := if cond = .nz then 0 else t.get (s.vreg d).bits x.1.idx
  let (b, s) := s.load x.2 x.1.idx
  ({ locs := bytesOf x.2, cond := cond, signed := signed, value := value, met := cond.holds signed t.width (leNat b) value },
    s)

/-- The watches of a VWAIT's elements, in turn. -/
def watchAll (s : State) (cond : Cond) (d : Nat) : List (Elem × List Piece) → List Watch × State
  | [] => ([], s)
  | x :: l =>
    let (w, s) := s.watchOf cond d x
    let (r, s) := watchAll s cond d l
    (w :: r, s)

end State

/-- The condition of VWAIT's OP (R207). -/
def waitCond (o : BitVec 3) : Cond :=
  match o.toNat with | 1 => .eq | 2 => .ne | 3 => .lt | 4 => .le | 5 => .gt | 6 => .ge | _ => .nz

/-- VAMO (R205). -/
def vamo (op : Amo) (word : BitVec 32) (c : Bool) (d : BitVec 6) (h : BitVec 4) (i : BitVec 6) (o : BitVec 1)
    (s : State) : Out :=
  let (n, m) := (d.toNat, i.toNat)
  s.vector c .aw word [n, m] (fun s => s.badAmo op n m) fun s =>
    let v := s.vreg n
    let signed := match v.ty with | .int g _ _ => g | _ => false
    s.atomic word (o = 1) n m h fun s k l => s.amo op signed l (v.ty.width / 8) (v.ty.get v.bits k) k

/-- VCAS (R206): the order of the elements is free. -/
def execVcas (c : Bool) (d : BitVec 6) (h : BitVec 4) (i : BitVec 6) (q r : BitVec 1) (s' : BitVec 3) (s : State) : Out :=
  let (n, m) := (d.toNat, i.toNat)
  let word := encode (.vcas c d h i q r s')
  s.vector c .aw word [n, n + 1, m] (fun s => s.badCas n m) fun s =>
    let (v, w) := (s.vreg n, s.vreg (n + 1))
    s.atomic word false n m h fun s k l => s.casStep l (v.ty.width / 8) (v.ty.get v.bits k) (w.ty.get w.bits k) k

/-- VWAIT (R207, R42): it completes at once where every active element is satisfied, and parks otherwise. -/
def execVwait (c : Bool) (d : BitVec 6) (h : BitVec 4) (i : BitVec 6) (o s' : BitVec 3) (s : State) : Out :=
  let (n, m) := (d.toNat, i.toNat)
  let word := encode (.vwait c d h i o s')
  s.vector c .aw word [n, m]
    (fun s => { tag := !(s.vreg n).ty.isWide || !(s.vreg m).ty.isWide }) fun s =>
    let l := s.indexed n m
    match s.reach h .wait true l with
    | (.trap t, s) => s.raise (t.of word)
    | (.gone, s) => s.raise ((Failed.gone.trap true h).of word)
    | (.ok p, s) =>
      match (p.inMode 2).elems l [] s with
      | (_, some (_, _, e, v), _, s) => s.raise ((walkTrap true e v 0).of word)
      | (found, none, _, s) =>
        let (w, s) := s.watchAll (waitCond o) n found
        let s := s.endResume
        .next (if w.all (·.met) then s.adv else (s.mod fun h => { h with park := some (.vwait w) }).adv)

/-- VAMO_ADD (R205). -/
def execVamoAdd (c : Bool) (d : BitVec 6) (h : BitVec 4) (i : BitVec 6) (o q r : BitVec 1) (s' : BitVec 3)
    (s : State) : Out := vamo .add (encode (.vamoAdd c d h i o q r s')) c d h i o s

/-- VAMO_ADDSAT (R205). -/
def execVamoAddsat (c : Bool) (d : BitVec 6) (h : BitVec 4) (i : BitVec 6) (o q r : BitVec 1) (s' : BitVec 3)
    (s : State) : Out := vamo .addsat (encode (.vamoAddsat c d h i o q r s')) c d h i o s

/-- VAMO_MIN (R205). -/
def execVamoMin (c : Bool) (d : BitVec 6) (h : BitVec 4) (i : BitVec 6) (o q r : BitVec 1) (s' : BitVec 3)
    (s : State) : Out := vamo .min (encode (.vamoMin c d h i o q r s')) c d h i o s

/-- VAMO_MAX (R205). -/
def execVamoMax (c : Bool) (d : BitVec 6) (h : BitVec 4) (i : BitVec 6) (o q r : BitVec 1) (s' : BitVec 3)
    (s : State) : Out := vamo .max (encode (.vamoMax c d h i o q r s')) c d h i o s

/-- VAMO_AND (R205). -/
def execVamoAnd (c : Bool) (d : BitVec 6) (h : BitVec 4) (i : BitVec 6) (o q r : BitVec 1) (s' : BitVec 3)
    (s : State) : Out := vamo .and (encode (.vamoAnd c d h i o q r s')) c d h i o s

/-- VAMO_OR (R205). -/
def execVamoOr (c : Bool) (d : BitVec 6) (h : BitVec 4) (i : BitVec 6) (o q r : BitVec 1) (s' : BitVec 3)
    (s : State) : Out := vamo .or (encode (.vamoOr c d h i o q r s')) c d h i o s

/-- VAMO_XOR (R205). -/
def execVamoXor (c : Bool) (d : BitVec 6) (h : BitVec 4) (i : BitVec 6) (o q r : BitVec 1) (s' : BitVec 3)
    (s : State) : Out := vamo .xor (encode (.vamoXor c d h i o q r s')) c d h i o s

/-- VAMO_SWAP (R205). -/
def execVamoSwap (c : Bool) (d : BitVec 6) (h : BitVec 4) (i : BitVec 6) (o q r : BitVec 1) (s' : BitVec 3)
    (s : State) : Out := vamo .swap (encode (.vamoSwap c d h i o q r s')) c d h i o s

end Sys2Proof.Machine
end

