-- ==== Sys2Proof/Machine/VecUn.lean ====
section
/-!
DEFINITION. Unary operations, conversion and broadcast: VUN, VRSCALE and VBC (R180 to R182).
-/

namespace Sys2Proof.Machine

/-- The functions of VUN that compute from the value of an element (R180). -/
inductive UnOp where
  | abs | neg | not | sqrt | clz | popc | cvt
  deriving DecidableEq, Repr

/-- Functions that accept integer kind only. -/
def UnOp.intOnly : UnOp → Bool
  | not | clz | popc => true
  | _ => false

/-- The bits set in a number of w bits. -/
def popcount (w u : Nat) : Nat := ((List.range w).filter fun i => bits u i 1 = 1).length

/-- The square root of an element: a negative value of integer or exact kind writes zero with NV (R180). -/
def sqrtNum (k : Kind) (a : Num) : Num × Flags :=
  match a with
  | .fin true (_ + 1) _ => if k.isFloat then (.nan false, Flags.nv) else (.zero, Flags.nv)
  | a => a.sqrt

/-- The result of a function of VUN, with w the width of VD's tag and wa that of VA's (R180). -/
def UnOp.apply (op : UnOp) (k : Kind) (w wa : Nat) (a : Num) : Ans :=
  let u := wrapInt wa a.toInt
  match op with
  | .abs => .val a.abs 0
  | .neg => .val a.neg 0
  | .not => .raw (2 ^ w - 1 - wrapInt w a.toInt) 0
  | .sqrt => ansOf (sqrtNum k a)
  | .clz => .val (.ofInt ((if u = 0 then wa else wa - 1 - u.log2 : Nat) : Int)) 0
  | .popc => .val (.ofInt (popcount wa u)) 0
  | .cvt => .val a 0

/-- A function of VUN (R180). -/
def unInstr (op : UnOp) (word : BitVec 32) (c : Bool) (d a : BitVec 6) (m : BitVec 2) (s : State) : Out :=
  let (nd, na) := (d.toNat, a.toNat)
  s.vector c .ew word [nd, na] (fun s => { tag := op.intOnly && (s.vreg na).ty.kind != .integer }) fun s =>
    let v := s.vreg na
    s.overflow word (s.stackLimits nd v.levels) fun s =>
      s.finish nd v (s.fitter (s.vreg nd).ty v.ty.kind) ((s.active m.toNat).map fun i =>
        let (x, f) := v.num i
        (i, (op.apply v.ty.kind (s.vreg nd).ty.width v.ty.width x).more f))

/-- VABS (R180). -/
def execVabs (c : Bool) (d a : BitVec 6) (m : BitVec 2) (s : State) : Out :=
  unInstr .abs (encode (.vabs c d a m)) c d a m s

/-- VNEG (R180). -/
def execVneg (c : Bool) (d a : BitVec 6) (m : BitVec 2) (s : State) : Out :=
  unInstr .neg (encode (.vneg c d a m)) c d a m s

/-- VNOT (R180). -/
def execVnot (c : Bool) (d a : BitVec 6) (m : BitVec 2) (s : State) : Out :=
  unInstr .not (encode (.vnot c d a m)) c d a m s

/-- VSQRT (R180). -/
def execVsqrt (c : Bool) (d a : BitVec 6) (m : BitVec 2) (s : State) : Out :=
  unInstr .sqrt (encode (.vsqrt c d a m)) c d a m s

/-- VCLZ (R180). -/
def execVclz (c : Bool) (d a : BitVec 6) (m : BitVec 2) (s : State) : Out :=
  unInstr .clz (encode (.vclz c d a m)) c d a m s

/-- VPOPC (R180). -/
def execVpopc (c : Bool) (d a : BitVec 6) (m : BitVec 2) (s : State) : Out :=
  unInstr .popc (encode (.vpopc c d a m)) c d a m s

/-- VCVT (R180). -/
def execVcvt (c : Bool) (d a : BitVec 6) (m : BitVec 2) (s : State) : Out :=
  unInstr .cvt (encode (.vcvt c d a m)) c d a m s

/-- VMV (R180): the bits as they are, between registers of one tag. -/
def execVmv (c : Bool) (d a : BitVec 6) (m : BitVec 2) (s : State) : Out :=
  let (nd, na) := (d.toNat, a.toNat)
  let word := encode (.vmv c d a m)
  s.vector c .ew word [nd, na] (fun s => { tag := (s.vreg na).tag != (s.vreg nd).tag }) fun s =>
    let v := s.vreg na
    s.overflow word (s.stackLimits nd v.levels) fun s =>
      .next (s.putVec nd (copyEls v.ty v.bits (s.vreg nd).bits (s.active m.toNat)) v).adv

/-- VIOTA (R180): depth 0. -/
def execViota (c : Bool) (d : BitVec 6) (m : BitVec 2) (s : State) : Out :=
  s.vector c .ew (encode (.viota c d m)) [d.toNat] (fun _ => {}) fun s =>
    s.finish d.toNat VReg.reset (s.fitter (s.vreg d.toNat).ty .integer)
      ((s.active m.toNat).map fun i => (i, .val (.ofInt i) 0))

/-- The blocks of 64 that hold an active element. -/
def activeBlocks (l : List Nat) : List Nat := dedup (l.map (· / 64))

/-- VRSCALE (R181): whole blocks of VD, the active elements with VA's values and the others with their own, at the scale
that suits them all. -/
def execVrscale (c : Bool) (d a : BitVec 6) (m : BitVec 2) (s : State) : Out :=
  let (nd, na) := (d.toNat, a.toNat)
  let word := encode (.vrscale c d a m)
  s.vector c .ew word [nd, na] (fun s => { tag := !(s.vreg nd).ty.isQ }) fun s =>
    let v := s.vreg na
    s.overflow word (s.stackLimits nd v.levels) fun s =>
      let act := s.active m.toNat
      s.finish nd v (s.fitter (s.vreg nd).ty v.ty.kind) ((activeBlocks act).flatMap fun b =>
        (List.range 64).map fun e =>
          let i := 64 * b + e
          (i, ansOf (if act.contains i then v.num i else (s.vreg nd).num i)))

/-- VBC (R182): the scalar's bits in VD's tag, or for a block-scaled tag the signed integer it holds; depth 0. -/
def execVbc (c : Bool) (d a : BitVec 6) (m : BitVec 2) (s : State) : Out :=
  let nd := d.toNat
  s.vector c .ew (encode (.vbc c d a m)) [nd] (fun _ => {}) fun s =>
    let t := (s.vreg nd).ty
    let x : Ans := if t.isQ then .val (.ofInt (s.rd a).toInt) 0 else .raw (s.scalarBits t a) 0
    s.finish nd VReg.reset (s.fitter t .integer) ((s.active m.toNat).map fun i => (i, x))

end Sys2Proof.Machine
end

