-- ==== Sys2Proof/Machine/Dispatch.lean ====
section
/-!
DEFINITION. Which meaning each instruction and each event has.
-/

namespace Sys2Proof.Machine

/-- One step's effect of an instruction or event. -/
def exec (i : Instr) (s : State) : Host.Outcome State Fault Refusal :=
  match i with
  | .ecall c => Sys2Proof.Machine.execEcall c s
  | .ebreak c => Sys2Proof.Machine.execEbreak c s
  | .uret c => Sys2Proof.Machine.execUret c s
  | .sret c => Sys2Proof.Machine.execSret c s
  | .fenceSv c sc => Sys2Proof.Machine.execFenceSv c sc s
  | .fenceVs c sc => Sys2Proof.Machine.execFenceVs c sc s
  | .fenceVv c sc => Sys2Proof.Machine.execFenceVv c sc s
  | .fenceAll c sc => Sys2Proof.Machine.execFenceAll c sc s
  | .rdsr c d r => Sys2Proof.Machine.execRdsr c d r s
  | .wrsr c a r => Sys2Proof.Machine.execWrsr c a r s
  | .setsr c d a r => Sys2Proof.Machine.execSetsr c d a r s
  | .clrsr c d a r => Sys2Proof.Machine.execClrsr c d a r s
  | .tlbinv c d a k => Sys2Proof.Machine.execTlbinv c d a k s
  | .htinv c d a k => Sys2Proof.Machine.execHtinv c d a k s
  | .vfsave c a h => Sys2Proof.Machine.execVfsave c a h s
  | .vfrestore c a h => Sys2Proof.Machine.execVfrestore c a h s
  | .wfi c => Sys2Proof.Machine.execWfi c s
  | .add c d a b => Sys2Proof.Machine.execAdd c d a b s
  | .sub c d a b => Sys2Proof.Machine.execSub c d a b s
  | .and c d a b => Sys2Proof.Machine.execAnd c d a b s
  | .or c d a b => Sys2Proof.Machine.execOr c d a b s
  | .xor c d a b => Sys2Proof.Machine.execXor c d a b s
  | .sll c d a b => Sys2Proof.Machine.execSll c d a b s
  | .srl c d a b => Sys2Proof.Machine.execSrl c d a b s
  | .sra c d a b => Sys2Proof.Machine.execSra c d a b s
  | .slt c d a b => Sys2Proof.Machine.execSlt c d a b s
  | .sltu c d a b => Sys2Proof.Machine.execSltu c d a b s
  | .min c d a b => Sys2Proof.Machine.execMin c d a b s
  | .max c d a b => Sys2Proof.Machine.execMax c d a b s
  | .minu c d a b => Sys2Proof.Machine.execMinu c d a b s
  | .maxu c d a b => Sys2Proof.Machine.execMaxu c d a b s
  | .mul c d a b => Sys2Proof.Machine.execMul c d a b s
  | .mulh c d a b => Sys2Proof.Machine.execMulh c d a b s
  | .mulhu c d a b => Sys2Proof.Machine.execMulhu c d a b s
  | .div c d a b => Sys2Proof.Machine.execDiv c d a b s
  | .divu c d a b => Sys2Proof.Machine.execDivu c d a b s
  | .rem c d a b => Sys2Proof.Machine.execRem c d a b s
  | .remu c d a b => Sys2Proof.Machine.execRemu c d a b s
  | .clz c d a => Sys2Proof.Machine.execClz c d a s
  | .ctz c d a => Sys2Proof.Machine.execCtz c d a s
  | .popc c d a => Sys2Proof.Machine.execPopc c d a s
  | .sext c d a w => Sys2Proof.Machine.execSext c d a w s
  | .zext c d a w => Sys2Proof.Machine.execZext c d a w s
  | .addi c d a im => Sys2Proof.Machine.execAddi c d a im s
  | .andi c d a im => Sys2Proof.Machine.execAndi c d a im s
  | .ori c d a im => Sys2Proof.Machine.execOri c d a im s
  | .xori c d a im => Sys2Proof.Machine.execXori c d a im s
  | .slti c d a im => Sys2Proof.Machine.execSlti c d a im s
  | .slli c d a n => Sys2Proof.Machine.execSlli c d a n s
  | .srli c d a n => Sys2Proof.Machine.execSrli c d a n s
  | .srai c d a n => Sys2Proof.Machine.execSrai c d a n s
  | .ldhi c d im => Sys2Proof.Machine.execLdhi c d im s
  | .addpc c d im => Sys2Proof.Machine.execAddpc c d im s
  | .sfaddF32 c d a b => Sys2Proof.Machine.execSfaddF32 c d a b s
  | .sfaddF64 c d a b => Sys2Proof.Machine.execSfaddF64 c d a b s
  | .sfsubF32 c d a b => Sys2Proof.Machine.execSfsubF32 c d a b s
  | .sfsubF64 c d a b => Sys2Proof.Machine.execSfsubF64 c d a b s
  | .sfmulF32 c d a b => Sys2Proof.Machine.execSfmulF32 c d a b s
  | .sfmulF64 c d a b => Sys2Proof.Machine.execSfmulF64 c d a b s
  | .sfdivF32 c d a b => Sys2Proof.Machine.execSfdivF32 c d a b s
  | .sfdivF64 c d a b => Sys2Proof.Machine.execSfdivF64 c d a b s
  | .sfmaF32 c d a b => Sys2Proof.Machine.execSfmaF32 c d a b s
  | .sfmaF64 c d a b => Sys2Proof.Machine.execSfmaF64 c d a b s
  | .sfsqrtF32 c d a => Sys2Proof.Machine.execSfsqrtF32 c d a s
  | .sfsqrtF64 c d a => Sys2Proof.Machine.execSfsqrtF64 c d a s
  | .sfminF32 c d a b => Sys2Proof.Machine.execSfminF32 c d a b s
  | .sfminF64 c d a b => Sys2Proof.Machine.execSfminF64 c d a b s
  | .sfmaxF32 c d a b => Sys2Proof.Machine.execSfmaxF32 c d a b s
  | .sfmaxF64 c d a b => Sys2Proof.Machine.execSfmaxF64 c d a b s
  | .sfcmpF32 c d a b o => Sys2Proof.Machine.execSfcmpF32 c d a b o s
  | .sfcmpF64 c d a b o => Sys2Proof.Machine.execSfcmpF64 c d a b o s
  | .sfcvtF32 c d a o => Sys2Proof.Machine.execSfcvtF32 c d a o s
  | .sfcvtF64 c d a o => Sys2Proof.Machine.execSfcvtF64 c d a o s
  | .sfmvF32 c d a => Sys2Proof.Machine.execSfmvF32 c d a s
  | .sfmvF64 c d a => Sys2Proof.Machine.execSfmvF64 c d a s
  | .sld c d h a w im => Sys2Proof.Machine.execSld c d h a w im s
  | .sst c d h a w im => Sys2Proof.Machine.execSst c d h a w im s
  | .samoAdd c d h im w q r sc => Sys2Proof.Machine.execSamoAdd c d h im w q r sc s
  | .samoAddsat c d h im w q r sc => Sys2Proof.Machine.execSamoAddsat c d h im w q r sc s
  | .samoMin c d h im w q r sc => Sys2Proof.Machine.execSamoMin c d h im w q r sc s
  | .samoMax c d h im w q r sc => Sys2Proof.Machine.execSamoMax c d h im w q r sc s
  | .samoAnd c d h im w q r sc => Sys2Proof.Machine.execSamoAnd c d h im w q r sc s
  | .samoOr c d h im w q r sc => Sys2Proof.Machine.execSamoOr c d h im w q r sc s
  | .samoXor c d h im w q r sc => Sys2Proof.Machine.execSamoXor c d h im w q r sc s
  | .samoSwap c d h im w q r sc => Sys2Proof.Machine.execSamoSwap c d h im w q r sc s
  | .beq c a b o => Sys2Proof.Machine.execBeq c a b o s
  | .bne c a b o => Sys2Proof.Machine.execBne c a b o s
  | .blt c a b o => Sys2Proof.Machine.execBlt c a b o s
  | .bge c a b o => Sys2Proof.Machine.execBge c a b o s
  | .bltu c a b o => Sys2Proof.Machine.execBltu c a b o s
  | .bgeu c a b o => Sys2Proof.Machine.execBgeu c a b o s
  | .jal c d im => Sys2Proof.Machine.execJal c d im s
  | .jalr c d a im => Sys2Proof.Machine.execJalr c d a im s
  | .subbnz c a b o => Sys2Proof.Machine.execSubbnz c a b o s
  | .vcfg c n t => Sys2Proof.Machine.execVcfg c n t s
  | .vtag c d t => Sys2Proof.Machine.execVtag c d t s
  | .vsetvl c d a b => Sys2Proof.Machine.execVsetvl c d a b s
  | .vsetvlg c d a b => Sys2Proof.Machine.execVsetvlg c d a b s
  | .part c n => Sys2Proof.Machine.execPart c n s
  | .cbld c d a k h => Sys2Proof.Machine.execCbld c d a k h s
  | .hspawn c d a o => Sys2Proof.Machine.execHspawn c d a o s
  | .hexit c => Sys2Proof.Machine.execHexit c s
  | .hwait c a => Sys2Proof.Machine.execHwait c a s
  | .yield c => Sys2Proof.Machine.execYield c s
  | .gang c a => Sys2Proof.Machine.execGang c a s
  | .gbar c => Sys2Proof.Machine.execGbar c s
  | .lspop c d a => Sys2Proof.Machine.execLspop c d a s
  | .lspush c a => Sys2Proof.Machine.execLspush c a s
  | .vadd c d a b e m => Sys2Proof.Machine.execVadd c d a b e m s
  | .vsub c d a b e m => Sys2Proof.Machine.execVsub c d a b e m s
  | .vmul c d a b e m => Sys2Proof.Machine.execVmul c d a b e m s
  | .vmulh c d a b e m => Sys2Proof.Machine.execVmulh c d a b e m s
  | .vfma c d a b e m => Sys2Proof.Machine.execVfma c d a b e m s
  | .vfms c d a b e m => Sys2Proof.Machine.execVfms c d a b e m s
  | .vdiv c d a b e m => Sys2Proof.Machine.execVdiv c d a b e m s
  | .vrem c d a b e m => Sys2Proof.Machine.execVrem c d a b e m s
  | .vmin c d a b e m => Sys2Proof.Machine.execVmin c d a b e m s
  | .vmax c d a b e m => Sys2Proof.Machine.execVmax c d a b e m s
  | .vand c d a b e m => Sys2Proof.Machine.execVand c d a b e m s
  | .vor c d a b e m => Sys2Proof.Machine.execVor c d a b e m s
  | .vxor c d a b e m => Sys2Proof.Machine.execVxor c d a b e m s
  | .vshl c d a b e m => Sys2Proof.Machine.execVshl c d a b e m s
  | .vshrL c d a b e m => Sys2Proof.Machine.execVshrL c d a b e m s
  | .vshrA c d a b e m => Sys2Proof.Machine.execVshrA c d a b e m s
  | .vshrAr c d a b e m => Sys2Proof.Machine.execVshrAr c d a b e m s
  | .vcmp c o d a b e m => Sys2Proof.Machine.execVcmp c o d a b e m s
  | .vsel c d a b e m => Sys2Proof.Machine.execVsel c d a b e m s
  | .vabs c d a m => Sys2Proof.Machine.execVabs c d a m s
  | .vneg c d a m => Sys2Proof.Machine.execVneg c d a m s
  | .vnot c d a m => Sys2Proof.Machine.execVnot c d a m s
  | .vsqrt c d a m => Sys2Proof.Machine.execVsqrt c d a m s
  | .vclz c d a m => Sys2Proof.Machine.execVclz c d a m s
  | .vpopc c d a m => Sys2Proof.Machine.execVpopc c d a m s
  | .vmv c d a m => Sys2Proof.Machine.execVmv c d a m s
  | .viota c d m => Sys2Proof.Machine.execViota c d m s
  | .vcvt c d a m => Sys2Proof.Machine.execVcvt c d a m s
  | .vrscale c d a m => Sys2Proof.Machine.execVrscale c d a m s
  | .vbc c d a m => Sys2Proof.Machine.execVbc c d a m s
  | .vadds c d a b e m => Sys2Proof.Machine.execVadds c d a b e m s
  | .vabsd c d a b e m => Sys2Proof.Machine.execVabsd c d a b e m s
  | .vavg c d a b e m => Sys2Proof.Machine.execVavg c d a b e m s
  | .vslideUp c d a b e m => Sys2Proof.Machine.execVslideUp c d a b e m s
  | .vslideDn c d a b e m => Sys2Proof.Machine.execVslideDn c d a b e m s
  | .vmskAnd c d a b => Sys2Proof.Machine.execVmskAnd c d a b s
  | .vmskOr c d a b => Sys2Proof.Machine.execVmskOr c d a b s
  | .vmskXor c d a b => Sys2Proof.Machine.execVmskXor c d a b s
  | .vmskAndn c d a b => Sys2Proof.Machine.execVmskAndn c d a b s
  | .vmskNot c d a => Sys2Proof.Machine.execVmskNot c d a s
  | .vmskCount c d a => Sys2Proof.Machine.execVmskCount c d a s
  | .vmskFirst c d a => Sys2Proof.Machine.execVmskFirst c d a s
  | .vaddk c d p a q b => Sys2Proof.Machine.execVaddk c d p a q b s
  | .vsubk c d p a q b => Sys2Proof.Machine.execVsubk c d p a q b s
  | .vmulk c d p a q b => Sys2Proof.Machine.execVmulk c d p a q b s
  | .vfmak c d p a q b => Sys2Proof.Machine.execVfmak c d p a q b s
  | .vmink c d p a q b => Sys2Proof.Machine.execVmink c d p a q b s
  | .vmaxk c d p a q b => Sys2Proof.Machine.execVmaxk c d p a q b s
  | .vselk c d p a q b => Sys2Proof.Machine.execVselk c d p a q b s
  | .vcmpk c o d p a q b => Sys2Proof.Machine.execVcmpk c o d p a q b s
  | .spush c d a b => Sys2Proof.Machine.execSpush c d a b s
  | .spop c d a b => Sys2Proof.Machine.execSpop c d a b s
  | .sdepth c d a => Sys2Proof.Machine.execSdepth c d a s
  | .sgetl c d a b e => Sys2Proof.Machine.execSgetl c d a b e s
  | .vflat c d a e => Sys2Proof.Machine.execVflat c d a e s
  | .sopen c d a b => Sys2Proof.Machine.execSopen c d a b s
  | .vredAdd c d a b e m => Sys2Proof.Machine.execVredAdd c d a b e m s
  | .vredMul c d a b e m => Sys2Proof.Machine.execVredMul c d a b e m s
  | .vredMin c d a b e m => Sys2Proof.Machine.execVredMin c d a b e m s
  | .vredMax c d a b e m => Sys2Proof.Machine.execVredMax c d a b e m s
  | .vredbAnd c d a b e m => Sys2Proof.Machine.execVredbAnd c d a b e m s
  | .vredbOr c d a b e m => Sys2Proof.Machine.execVredbOr c d a b e m s
  | .vredbXor c d a b e m => Sys2Proof.Machine.execVredbXor c d a b e m s
  | .vidxmax c d a b e m => Sys2Proof.Machine.execVidxmax c d a b e m s
  | .vscanAddInc c d a b e m => Sys2Proof.Machine.execVscanAddInc c d a b e m s
  | .vscanAddExc c d a b e m => Sys2Proof.Machine.execVscanAddExc c d a b e m s
  | .vscanMaxInc c d a b e m => Sys2Proof.Machine.execVscanMaxInc c d a b e m s
  | .vscanMaxExc c d a b e m => Sys2Proof.Machine.execVscanMaxExc c d a b e m s
  | .vpack c d a m => Sys2Proof.Machine.execVpack c d a m s
  | .vdist c d a b e m => Sys2Proof.Machine.execVdist c d a b e m s
  | .vsplitMask c d a m => Sys2Proof.Machine.execVsplitMask c d a m s
  | .vsplitThree c d a => Sys2Proof.Machine.execVsplitThree c d a s
  | .vgatherr c d a b e m => Sys2Proof.Machine.execVgatherr c d a b e m s
  | .vpushl c d a b e m => Sys2Proof.Machine.execVpushl c d a b e m s
  | .vpermb c d a b m => Sys2Proof.Machine.execVpermb c d a b m s
  | .vrev c d a e m => Sys2Proof.Machine.execVrev c d a e m s
  | .vmergek c d a b e m => Sys2Proof.Machine.execVmergek c d a b e m s
  | .vconfl c d a g m => Sys2Proof.Machine.execVconfl c d a g m s
  | .mmac c d a b e m => Sys2Proof.Machine.execMmac c d a b e m s
  | .vpmul c d a b e m => Sys2Proof.Machine.execVpmul c d a b e m s
  | .vexp c d a v => Sys2Proof.Machine.execVexp c d a v s
  | .vln c d a => Sys2Proof.Machine.execVln c d a s
  | .vrcp c d a => Sys2Proof.Machine.execVrcp c d a s
  | .vrsq c d a => Sys2Proof.Machine.execVrsq c d a s
  | .vsin c d a => Sys2Proof.Machine.execVsin c d a s
  | .vcos c d a => Sys2Proof.Machine.execVcos c d a s
  | .vtanh c d a => Sys2Proof.Machine.execVtanh c d a s
  | .vsigm c d a => Sys2Proof.Machine.execVsigm c d a s
  | .vrand c d a => Sys2Proof.Machine.execVrand c d a s
  | .vld c d h a x o => Sys2Proof.Machine.execVld c d h a x o s
  | .vst c d h a x o => Sys2Proof.Machine.execVst c d h a x o s
  | .vamoAdd c d h im o q r sc => Sys2Proof.Machine.execVamoAdd c d h im o q r sc s
  | .vamoAddsat c d h im o q r sc => Sys2Proof.Machine.execVamoAddsat c d h im o q r sc s
  | .vamoMin c d h im o q r sc => Sys2Proof.Machine.execVamoMin c d h im o q r sc s
  | .vamoMax c d h im o q r sc => Sys2Proof.Machine.execVamoMax c d h im o q r sc s
  | .vamoAnd c d h im o q r sc => Sys2Proof.Machine.execVamoAnd c d h im o q r sc s
  | .vamoOr c d h im o q r sc => Sys2Proof.Machine.execVamoOr c d h im o q r sc s
  | .vamoXor c d h im o q r sc => Sys2Proof.Machine.execVamoXor c d h im o q r sc s
  | .vamoSwap c d h im o q r sc => Sys2Proof.Machine.execVamoSwap c d h im o q r sc s
  | .vcas c d h im q r sc => Sys2Proof.Machine.execVcas c d h im q r sc s
  | .vwait c d h im o sc => Sys2Proof.Machine.execVwait c d h im o sc s
  | .hnew c d a h => Sys2Proof.Machine.execHnew c d a h s
  | .hbind c a h => Sys2Proof.Machine.execHbind c a h s
  | .hup c d h => Sys2Proof.Machine.execHup c d h s
  | .hdown c h => Sys2Proof.Machine.execHdown c h s
  | .hweak c d h => Sys2Proof.Machine.execHweak c d h s
  | .hrel c h => Sys2Proof.Machine.execHrel c h s
  | .hchk c d h => Sys2Proof.Machine.execHchk c d h s
  | .hinfo c d a h => Sys2Proof.Machine.execHinfo c d a h s
  | .balloc c d a => Sys2Proof.Machine.execBalloc c d a s
  | .bfree c a b => Sys2Proof.Machine.execBfree c a b s
  | .bfork c d h g => Sys2Proof.Machine.execBfork c d h g s
  | .bcow c d a h => Sys2Proof.Machine.execBcow c d a h s
  | .bmap c h a b => Sys2Proof.Machine.execBmap c h a b s
  | .btlen c d a h => Sys2Proof.Machine.execBtlen c d a h s
  | .brel c h => Sys2Proof.Machine.execBrel c h s
  | .exbind c d a m h => Sys2Proof.Machine.execExbind c d a m h s
  | .expoll c d a m h => Sys2Proof.Machine.execExpoll c d a m h s
  | .exrel c h => Sys2Proof.Machine.execExrel c h s
  | .expin c d a b => Sys2Proof.Machine.execExpin c d a b s
  | .exstat c d a b => Sys2Proof.Machine.execExstat c d a b s
  | .xcopy c h g d a v => Sys2Proof.Machine.execXcopy c h g d a v s
  | .xpush c h g d a v => Sys2Proof.Machine.execXpush c h g d a v s
  | .xfill c h d a => Sys2Proof.Machine.execXfill c h d a s
  | .vpref c g a v => Sys2Proof.Machine.execVpref c g a v s
  | .imageKeepClear p => Sys2Proof.Machine.execImageKeepClear p s
  | .standbySwitch cl => Sys2Proof.Machine.execStandbySwitch cl s
  | .quantumExpiry k => Sys2Proof.Machine.execQuantumExpiry k s
  | .vsetvlgWake k => Sys2Proof.Machine.execVsetvlgWake k s
  | .vsetvlgTimeout k => Sys2Proof.Machine.execVsetvlgTimeout k s
  | .vwaitWake k => Sys2Proof.Machine.execVwaitWake k s
  | .hwaitWake k => Sys2Proof.Machine.execHwaitWake k s
  | .wfiWake k => Sys2Proof.Machine.execWfiWake k s
  | .interruptTaken k => Sys2Proof.Machine.execInterruptTaken k s
  | .userTrap vec code val => Sys2Proof.Machine.execUserTrap vec code val s
  | .trapToSupervisor int code val => Sys2Proof.Machine.execTrapToSupervisor int code val s
  | .machineCheck k source addr elem => Sys2Proof.Machine.execMachineCheck k source addr elem s
  | .preemptToSaved k => Sys2Proof.Machine.execPreemptToSaved k s
  | .partcfgResume k => Sys2Proof.Machine.execPartcfgResume k s
  | .endSaved k => Sys2Proof.Machine.execEndSaved k s
  | .powerWindow p watts => Sys2Proof.Machine.execPowerWindow p watts s
  | .laneClockGate cl g => Sys2Proof.Machine.execLaneClockGate cl g s
  | .lanePowerGate cl g => Sys2Proof.Machine.execLanePowerGate cl g s
  | .heapInsert p size off r => Sys2Proof.Machine.execHeapInsert p size off r s
  | .heapCancel p r => Sys2Proof.Machine.execHeapCancel p r s
  | .heapRetire p r => Sys2Proof.Machine.execHeapRetire p r s
  | .requestEligible p index => Sys2Proof.Machine.execRequestEligible p index s
  | .hostMessage p m => Sys2Proof.Machine.execHostMessage p m s
  | .pageInAllocate port => Sys2Proof.Machine.execPageInAllocate port s
  | .pageInLand port => Sys2Proof.Machine.execPageInLand port s
  | .tierReadFail port => Sys2Proof.Machine.execTierReadFail port s
  | .reclaimDestroy p pool => Sys2Proof.Machine.execReclaimDestroy p pool s
  | .engineTransferComplete k tag => Sys2Proof.Machine.execEngineTransferComplete k tag s
  | .dataFlit port f reply flagged asid h total stream off spb => Sys2Proof.Machine.execDataFlit port f reply flagged asid h total stream off spb s
  | .flagFlit port f asid h off => Sys2Proof.Machine.execFlagFlit port f asid h off s
  | .ackFlit port f => Sys2Proof.Machine.execAckFlit port f s
  | .nakFlit port f => Sys2Proof.Machine.execNakFlit port f s
  | .permitGrantFlit port f => Sys2Proof.Machine.execPermitGrantFlit port f s
  | .permitReturnFlit port f => Sys2Proof.Machine.execPermitReturnFlit port f s
  | .refusalFlit port f => Sys2Proof.Machine.execRefusalFlit port f s
  | .resetFlit port f => Sys2Proof.Machine.execResetFlit port f s
  | .permitWindow p => Sys2Proof.Machine.execPermitWindow p s
  | .portDown port => Sys2Proof.Machine.execPortDown port s
  | .peerUnreachable p slot => Sys2Proof.Machine.execPeerUnreachable p slot s
  | .hostMemAccess fn write addr data => Sys2Proof.Machine.execHostMemAccess fn write addr data s
  | .hostTierAccess fn write addr data => Sys2Proof.Machine.execHostTierAccess fn write addr data s
  | .accessTableWrite off wide w0 w1 => Sys2Proof.Machine.execAccessTableWrite off wide w0 w1 s
  | .hostRegisterWrite fn off size val => Sys2Proof.Machine.execHostRegisterWrite fn off size val s
  | .quiesce p => Sys2Proof.Machine.execQuiesce p s
  | .partitionResume p => Sys2Proof.Machine.execPartitionResume p s
  | .partitionReset p => Sys2Proof.Machine.execPartitionReset p s
  | .partitionLoad p => Sys2Proof.Machine.execPartitionLoad p s
  | .repairLane p cl lane => Sys2Proof.Machine.execRepairLane p cl lane s
  | .repairCluster p cl => Sys2Proof.Machine.execRepairCluster p cl s
  | .powerOff p => Sys2Proof.Machine.execPowerOff p s
  | .loadImage => Sys2Proof.Machine.execLoadImage s
  | .commitSecurityVersion => Sys2Proof.Machine.execCommitSecurityVersion s
  | .attest => Sys2Proof.Machine.execAttest s
  | .railRaise rail => Sys2Proof.Machine.execRailRaise rail s
  | .perstRelease => Sys2Proof.Machine.execPerstRelease s
  | .railOutOfRange rail => Sys2Proof.Machine.execRailOutOfRange rail s
  | .dramScrub stack => Sys2Proof.Machine.execDramScrub stack s
  | .llcScrub stack => Sys2Proof.Machine.execLlcScrub stack s
  | .thermalThrottle p => Sys2Proof.Machine.execThermalThrottle p s
  | .thermalRecover p => Sys2Proof.Machine.execThermalRecover p s
  | .thermtrip => Sys2Proof.Machine.execThermtrip s
  | .railRemove rail => Sys2Proof.Machine.execRailRemove rail s

end Sys2Proof.Machine
end

