-- ==== Sys2Proof/Machine/Front.lean ====
section
/-!
DEFINITION. The front end (R34, R99 to R103, R111, R112, R319): the queue of vector instructions that the scalar unit runs
ahead of, the scalar stores not yet performed, and what an instruction waits for. `exec` gives an instruction's effect;
here stands when it takes place.

A hart may dispatch a vector instruction into its queue instead of running it, and go on. The head of the queue runs on the
vector state as it then stands, with the scalars and modes that it took at its dispatch; a plain store may leave the queue
before its bytes are performed (log 6).
-/

namespace Sys2Proof.Machine

/-- The major of a word (R123). -/
def majorOf (w : BitVec 32) : Nat := (fld w 25 6).toNat

/-- Two ranges share a byte that one of them writes (R111). -/
def Span.meets (a b : Span) : Bool := a.space == b.space && a.lo < b.hi && b.lo < a.hi && (a.writes || b.writes)

/-- Some range of a list meets one of another. -/
def meetAny (l r : List Span) : Bool := l.any fun a => r.any a.meets

/-! ## What an instruction touches, by its word (R133 to R137) -/

/-- The scalar registers that a vector instruction writes: SD of vmsk.count, vmsk.first and SDEPTH, the lengths and
segment counts of SPOP and SGETL, the bits of SOPEN, and the carries of reductions and scans. -/
def scalarsWritten (w : BitVec 32) : List (BitVec 6) :=
  let (d, a, b) := (fld w 19 6, fld w 13 6, fld w 7 6)
  match majorOf w with
  | 0x2B => if fld w 4 3 = 5 ∨ fld w 4 3 = 6 then [d] else []
  | 0x2D => match (fld w 0 4).toNat with
    | 1 => [b]
    | 2 => [d]
    | 3 => [b]
    | 5 => [a]
    | _ => []
  | 0x2E => [b]
  | 0x2F => [b]
  | 0x30 => [b]
  | _ => []

/-- The scalar registers that an instruction reads or writes which may run ahead of the queue: scalar arithmetic, control
flow, SLD, SST, BFORK, BTLEN, HWEAK, HCHK and HINFO (R34, R266, R267); none for any other. -/
def scalarsTouched (w : BitVec 32) : Option (List (BitVec 6)) :=
  let m := majorOf w
  let (d, a, b) := (fld w 19 6, fld w 13 6, fld w 7 6)
  if m = 1 ∨ m = 10 then some [d, a, b]
  else if (2 ≤ m ∧ m ≤ 9) ∨ m = 16 then some [d, a]
  else if m = 11 ∨ m = 12 then some [d, fld w 9 6]
  else if m = 14 ∨ m = 17 then some [fld w 16 6, fld w 10 6]
  else if m = 15 ∨ (m = 62 ∧ (fld w 0 7 = 10 ∨ fld w 0 7 = 4 ∨ fld w 0 7 = 6)) then some [d]
  else if m = 62 ∧ (fld w 0 7 = 7 ∨ fld w 0 7 = 13) then some [d, a]
  else none

/-- The convoy path of a vector major (R133). -/
def pathOf (m : Nat) : Path :=
  if m = 0x37 then .mx
  else if m = 0x39 then .sf
  else if m = 0x3A then .ld
  else if m = 0x3B then .st
  else if m = 0x3C ∨ m = 0x3D then .aw
  else if m = 0x2A ∨ (0x2E ≤ m ∧ m ≤ 0x36) then .xl
  else .ew

/-- A vector instruction that the queue takes: every one but a stream load, a VWAIT and the engine transfers, which the
model runs in place (log 58). -/
def queueable (w : BitVec 32) : Bool :=
  let m := majorOf w
  (0x14 ≤ m && m ≤ 0x3C && !(m = 0x3A && fld w 0 3 = 5)) || (m = 0x3D && fld w 5 4 = 0)

/-- A vector instruction that may change a segment stack beyond copying one. -/
def restructures (w : BitVec 32) : Bool := let m := majorOf w; m = 0x2D || (0x31 ≤ m && m ≤ 0x36)

/-- A scalar instruction that neither accesses memory nor waits for anything. -/
def plainScalar (w : BitVec 32) : Bool := let m := majorOf w; (1 ≤ m && m ≤ 10) || (14 ≤ m && m ≤ 17)

/-- An access of one hart's memory agents: SLD, SST, SAMO, or a vector instruction. -/
def plainAccess (w : BitVec 32) : Bool := let m := majorOf w; (11 ≤ m && m ≤ 13) || (0x14 ≤ m && m ≤ 0x3D)

/-- An instruction before which an earlier store of the hart need not be performed, where they do not overlap (R103): SLD,
VLD, VST, and vector instructions that access no memory. -/
def passesStores (w : BitVec 32) : Bool := let m := majorOf w; m = 11 || (0x14 ≤ m && m ≤ 0x3B)

/-- One store must be performed before a later one of the hart: two of the scalar agent, or two that overlap (R102, R103),
which is judged as R112 judges it, and on bytes where both ranges are wider. -/
def Pending.before (a b : Pending) : Bool :=
  (!a.vec && !b.vec) || (a.span.meets b.span && (bytesOf a.runs).any (bytesOf b.runs).contains)

namespace State

/-! ## Ranges -/

/-- The range of an access through a slot (R111), masked elements included, which no check is made for (R73). -/
def spanAt (s : State) (h : BitVec 4) (u : Use) (writes whole : Bool) (l : List Elem) : List Span :=
  match s.slot h with
  | none => []
  | some b =>
    let (e, s) := s.view b
    if (slotChecks s b e u).isSome then []
    else ({ sp := b.space, user := s.user, use := u, ent := e } : Place).span s.clNo writes whole l

/-- The ranges of a stream load: its parameter block, and the whole object that the block names (R92, R111). -/
def streamSpans (s : State) (w : BitVec 32) : List Span :=
  let off := (s.rd (fld w 9 6)).toInt
  s.spanAt (fld w 15 4) .vld false false [{ idx := 0, off := off, len := 32 }] ++
    match s.readSpb w 0 (fld w 15 4) off (s.vreg (fld w 19 6).toNat).ty.unitBytes with
    | (.ok b _, _) => s.spanAt b.slot .vld false true [{ idx := 0, off := 0, len := 1 }]
    | _ => []

/-- The ranges of an instruction's accesses (R111): for unit, strided and two-dimensional forms all elements below
VLR · VLC count, for indexed and stream forms and atomics the whole object; VFSAVE's is its frame's (R170). -/
def spansOf (s : State) (w : BitVec 32) : List Span :=
  let at_ (off : Int) (n : Nat) : List Elem := [{ idx := 0, off := off, len := n }]
  let h := fld w 15 4
  match majorOf w with
  | 11 => s.spanAt h .sld false false (at_ (slOffset s (fld w 9 6) (fld w 6 3) (fld w 0 6)) (widthBytes (fld w 6 3)))
  | 12 => s.spanAt h .store true false (at_ (slOffset s (fld w 9 6) (fld w 6 3) (fld w 0 6)) (widthBytes (fld w 6 3)))
  | 13 => s.spanAt h .atomic true false (at_ (s.rd (fld w 9 6)).toInt (if fld w 5 1 = 1 then 4 else 8))
  | 0x12 =>
    if fld w 10 3 = 5 then s.spanAt (fld w 0 4) .cbld false false (at_ (s.rd (fld w 13 6)).toInt (8 * ((fld w 4 6).toNat + 1)))
    else []
  | 0 =>
    if fld w 8 5 = 15 then
      s.spanAt (fld w 0 4) .frame true false (at_ (s.rd (fld w 13 6)).toNat (s.makeFrame 2 0 0).1)
    else []
  | 0x3A => if fld w 0 3 = 5 then s.streamSpans w else mem w .vld false
  | 0x3B => mem w .store true
  | 0x3C => s.spanAt h .atomic true true []
  | 0x3D => s.spanAt h .atomic true true []
  | _ => []
where
  mem (w : BitVec 32) (u : Use) (writes : Bool) : List Span :=
    let mode := (fld w 0 3).toNat
    let all := s.mod fun h => { h with vtype := h.vtype &&& ~~~3 }
    let l := all.units (s.vreg (fld w 19 6).toNat).ty mode (fld w 9 6) (fld w 3 6)
    s.spanAt (fld w 15 4) u writes (mode = 2 || mode = 3) l

/-! ## Errors in registers (R368) -/

/-- The current hart with an element of a register changed, or cleared: files 0, 1 and 2 of `Loc.reg`. -/
def bend (s : State) (clear : Bool) (file r e : Nat) : State :=
  match file with
  | 0 => s.mod fun h => { h with s := h.s.set 0 r (if clear then 0 else ~~~h.s.get 0 r) }
  | 1 =>
    let v := s.vreg r
    let t := v.ty
    s.setVreg r { v with bits := t.set v.bits e (if clear then 0 else 2 ^ t.width - 1 - t.get v.bits e) }
  | _ => s.mod fun h => { h with m := h.m.set 0 r (putBits (h.m.get 0 r) e 1 (if clear then 0 else 1 - bits (h.m.get 0 r) e 1)) }

/-- What an outcome leaves in an element of a register of the current hart. -/
def lookAt (s : State) (file r e : Nat) : Nat :=
  match file with
  | 0 => (s.h.s.get 0 r).toNat
  | 1 => (s.vreg r).ty.get (s.vreg r).bits e
  | _ => bits (s.h.m.get 0 r) e 1

/-- The errors that the current hart's registers hold, as file, register and element. -/
def regErrors (s : State) : List (Nat × Nat × Nat) :=
  s.bad.filterMap fun l => match l with
    | .reg k f r e => if k = s.cur then some (f, r, e) else none
    | _ => none

/-- Two outcomes that differ in no more than one element of a register of the current hart. -/
def sameBut (a b : Out) (x : Nat × Nat × Nat) : Bool :=
  match a, b with
  | .next t, .next u => t.bend true x.1 x.2.1 x.2.2 = u.bend true x.1 x.2.1 x.2.2
  | .fault _, .fault _ => true
  | .refused _, .refused _ => true
  | _, _ => false

/-- The current hart with an element of a register given a value. -/
def putElem (s : State) (file r e v : Nat) : State :=
  match file with
  | 0 => s.mod fun h => { h with s := h.s.set 0 r (BitVec.ofNat 64 v) }
  | 1 =>
    let t := (s.vreg r).ty
    s.setVreg r { s.vreg r with bits := t.set (s.vreg r).bits e (v % 2 ^ t.width) }
  | _ => s.mod fun h => { h with m := h.m.set 0 r (putBits (h.m.get 0 r) e 1 v) }

/-- The values that an element is tried with: its complement, 0, and what its neighbours hold, which are the other registers
of its file at the same element. -/
def variants (s : State) (x : Nat × Nat × Nat) : List State :=
  let near := match x.1 with
    | 0 => s.h.s.map fun (y : Nat × Word) => y.2.toNat
    | 1 => s.h.v.map fun (y : Nat × VReg) => y.2.ty.get y.2.bits x.2.2
    | _ => []
  s.bend false x.1 x.2.1 x.2.2 :: s.bend true x.1 x.2.1 x.2.2 :: near.map (s.putElem x.1 x.2.1 x.2.2)

/-- The hart as it stands, and with every other register of two files changed: its scalars made distinct, its vectors
complemented. -/
def backgrounds (s : State) (x : Nat × Nat × Nat) : List State :=
  [s, s.mod fun h => { h with
    s := (List.range 63).foldl (fun t r => if x.1 = 0 ∧ x.2.1 = r + 1 then t else t.set 0 (r + 1) (BitVec.ofNat 64 (3 * r + 5))) h.s,
    v := h.v.map fun y => if x.1 = 1 ∧ x.2.1 = y.1 then y
      else (y.1, { y.2 with bits := 2 ^ (y.2.bits.log2 + 1) - 1 - y.2.bits }) }]

/-- An instruction reads an element of a register as an operand: its outcome depends on it, on one background at least. -/
def readsElem (s : State) (i : Instr) (x : Nat × Nat × Nat) : Bool :=
  (s.backgrounds x).any fun b => (b.variants x).any fun v => !sameBut (exec i b) (exec i v) x

/-- An instruction on a hart whose registers hold errors (R368): an element that it reads as an operand, which is one its
outcome depends on (log 59), reads 0 and is met; one that it replaces is repaired. -/
def execOn (i : Instr) (s : State) : Out :=
  match s.regErrors with
  | [] => exec i s
  | l =>
    let read := l.filter (s.readsElem i)
    match exec i (read.foldl (fun s x => s.bend true x.1 x.2.1 x.2.2) s) with
    | .next t =>
      let fixed := l.filter fun x => match exec i s, exec i (s.bend false x.1 x.2.1 x.2.2) with
        | .next a, .next b => a.lookAt x.1 x.2.1 x.2.2 = b.lookAt x.1 x.2.1 x.2.2
        | _, _ => false
      let t := { t with bad := t.bad.filter fun y => !fixed.any fun x => y = .reg s.cur x.1 x.2.1 x.2.2 }
      .next (read.foldl (fun t x => t.meet (.reg s.cur x.1 x.2.1 x.2.2) x.2.2) t)
    | o => o

/-! ## Stores not yet performed (R103) -/

/-- The contexts that have such stores. -/
def storing (s : State) : List Nat := s.liveCtxs.filter fun k => (s.hart k).stores ≠ []

/-- A context's stores performed; watches and flags are tested at every value a location takes (R42, R305). -/
def settleStores (s : State) (k : Nat) : State := s.performWith notifyAll k

/-- Every context's stores performed. -/
def settleAll (s : State) : State := s.storing.foldl settleStores s

/-- The stores of a context that may be performed next, by their places in its list. -/
def flushable (s : State) (k : Nat) : List Nat :=
  let l := (s.hart k).stores
  (List.range l.length).filter fun i => match l[i]? with
    | some x => !(l.take i).any fun y => y.before x
    | none => false

/-- One store of a context performed. -/
def flushOne (s : State) (k i : Nat) : State :=
  match (s.hart k).stores[i]? with
  | some x => s.onCtx k fun s => (s.mod fun h => { h with stores := h.stores.eraseIdx i }).performOne x
  | none => s

/-- The stores that must be performed before an instruction with some ranges is (R103, R111, R116, R85): none before scalar
arithmetic; before an access the hart's own, but before one that passes stores only where it overlaps one; every hart's
before anything else, and where some word holds an error. -/
def settleFor (s : State) (w : BitVec 32) (spans : List Span) : State :=
  if plainScalar w then s
  else if !plainAccess w || !s.bad.isEmpty then s.settleAll
  else if passesStores w && !meetAny spans (s.h.stores.map (·.span)) then s
  else s.settleStores s.cur

/-! ## Transfers in flight -/

/-- A hart other than the current one has a read in flight (R116, R85). -/
def otherReads (s : State) : Bool :=
  s.liveCtxs.any fun k => k ≠ s.cur && (s.hart k).life == .active && (s.hart k).xfers.any fun x => !x.push && !x.stale

/-- An instruction waits: an access or a VFSAVE that overlaps a transfer of the hart's own in flight (R102, R111); BFORK, BCOW, BMAP,
BREL (R85) and TLBINV, HTINV (R116, R169) until no access of another hart is in flight that they are to follow. -/
def mustWait (s : State) (w : BitVec 32) : Bool :=
  let m := majorOf w
  ((11 ≤ m && m ≤ 13 || m = 0x12 || (m = 0 && fld w 8 5 = 15)) && meetAny (s.spansOf w) (s.h.xfers.flatMap (·.spans))) ||
    (((m = 62 && (fld w 0 7 = 10 || fld w 0 7 = 11 || fld w 0 7 = 12 || fld w 0 7 = 14)) ||
      (m = 0 && (fld w 8 5 = 13 || fld w 8 5 = 14))) && s.otherReads)

/-- The stopped read of a context goes on, or raises its trap once the hart runs, with the transfers in the frame (log 46).
Where the trap ends the hart, its other transfers drain first (R376). -/
def recheck (s : State) (k : Nat) (tag : BitVec 32) : State :=
  match (s.hart k).xfers.find? fun x => x.tag = tag ∧ x.stale with
  | none => s
  | some x =>
    match (s.switchTo k).findEnds x with
    | (.ok y, t) => (t.putXfer k y).switchTo s.cur
    | (.error e, t) =>
      if !s.ready k then s
      else
        let u := t.deliver { e with estart := t.h.startOf } t.h.pc
        let others := t.h.xfers.any fun y => y.tag ≠ tag && !y.stale && y.refused.isNone
        if others && u.ended k then s else u.switchTo s.cur

/-! ## The queue -/

/-- Every register of the hart is at depth 0. -/
def flat (s : State) : Bool := s.h.v.all fun x => x.2.levels.isEmpty

/-- A vector instruction raises nothing precise (R138): at supervisor level, with nothing queued, it does not end in
illegal-instruction. -/
def legalNow (s : State) (i : Instr) : Bool :=
  match exec i (s.mod fun h => { h with sup := true, stvec := 4, scause := 0, queue := [], xfers := [] }) with
  | .next t => !(t.h.scause.extractLsb' 0 8 = 1)
  | _ => false

/-- A vector instruction may be dispatched into the queue (R34, R291). It has room, no transfer stands before it, its legality
does not hang on what is queued, and it reads no scalar that a queued one is to write. -/
def canQueue (s : State) (i : Instr) : Bool :=
  let q := s.h.queue
  queueable (encode i) && s.h.xfers.isEmpty && q.length < 32 && s.h.front.isNone &&
    q.all (fun x => scalarsWritten x.word = [] && !restructures x.word) && (q.isEmpty || s.flat) && s.legalNow i

/-- A vector instruction dispatched (R34, R58, R111): it joins its convoy, and the scalar unit goes on. -/
def enqueue (s : State) (i : Instr) : State :=
  let w := encode i
  let s := s.noteCv (cv w)
  s.mod fun h => { h with queue := h.queue ++ [h.captured w (s.spansOf w)], pc := h.pc + 4,
                          convoy := (pathOf (majorOf w)).no :: h.convoy }

/-- The scalar side back as it was while a queued instruction ran: the instruction's own scalars have their new values,
the flags it raised stay (R34, R58). -/
def landed (h : Hart) (f : Front) (convoy : List Nat) : Hart :=
  let s' := (scalarsWritten f.self.word).foldl (fun t r => t.set 0 r.toNat (h.s.get 0 r.toNat)) f.modes.s
  { h.withModes f.modes with s := s', pc := f.pc, convoy := convoy, front := none }

/-- The ranges of a queued instruction's interlock entry: as at its dispatch, or where it came from a frame, as they are now. -/
def heldBy (s : State) (q : Queued) : List Span :=
  if q.spans.isEmpty then (s.mod (·.withModes q.modes)).spansOf q.word else q.spans

/-- The hart has trapped or ended between two states. -/
def trapped (s t : State) : Bool := t.h.sup ≠ s.h.sup || t.h.life ≠ s.h.life || t.pkg.frames ≠ s.pkg.frames

/-- An effect of the current hart, or where it is a trap, that effect with the hart's stores performed (R319). -/
def storesFirst (f : State → Out) (s : State) : Out :=
  match f s with
  | .next t => if trapped s t && !s.h.stores.isEmpty then f (s.settleStores s.cur) else .next t
  | o => o

/-- A queued instruction run, with those that are to stay behind it: its effect; or, where it waits, the queue as it was;
or its trap, whose frame holds it with the rest (R319). -/
def runQueued (q : Queued) (rest : List Queued) (i : Instr) (s : State) : Out :=
  let f : Front := { self := q, rest := rest, pc := s.h.pc, modes := s.h.modes }
  match execOn i (s.mod fun h => { h.withModes q.modes with pc := q.pc, queue := rest, convoy := [], front := some f }) with
  | .next t =>
    if t.h.front.isNone then .next t
    else if t.h.pc = q.pc then
      .next (t.mod fun h => { h.withModes f.modes with queue := q :: rest, pc := f.pc, convoy := s.h.convoy, front := none })
    else .next (t.mod fun h => landed h f s.h.convoy)
  | o => o

/-- The head of the queue runs. -/
def runHead (s : State) : Out :=
  match s.h.queue with
  | [] => .next s
  | q :: rest =>
    match decodeBytes (wordBytes q.word) with
    | .err _ => .next (s.mod fun h => { h with queue := rest })
    | .ok i => storesFirst (runQueued q rest i) (s.settleFor q.word (s.heldBy q))

/-- The units of a queued VST whose checks pass and whose pages are there, as stores to be performed one by one (R103, R112);
none where it is to run as a whole: an unordered scatter, a merge into slices, a restart, or where a word holds an error. -/
def lateUnits (s : State) (q : Queued) : Option (List Pending × State) :=
  let w := q.word
  let t := s.mod (·.withModes q.modes)
  let (d, mode) := ((fld w 19 6).toNat, (fld w 0 3).toNat)
  let v := t.vreg d
  if majorOf w ≠ 0x3B ∨ mode = 3 ∨ (v.ty.blocked && !v.ty.wholeBlocks mode) ∨ s.h.resuming ∨ !s.bad.isEmpty then none
  else
    match t.reach (fld w 15 4) .store true (t.units v.ty mode (fld w 9 6) (fld w 3 6)) with
    | (.ok p, t) =>
      match (p.inMode mode).elems (t.units v.ty mode (fld w 9 6) (fld w 3 6)) [] t, (s.heldBy q).head? with
      | (found, none, _, t), some r =>
        some (found.map fun x => { runs := x.2, bytes := unitOut v.ty mode v.bits x.1.idx, elem := x.1.idx, span := r, vec := true },
          { t with h := s.h })
      | _, _ => none
    | _ => none

/-- The head of the queue, a plain VST, leaves it before its units are performed (R103). -/
def delay (s : State) : State :=
  match s.h.queue with
  | q :: rest =>
    match s.lateUnits q with
    | some (l, t) => t.mod fun h => { h with queue := rest, stores := h.stores ++ l }
    | none => s
  | [] => s

/-- An instruction may run ahead of the queue (R34, R111): it touches no scalar that a queued one is to write, and no byte
that a queued one's entry holds. -/
def passes (s : State) (w : BitVec 32) : Bool :=
  match scalarsTouched w with
  | none => s.h.queue.isEmpty
  | some l => s.h.queue.all fun q => (scalarsWritten q.word).all (fun r => !l.contains r) && !meetAny (s.spansOf w) (s.heldBy q)

/-- A system call or breakpoint, which leaves what is queued to its frame (R165). -/
def isCall : Instr → Bool
  | .ecall _ => true
  | .ebreak _ => true
  | _ => false

/-- Nothing of any hart is on its way: no queue of the current one, no store, no transfer, no error in its registers. -/
def plain (s : State) : Bool :=
  s.h.queue.isEmpty && s.regErrors.isEmpty && s.liveCtxs.all fun k => (s.hart k).stores.isEmpty && (s.hart k).xfers.isEmpty

/-- The next instruction with something on its way: it waits, or what must come first does, or it runs ahead. An instruction that
would trap precisely lets the queue run first (R319). -/
def issueBehind (s : State) (i : Instr) : Out :=
  let w := encode i
  if s.mustWait w then .next s
  else
    let t := s.settleFor w (s.spansOf w)
    if t.h.queue.isEmpty then storesFirst (execOn i) t
    else if isCall i && s.user then
      let (n, t) := t.pick 2
      if n = 0 then t.runHead else exec i t
    else if !t.passes w then t.runHead
    else
      match execOn i t with
      | .next u => if trapped t u then t.runHead else .next u
      | o => o

/-- What the current hart finds at its pc runs, or is raised. -/
def issueNext (s : State) (found : Instr ⊕ Trap) (now : Bool) : Out :=
  match found with
  | .inl i => if now then exec i s else s.issueBehind i
  | .inr t => if s.h.queue.isEmpty then storesFirst (·.raise t) s else s.runHead

/-- The next instruction dispatched: a vector instruction into the queue, or an SST whose bytes go to memory later. While a
word holds an error no store is put off, so that its error is met in its turn (R369). -/
def dispatch (s : State) (i : Instr) : State :=
  match i with
  | .sst c d h a w x =>
    if !s.passes (encode i) || s.mustWait (encode i) || !s.bad.isEmpty then s
    else
      match s.one h .store false (slOffset s a w x) (widthBytes w), s.spansOf (encode i) with
      | (.runs l, t), [p] => ((t.noteCv c).mod fun y =>
          { y with stores := y.stores ++
              [{ runs := l, bytes := leBytes (widthBytes w) (s.rd d).toNat, elem := 0, span := p, vec := false }] }).adv
      | _, _ => s
  | i => if s.canQueue i then s.enqueue i else s

end State

end Sys2Proof.Machine
end

