-- ==== Sys2Proof/Machine/Run.lean ====
section
/-!
DEFINITION. What a step does around `exec`: fetching and decoding (R123, R138, R312, R317), which event or context comes
next, and what every step settles once its effect is done.

One step performs one event or one instruction. Where several may come next, which one does is a free choice (R10); a trap
or interrupt that the current hart must take comes before its next instruction.
-/

namespace Sys2Proof.Machine

namespace State

/-! ## Fetch and decode -/

/-- The word at the pc, or why it cannot be fetched: a failed walk or a page without X (R312, R317). A word with an
uncorrectable error reads 0 (R368). -/
def fetchWord (s : State) : Except Word (BitVec 32) × State :=
  match s.xlateRun s.h.space s.user .either Want.fetch 5 s.h.pc.toNat 4 with
  | (.error _, s) => (.error s.h.pc, s)
  | (.ok l, s) =>
    let (b, s) := s.load l 0
    (.ok (BitVec.ofNat 32 (leNat b)), s)

/-- The sub-cause of a word of VSPLIT whose DEP is not 7: the lowest that applies (R128, R138). -/
def depthSub (s : State) (i : Instr) : Nat :=
  let f (d a : BitVec 6) : Nat :=
    if s.beyond [d.toNat, a.toNat] then 4
    else if (s.vreg a.toNat).tag != (s.vreg d.toNat).tag || (s.vreg a.toNat).ty.isQ then 5 else 6
  match i with
  | .vsplitMask _ d a _ => f d a
  | .vsplitThree _ d a => f d a
  | _ => 6

/-- The sub-cause of a word that is no instruction (R138). -/
def encSub (s : State) : DecodeErr → Nat
  | .short => 1
  | .enc => 1
  | .res => 2
  | .depth i => s.depthSub i

/-- What the current hart finds at its pc. -/
inductive Fetched where
  | instr (i : Instr)
  | trap (t : Trap)
  deriving DecidableEq, Repr

/-- The instruction at the pc, or the exception it raises. The frame of a failed fetch keeps ESTART of an instruction that
is being resumed (R289). -/
def fetch (s : State) : Fetched × State :=
  match s.fetchWord with
  | (.error a, s) => (.trap { code := 4, val := a, vec := false, estart := s.h.startOf }, s)
  | (.ok w, s) =>
    match decodeBytes (wordBytes w) with
    | .ok i => (.instr i, s)
    | .err e => (.trap (illTrap (s.encSub e) w), s)

end State

/-! ## What comes next -/

/-- The events that the machine's own state brings about, by the row of the opcode table whose meaning performs each; and
those of the front end: a dispatch, the head of the queue, its leaving it before its stores, one store of a context, a
stopped read that goes on, and nothing, while something is on its way. -/
inductive Event where
  | machineCheck (k : BitVec 12) (source : BitVec 8) (addr : BitVec 56) (elem : Word)
  | frameFault (page : Word)
  | preempt (k : BitVec 12)
  | refused (val : Word)
  | interrupt (k : BitVec 12)
  | standbySwitch (cl : BitVec 8)
  | quantum (k : BitVec 12)
  | grantWake (k : BitVec 12)
  | grantLate (k : BitVec 12)
  | vwaitWake (k : BitVec 12)
  | hwaitWake (k : BitVec 12)
  | wfiWake (k : BitVec 12)
  | transferDone (k : BitVec 12) (tag : BitVec 32)
  | imageEnd (p : BitVec 3)
  | eligible (p : BitVec 3) (index : BitVec 16)
  | reclaim (p : BitVec 3) (pool : BitVec 6)
  | window (p : BitVec 3)
  | unreachable (p : BitVec 3) (slot : BitVec 8)
  | pageIn (port : BitVec 3)
  | landed (port : BitVec 3)
  | portDown (port : BitVec 7)
  | dispatch
  | head
  | delay
  | flush (k i : Nat)
  | recheck (k : Nat) (tag : BitVec 32)
  | hold
  deriving DecidableEq, Repr

/-- An event performed: the meaning of its row. -/
def Event.run : Event → State → Out
  | .machineCheck k source addr elem => execMachineCheck k source addr elem
  | .frameFault page => execTrapToSupervisor false 11 page
  | .preempt k => execPreemptToSaved k
  | .refused val => execUserTrap true 16 val
  | .interrupt k => execInterruptTaken k
  | .standbySwitch cl => execStandbySwitch cl
  | .quantum k => execQuantumExpiry k
  | .grantWake k => execVsetvlgWake k
  | .grantLate k => execVsetvlgTimeout k
  | .vwaitWake k => execVwaitWake k
  | .hwaitWake k => execHwaitWake k
  | .wfiWake k => execWfiWake k
  | .transferDone k tag => execEngineTransferComplete k tag
  | .imageEnd p => execImageKeepClear p
  | .eligible p index => execRequestEligible p index
  | .reclaim p pool => execReclaimDestroy p pool
  | .window p => execPermitWindow p
  | .unreachable p slot => execPeerUnreachable p slot
  | .pageIn port => execPageInAllocate port
  | .landed port => execPageInLand port
  | .portDown port => execPortDown port
  | .dispatch => fun s => match s.fetch with
    | (.instr i, s) => .next (s.dispatch i)
    | (.trap _, s) => .next s
  | .head => State.runHead
  | .delay => fun s => .next s.delay
  | .flush k i => fun s => .next (s.flushOne k i)
  | .recheck k tag => fun s => .next (s.recheck k tag)
  | .hold => fun s => .next s

namespace State

/-- An event that the world outside, or a unit whose timing the spec leaves open, brings about; the machine takes it from
`inbox`. Everything else happens by the machine's own state. -/
def outside : Instr → Bool
  | .machineCheck .. | .powerWindow .. | .laneClockGate .. | .lanePowerGate .. | .thermalThrottle _ | .thermalRecover _
  | .thermtrip | .railRaise _ | .railRemove _ | .railOutOfRange _ | .perstRelease | .loadImage | .commitSecurityVersion
  | .attest | .dramScrub _ | .llcScrub _ | .hostMemAccess .. | .hostTierAccess .. | .accessTableWrite ..
  | .hostRegisterWrite .. | .quiesce _ | .partitionResume _ | .partitionReset _ | .partitionLoad _ | .repairLane ..
  | .repairCluster .. | .powerOff _ | .heapInsert .. | .heapCancel .. | .heapRetire .. | .hostMessage .. | .tierReadFail _
  | .dataFlit .. | .flagFlit .. | .ackFlit .. | .nakFlit .. | .permitGrantFlit .. | .permitReturnFlit ..
  | .refusalFlit .. | .resetFlit .. => true
  | _ => false

/-- What the machine takes of an input: with the clocks stopped only the rails' (R374). -/
def takes (s : State) (i : Instr) : Bool :=
  outside i && (s.pkg.clocks || match i with
    | .railRaise _ | .railRemove _ | .railOutOfRange _ => true
    | _ => false)

/-- The head of the inbox, where the machine takes it now: when is a free choice. -/
def takeInput (s : State) : Option Instr × State :=
  match s.inbox with
  | [] => (none, s)
  | i :: l =>
    let (n, s) := s.pick 2
    if n = 0 then (some i, { s with inbox := l }) else (none, s)

/-- The refusal that the current hart takes next, its oldest transfer's (R319, R343), with its trap's value. -/
def headRefusal (s : State) : Option (Xfer × Word) :=
  s.h.xfers.head?.bind fun x => x.refused.map fun r => (x, refusalVal r.1 r.2)

/-- The current hart holds back: it ends with its next trap, and its transfers must drain first (R376). -/
def draining (s : State) : Bool :=
  (s.h.stvec = 0 && !s.h.xfers.isEmpty &&
    (s.h.frameFault.isSome || !(s.h.checks.filter fun x => x.1 || !s.h.sup).isEmpty || (!s.h.sup && !s.h.intr.isEmpty))) ||
    (match s.headRefusal with
     | some (x, v) => s.drainsFirst x true v
     | none => false)

/-- What the current hart must take before its next instruction: a machine check (R369), a frame fault (R320), its
pre-emption (R299), the refusal of a transfer (R343), an interrupt (R282). -/
def pressing (s : State) : Option Event :=
  let k := BitVec.ofNat 12 s.cur
  if !s.ready s.cur || s.draining then none
  else
    match s.nextCheck s.cur with
    | some x => some (.machineCheck k x.2.1 x.2.2.1 x.2.2.2.1)
    | none =>
      match s.h.frameFault with
      | some page => some (.frameFault page)
      | none =>
        if s.h.savePending && !s.h.sup && s.h.checks.isEmpty then some (.preempt k)
        else
          match s.headRefusal with
          | some (_, v) => some (.refused v)
          | none => if s.interruptible s.cur then some (.interrupt k) else none

/-- What the current hart takes now: its stores are performed first (R103). -/
def forced (s : State) : Option Event := if s.h.stores.isEmpty then s.pressing else none

/-- The current hart may run what it has dispatched. -/
def canRun (s : State) : Bool := s.ready s.cur && !s.draining && (s.h.stores.isEmpty || s.pressing.isNone)

/-- The current hart may issue its next instruction: no other hart's PART waits for the cluster to drain (R19). -/
def canIssue (s : State) : Bool :=
  s.canRun && !(s.partStops s.clNo && (match s.clu s.clNo |>.parting with | some (k, _) => k ≠ s.cur | none => false))

/-- The events of a context that are due: its quantum, its wake, the transfers that have completed. -/
def hartEvents (s : State) (k : Nat) : List Event :=
  let c := BitVec.ofNat 12 k
  (if s.quantumOver k then [.quantum c] else []) ++
    (match (s.hart k).park with
     | some (.grant ..) => (if (s.grantFor k true).isSome then [.grantWake c] else []) ++
         (if s.grantLate k then [.grantLate c] else [])
     | some (.vwait _) => if s.waitMet k then [.vwaitWake c] else []
     | some (.hwait _) => if s.hwaitMet k then [.hwaitWake c] else []
     | some .wfi => [.wfiWake c]
     | some .gbar => []
     | none => []) ++
    ((s.hart k).xfers.filter fun x => s.xferDone (k / 384) x).map fun x => .transferDone c x.tag

/-- The events of a partition that are due: none while its clocks stand still (R357). -/
def partEvents (s : State) (p : Nat) : List Event :=
  let b := BitVec.ofNat 3 p
  let x := s.part p
  if x.state = 0 then [] else
  (if x.image ≠ [] && (s.liveIn p).isEmpty then [.imageEnd b] else []) ++
    (x.requests.filter fun r => s.eligible p r.index).map (fun r => .eligible b r.index) ++
    ((s.underReclaim p).filter fun n => (s.nextCandidate p n).isSome).map (fun n => .reclaim b (BitVec.ofNat 6 n)) ++
    (if x.peersBase ≠ 0 && s.windowOver p then [.window b] else []) ++
    (if x.peersBase = 0 then [] else ((List.range 256).filter fun i => s.cutOff p i).map fun i =>
      .unreachable b (BitVec.ofNat 8 i))

/-- The events of the tier ports that are due. -/
def tierEvents (s : State) (port : Nat) : List Event :=
  match s.headPageIn port with
  | none => []
  | some q =>
    if (s.part q.part).state = 0 then []
    else if s.pageInReady q then [.landed (BitVec.ofNat 3 port)]
    else if s.pageInCanTake q then [.pageIn (BitVec.ofNat 3 port)] else []

/-- What the front end may do next: a store goes to memory, a stopped read goes on, the current hart dispatches its next
instruction or runs a queued one; or it waits for what is on its way. -/
def frontEvents (s : State) : List Event :=
  (s.storing.flatMap fun k => (s.flushable k).map (.flush k)) ++
    ((s.liveCtxs.filter s.moves).flatMap fun k => ((s.hart k).xfers.filter (·.stale)).map fun x => .recheck k x.tag) ++
    (if s.canIssue && s.h.ahead then [.dispatch] else []) ++
    (if s.canRun && !s.h.queue.isEmpty then [.head, .delay] else []) ++
    (if s.plain then [] else [.hold])

/-- The events of the machine's units that are due. -/
def unitEvents (s : State) : List Event :=
  (List.range 192).filterMap (fun c => if s.switchable c = [] then none else some (.standbySwitch (BitVec.ofNat 8 c))) ++
    s.liveCtxs.flatMap s.hartEvents ++ (List.range 8).flatMap s.partEvents ++ (List.range 8).flatMap s.tierEvents ++
    (s.pkg.ports.filterMap fun x => if s.portFailed x.1 && (s.part (x.1 / 16)).state ≠ 0 then some (.portDown (BitVec.ofNat 7 x.1)) else none)

/-- Everything that may happen next but an instruction of the current hart. A unit acts with every store performed. -/
def due (s : State) : List Event := (if s.storing.isEmpty then s.unitEvents else []) ++ s.frontEvents

/-- What a step performs: an event, the current hart's next instruction, or nothing but the passing of time. -/
inductive Turn where
  | event (e : Event)
  | issue
  | idle
  deriving DecidableEq, Repr

/-- What comes next, where no input is taken. -/
def turn (s : State) : Turn × State :=
  match s.forced with
  | some i => (.event i, s)
  | none =>
    let l := s.due
    let (n, s) := s.pick (l.length + if s.canIssue then 1 else 0)
    match l[n]? with
    | some i => (.event i, s)
    | none => (if s.canIssue then .issue else .idle, s)

/-! ## What every step settles -/

/-- The contexts that can take the next turn. -/
def runners (s : State) : List Nat := s.liveCtxs.filter s.ready

/-- The context whose turn is next: as `sched` says, and where it says nothing, a free choice of the contexts that can
go on. -/
def rotate (s : State) : State :=
  let l := s.runners
  match s.sched with
  | k :: t =>
    let s := { s with sched := t }
    if l.contains k then s.switchTo k else s
  | [] =>
    let (n, s) := s.pick l.length
    match l[n]? with
    | some k => s.switchTo k
    | none => s

/-- Time passes while the clocks run (log 7, R374). -/
def pass (s : State) : State :=
  { s with cycles := s.cycles + (if s.pkg.clocks then Config.elapsed s.seq else 0), seq := s.seq + 1 }

/-- F_max of a hart of some lanes (R292). -/
def mostFrame (l : Nat) : Nat := 924672 + 163968 * l

/-- The base of a context's region of the save area (R298): each cluster has room for 16 regions at any width, and at its
width they follow one another. -/
def areaBase (save k lanes : Nat) : Nat := save + k % 384 / 16 * (16 * mostFrame 32) + k % 16 * mostFrame lanes

/-- The bytes of a region of the standby save area as they were written: opaque. -/
def areaBytes (a : Area) : List Byte := (List.range a.size).map (Config.frameByte a.serial)

/-- The lane state of a context goes to its region of the standby save area (R298), where firmware has one: SAVE is not
0 (log 60). -/
def storeArea (s : State) (k : Nat) : State :=
  let h := s.hart k
  let lanes := lanesOf (s.clu (k / 16)).pw
  let base := (s.part (k / 384)).save.toNat
  if base = 0 then s
  else
    let size := frameSize true lanes (nregOf h.vtype) (lengthEntries h.v) h.queue.length h.xfers.length h.waitElems
    let a : Area := { base := areaBase base k lanes, size := size, serial := s.seq }
    let t := (s.putRaw (.phys a.base) (areaBytes a)).modHart k fun h => { h with area := some a }
    { t with seq := s.seq + 1 }

/-- The vector registers and masks of a context whose region was overwritten: any values. -/
def scramble (s : State) (k : Nat) : State :=
  let width (h : Hart) : Nat := 8 * (lanesOf (s.clu (k / 16)).pw * 32768 / nregOf h.vtype)
  let bits (h : Hart) (s : State) (r : Nat) : VReg := { h.v.get VReg.reset r with bits := Config.choice s.seq % 2 ^ width h }
  (List.range 64).foldl (fun s r =>
    let t := s.modHart k fun h => { h with v := h.v.set VReg.reset r (bits h s r),
                                           m := if 0 < r ∧ r < 8 then h.m.set 0 r (Config.choice (s.seq + 1)) else h.m }
    { t with seq := s.seq + 2 }) s

/-- A context's region as it stands: written when the hart is switched out, read while it is standby, given up when it
goes on (R20, R298). -/
def settleArea (s : State) (k : Nat) : State :=
  let h := s.hart k
  match h.area with
  | none => if h.life = .standby then s.storeArea k else s
  | some a =>
    let s := if s.raw [(.phys a.base, a.size)] = areaBytes a then s else s.scramble k
    if h.life = .standby then s else s.modHart k fun h => { h with area := none }

/-- Reads of a hart that has been switched out stand still, and are found again when it goes on (R298). -/
def stopReads (s : State) : State :=
  (s.liveCtxs.filter fun k => !s.moves k ∧ (s.hart k).xfers.any fun x => !x.push && !x.stale).foldl (fun s k =>
    s.modHart k fun h => { h with xfers := h.xfers.map fun x => if x.push then x else { x with stale := true } }) s

/-- A lane group that a grant in force holds has clock and power (R297). -/
def powerGroups (s : State) : State :=
  (s.clusters.filter fun x => x.2.gates.any fun g => s.groupHeld x.1 g.1).foldl (fun s x =>
    s.modClu x.1 fun c => { c with gates := c.gates.filter fun g => !s.groupHeld x.1 g.1 }) s

/-- The pools under reclaim as their descriptors stand (R325). -/
def noteReclaim (s : State) (p : Nat) : State :=
  if s.underReclaim p = (s.part p).reclaiming then s else s.modPart p fun x => { x with reclaiming := s.underReclaim p }

/-- A hart at user level that is parked takes its pre-emption at once, when no machine check is pending (R299). -/
def saveParked (s : State) : State :=
  (s.liveCtxs.filter fun k =>
    let h := s.hart k
    h.savePending && !h.sup && h.checks.isEmpty && h.park.isSome && s.stands k).foldl preempt s

/-- A place with its error entered. -/
def strike (s : State) (l : Loc) : State := if s.bad.contains l then s else { s with bad := l :: s.bad }

/-- A word of memory with its error entered: in DRAM or the tier where `source` is 0, else in the cache of that SOURCE
(R370). -/
def strikeMem (s : State) (a source : Nat) : State :=
  let l := (Loc.phys a).word
  if s.bad.contains l then s else { s with bad := l :: s.bad, caught := s.caught.set 0 (a / 8 * 8) source }

/-- A register element of a context by two numbers: a scalar but the one that reads 0, a vector register, or a mask but
m0. -/
def elemAt (s : State) (k a b : Nat) : Loc :=
  let t := s.switchTo k
  match b % 3 with
  | 0 => .reg k 0 (1 + b / 3 % 63) 0
  | 1 => .reg k 1 (b / 3 % t.nreg) (a % max 1 (t.capacity (b / 3 % t.nreg)))
  | _ => .reg k 2 (1 + b / 3 % 7) (a % 2 ^ 20)

/-- The words of memory whose error lies in a cache. -/
def badCached (s : State) : List Nat := s.bad.filterMap fun l => match l with
  | .phys a => if s.caught.get 0 a = 0 then none else some a
  | _ => none

/-- The state after what radiation may do (R366, log 61): nothing; an error that the code corrects, counted and logged; a
parity error, which discards a cached entry; an error that the code does not correct, in memory or a cache, in a scratchpad
or in a register of a hart; a write-back that finds such an error in a cache, which is logged (R371). -/
def radiated (s : State) : State :=
  let (n, s) := s.pick 8
  let (a, s) := s.draw
  let (b, s) := s.draw
  let (m, s) := s.draw
  let (a, b) := (a.toNat, b.toNat)
  let p := b % 8
  match n with
  | 1 =>
    (s.modPart p fun x => { x with corrected := x.corrected + 1 }).logRecord p (BitVec.ofNat 8 (1 + b / 8 % 6)) 0
      (m.toNat % 65536) (m.extractLsb' 16 32) (BitVec.ofNat 64 (a % 2 ^ 56)) 0
  | 2 => s.modPart p fun x => { x with corrected := x.corrected + 1, tlb := x.tlb.eraseIdx a }
  | 3 => s.modPart p fun x => { x with corrected := x.corrected + 1, handles := x.handles.eraseIdx a }
  | 4 => s.strikeMem (a % 2 ^ 56) (if b % 4 = 0 then 0 else b % 4 + 1)
  | 5 => s.strike (Loc.scratch (b % 192) (a % 2 ^ 21)).word
  | 6 =>
    match s.liveCtxs[m.toNat % max 1 s.liveCtxs.length]? with
    | some k => s.strike (s.elemAt k a b)
    | none => s
  | 7 =>
    match s.badCached[a % max 1 s.badCached.length]? with
    | some x => s.logUnmet x (s.caught.get 0 x)
    | none => s
  | _ => s

/-- What radiation does between two steps, to caches, counters and words; nothing else of the machine. Where a word goes
bad, the stores not yet performed are performed before, so that each meets its error in its turn (R369). -/
def upset (s : State) : State :=
  let s := if s.storing.isEmpty || s.radiated.bad = s.bad then s else s.settleAll
  let t := s.radiated
  { s with parts := t.parts, bad := t.bad, caught := t.caught, pkg := { s.pkg with msi := t.pkg.msi }, seq := s.seq + 5 }

/-- Whether the current hart runs its next instruction ahead: a free choice. -/
def lookAhead (s : State) : State :=
  if !s.ready s.cur then s.mod fun h => { h with ahead := false }
  else
    let (n, s) := s.pick 2
    s.mod fun h => { h with ahead := n = 1 }

/-- What a partition settles after every step. While its clocks stand still it sends nothing (R357). -/
def settlePart (s : State) (p : Nat) : State :=
  let s := ((s.settle p).noteReclaim p).settlePeers p
  if (s.part p).state = 0 then s else (s.pumpAll p).sendAllWaiting p

/-- What follows every step: time passes, firmware that has been loaded starts, watches and flags are tested, commands go
on, transfers send what they can, standby harts' state goes to memory, and the next context takes its turn. -/
def tick (s : State) : State :=
  let s := s.pass
  let s := if s.firmwareDue then s.startFirmware else s
  let s := ((List.range 8).foldl settlePart s.notifyAll.saveParked).stopReads.powerGroups
  (s.liveCtxs.foldl settleArea s).rotate.lookAhead.upset

/-- The outcome of a step's effect, settled. -/
def finishStep : Out → Out
  | .next s => .next s.tick
  | .fault r => .fault r
  | .refused r => .refused r

/-! ## A word placed where the next step fetches -/

/-- The frames of the tables and the page that `withFetchWord` lays out: the last seven of the partition's first stack. -/
def fetchFrame (s : State) : Nat := 2 * s.partNo * 2 ^ 20 + 48 * 16384 - 8

/-- The current context as a hart about to fetch at its pc, with nothing pending. -/
def fetchHart (s : State) : Hart :=
  { s.h with life := .active, park := none, intr := [], checks := [], savePending := false, frameFault := none, xfers := [],
             queue := [], ahead := false, stores := [],
             space := { s.h.space with ptroot := BitVec.ofNat 64 (65536 * s.fetchFrame) } }

/-- An access-table entry that allows everything (R349). -/
def allUnits : Access :=
  { v := true, r := true, w := true, a := true, lo := 0, hi := 2 ^ 40 - 1, word0 := 15,
    word1 := BitVec.ofNat 64 (2 ^ 56 - 65536) }

/-- The state with 4 bytes laid out at the current hart's pc: a walk of six levels to one page with every right, an
access-table entry that admits the cluster, and the bytes. -/
def placeWord (s : State) (b : List Byte) : State :=
  let f := s.fetchFrame
  let pc := s.h.pc.toNat
  let s := { s with h := s.fetchHart, inbox := [] }
  let s := s.modPart s.partNo fun p => { p with tlb := [] }
  let s := s.modPkg fun x => { x with acl := Table.set Access.reset x.acl (aclKey (2 * s.partNo) s.clNo 0) allUnits }
  let s := (List.range 5).foldl (fun s i =>
    s.putPte (65536 * (f + i)) (bits pc (levelShift i) (if i = 0 then 4 else 12)) 0 (f + i + 1) s.h.space.asid) s
  let s := s.putPte (65536 * (f + 5)) (bits pc 16 12) (2048 + leafRights true true true) (f + 6) s.h.space.asid
  s.putRaw (.phys (65536 * (f + 6) + pc % 65536)) b

end State

end Sys2Proof.Machine
end

