-- ==== Sys2Proof/Machine/Step.lean ====
section
/-!
DEFINITION. One step of the machine.
-/

namespace Sys2Proof.Machine

/-- What a step does where it takes no input: an event that is due, or the current hart's next instruction (R10). -/
def stepTurn (s : State) : Host.Outcome State Fault Refusal :=
  match s.turn with
  | (.event e, s) => e.run s
  | (.idle, s) => .next s
  | (.issue, s) =>
    match s.fetch with
    | (.instr i, t) => t.issueNext (.inl i) s.plain
    | (.trap x, t) => t.issueNext (.inr x) s.plain

/-- One step: an input from outside, an event, or an instruction, and what follows every step. An entry of the inbox that
is no event from outside is dropped. -/
def step (s : State) : Host.Outcome State Fault Refusal :=
  match s.takeInput with
  | (some i, s) => State.finishStep (if s.takes i then exec i s else .next s)
  | (none, s) => State.finishStep (stepTurn s)

/-- The state with a word laid out where `step` fetches its next instruction. Every instruction is one word of 32 bits. -/
def State.withFetchWord (s : State) (nbits w : Nat) : State :=
  s.placeWord (wordBytes (BitVec.ofNat 32 (w % 2 ^ nbits)))

end Sys2Proof.Machine
end

