-- ==== Sys2Proof/Safety.lean ====
section
/-!
DEFINITION. What every run keeps, in the terms the statements use: a sound machine, and what one step may leave behind.
-/

namespace Sys2Proof.Machine

/-- A cluster keeps its scratchpad in canonical form (R94) and has at most its two spare lanes (R3, R354). -/
structure Cluster.Sound (x : Cluster) : Prop where
  scratch : Memory.wf x.scratch = true
  spares : x.spares ≤ 2

/-- What the register maps of R285, the duty of R294 and the log of R371 promise of a partition: the duty from 4 to 16,
WATTS at least 200, RATE from 1 to 512, QUANTUM not 0, and at most 63 records. -/
structure Part.Sound (x : Part) : Prop where
  duty : 4 ≤ x.duty ∧ x.duty ≤ 16
  watts : 200 ≤ bits x.pcap.toNat 0 16
  rate : 1 ≤ bits x.tierrate.toNat 0 10 ∧ bits x.tierrate.toNat 0 10 ≤ 512
  quantum : bits x.partcfg.toNat 16 16 ≠ 0
  log : x.log.length ≤ 63

/-- A sound machine: physical memory in canonical form, every cluster and every partition sound, and no more than the 64
raises of MINSVN that R361 admits. -/
structure State.Sound (s : State) : Prop where
  mem : Memory.wf s.mem = true
  clusters : ∀ c, (s.clu c).Sound
  parts : ∀ p, (s.part p).Sound
  raises : s.pkg.raises ≤ 64

end Sys2Proof.Machine

/-! ## What a scalar instruction leaves

The statements about an instruction that completes say: `exec` answers a next state, and these predicates of it. Each
names the registers the instruction writes; all the rest of the machine, every other register and every byte of memory
is as before. -/

namespace Sys2Proof.Machine

/-- The convoy record after an instruction that is no vector instruction: its convoy-start bit ends the convoy (R14). -/
def convoyAfter (c : Bool) (l : List Nat) : List Nat := if c then [] else l

/-- A scalar instruction has written `v` to s(d), raised the flags `fl`, and gone on to the instruction at `next`; a write
to s0 is discarded (R142). -/
structure ScalarDone (s t : State) (c : Bool) (d : BitVec 6) (v : Word) (fl : Flags) (next : Word) : Prop where
  value : t.rd d = if d = 0 then 0 else v
  others : ∀ r, r ≠ d → t.rd r = s.rd r
  flags : t.h.fcsr = s.h.fcsr ||| BitVec.ofNat 64 (fl % 256)
  pc : t.h.pc = next
  rest : t = { s with h := { s.h with s := t.h.s, fcsr := t.h.fcsr, pc := t.h.pc, convoy := convoyAfter c s.h.convoy } }
  memory : ∀ l, t.byteAt l = s.byteAt l

/-- Where a hart is there to run it, the instruction answers a next state in which it has written `v` to s(d). -/
def ScalarRuns (i : Instr) (s : State) (c : Bool) (d : BitVec 6) (v : Word) (fl : Flags) : Prop :=
  s.runnable = true → ∃ t, exec i s = .next t ∧ ScalarDone s t c d v fl (s.h.pc + 4)

/-- An instruction of three registers that writes a function of its two sources, at every register and in every state;
no flag changes. -/
def Scalar3 (mk : Bool → BitVec 6 → BitVec 6 → BitVec 6 → Instr) (f : Word → Word → Word) : Prop :=
  ∀ c d a b s, ScalarRuns (mk c d a b) s c d (f (s.rd a) (s.rd b)) 0

/-- An instruction of two registers that writes a value `r` such that `p source r` holds; no flag changes. -/
def Scalar2 (mk : Bool → BitVec 6 → BitVec 6 → Instr) (p : Word → Word → Prop) : Prop :=
  ∀ c d a s, ∃ v, p (s.rd a) v ∧ ScalarRuns (mk c d a) s c d v 0

/-- 1 where a condition holds, else 0. -/
def truth (p : Prop) [Decidable p] : Word := if p then 1 else 0

/-- The number of leading zero bits of a word is `r`: it is below 2^(64 - r), and not below half of that. -/
def IsClz (a r : Word) : Prop := r.toNat ≤ 64 ∧ a.toNat < 2 ^ (64 - r.toNat) ∧ (r.toNat < 64 → 2 ^ (63 - r.toNat) ≤ a.toNat)

/-- The number of trailing zero bits of a word is `r`. -/
def IsCtz (a r : Word) : Prop :=
  r.toNat ≤ 64 ∧ (∀ i < r.toNat, a.getLsbD i = false) ∧ (r.toNat < 64 → a.getLsbD r.toNat = true)

/-- The number of set bits of a word is `r`. -/
def IsPopc (a r : Word) : Prop := r.toNat = ((List.range 64).map fun i => (a.getLsbD i).toNat).sum

/-- A scalar floating-point instruction of three registers (R148, R149): it reads the sources in the format, computes
an exact value with the flags of reading and computing it, and writes that value fitted once into the format. -/
def ScalarFp3 (mk : Bool → BitVec 6 → BitVec 6 → BitVec 6 → Instr) (f : Fmt) (op : RM → Num → Num → Num → Num × Flags) :
    Prop :=
  ∀ c d a b s, ScalarRuns (mk c d a b) s c d
    (BitVec.ofNat 64 (fitFp f s.rm (op s.rm (sfSrc f s a) (sfSrc f s b) (sfSrc f s d)).1).1)
    ((op s.rm (sfSrc f s a) (sfSrc f s b) (sfSrc f s d)).2 ||| (sfSrc f s a).readNv ||| (sfSrc f s b).readNv |||
      (fitFp f s.rm (op s.rm (sfSrc f s a) (sfSrc f s b) (sfSrc f s d)).1).2)

end Sys2Proof.Machine

/-! ## Control flow, memory and state registers -/

namespace Sys2Proof.Machine

/-- The machine with the current hart gone on at `a`, its registers as they were, and the convoy as the convoy-start bit
says (R14). -/
def State.goes (s : State) (c : Bool) (a : Word) : State :=
  { s with h := { s.h with pc := a, convoy := convoyAfter c s.h.convoy } }

/-- A conditional branch (R152): taken, four times its signed offset away, where the relation of its two registers holds. -/
def BranchOn (mk : Bool → BitVec 6 → BitVec 6 → BitVec 10 → Instr) (p : Word → Word → Prop) : Prop :=
  ∀ c a b o s, s.runnable = true →
    (p (s.rd a) (s.rd b) → exec (mk c a b o) s = .next (s.goes c (s.h.pc + BitVec.ofInt 64 (4 * o.toInt)))) ∧
    (¬p (s.rd a) (s.rd b) → exec (mk c a b o) s = .next (s.goes c (s.h.pc + 4)))

/-- The bits that an access sets in the page-table entry of its page: A, and D where it writes (R310). -/
def accessBits (w : Want) : Nat := if w.w then 2 ^ 7 + 2 ^ 8 else 2 ^ 7

/-- A translation has gone through a leaf (R310, R315): A and D are set in the 8 bytes at the place the walk read the leaf
from, where the leaf as found lacks one and the word is readable; every other byte is as it was, and but for the
translation caches and the counter of the free values so is the rest of the machine. -/
structure WentThrough (s u : State) (w : Want) (leaf : TlbEntry) : Prop where
  rest : u = { s with parts := u.parts, mem := u.mem, seq := u.seq }
  caches : ∀ p, u.part p = { s.part p with tlb := (u.part p).tlb }
  entry : leaf.word0 &&& accessBits w ≠ accessBits w → s.badIn [(.phys leaf.pte, 8)] = [] →
    u.physNat leaf.pte 8 = s.physNat leaf.pte 8 ||| accessBits w
  kept : leaf.word0 &&& accessBits w = accessBits w ∨ s.badIn [(.phys leaf.pte, 8)] ≠ [] → ∀ l, u.byteAt l = s.byteAt l
  others : ∀ l, (∀ i < 8, l ≠ .phys (leaf.pte + i)) → u.byteAt l = s.byteAt l

/-- One machine is another after some accesses have looked up handle entries and translated addresses, none of which
failed: what the translations did is all that is new in memory, and a machine check pends only where some word holds an error
(R368). -/
inductive Translated : State → State → Prop where
  | done (s : State) : Translated s s
  | look (s u t : State) : u = { s with h := { s.h with checks := u.h.checks }, parts := u.parts, seq := u.seq } →
      (s.bad = [] → u.h.checks = s.h.checks) →
      (∀ p, u.part p = { s.part p with handles := (u.part p).handles }) → Translated u t → Translated s t
  | page (s u t : State) (sp : Space) (user : Bool) (w : Want) (va a : Nat) : s.translate sp user w va = (.ok a, u) →
      Translated u t → Translated s t

/-- A scalar access has been performed: s(d) holds `v`, and but for the pc, the convoy, the flags `fl` and a machine check for an
error in what the lookup read (R368) nothing else of the hart, and nothing of any other hart, cluster or of the package, has
changed. -/
structure AccessDone (s t : State) (c : Bool) (d : BitVec 6) (v : Word) (fl : Flags) : Prop where
  value : t.rd d = if d = 0 then 0 else v
  others : ∀ r, r ≠ d → t.rd r = s.rd r
  hart : t.h = { s.h with s := t.h.s, pc := s.h.pc + 4, convoy := convoyAfter c s.h.convoy,
                          fcsr := s.h.fcsr ||| BitVec.ofNat 64 (fl % 256), checks := t.h.checks }
  checks : s.bad = [] → t.h.checks = s.h.checks
  harts : t.harts = s.harts
  clusters : ∀ k, t.clu k = { s.clu k with scratch := (t.clu k).scratch }
  parts : ∀ p, t.part p = { s.part p with tlb := (t.part p).tlb, handles := (t.part p).handles }
  pkg : t.pkg = s.pkg
  bad : t.bad = s.bad

/-- The bytes of some places hold a number, little-endian, and every other byte is as it was in `u`. -/
structure Stored (u t : State) (l : List Piece) (n v : Nat) : Prop where
  bytes : (bytesOf l).Nodup → t.raw l = leBytes n v
  others : ∀ x, x ∉ bytesOf l → t.byteAt x = u.byteAt x

/-- What SAMO's functions store over an old value (R151): `w` bits, signed where the function compares or saturates. -/
def samoNew (op : Amo) (w old v : Nat) : Nat :=
  let a := (BitVec.ofNat w old).toInt
  let b := (BitVec.ofNat w v).toInt
  match op with
  | .add => (old + v) % 2 ^ w
  | .addsat => (BitVec.ofInt w (max (-2 ^ (w - 1)) (min (2 ^ (w - 1) - 1) (a + b)))).toNat
  | .min => if b < a then v else old
  | .max => if a < b then v else old
  | .and => old &&& v
  | .or => old ||| v
  | .xor => old ^^^ v
  | .swap => v

/-- Addsat has left the signed range (R151). -/
def samoSat (op : Amo) (w old v : Nat) : Bool :=
  let t := (BitVec.ofNat w old).toInt + (BitVec.ofNat w v).toInt
  op == .addsat && (decide (t < -2 ^ (w - 1)) || decide (2 ^ (w - 1) ≤ t))

/-- One SAMO completes (R151): the atomic step on the bytes of its place, the old value sign-extended to s(d). -/
def SamoRuns (op : Amo) (i : Instr) (c : Bool) (d : BitVec 6) (h : BitVec 4) (x : BitVec 6) (w : BitVec 1) (s : State) : Prop :=
  let n := if w = 1 then 4 else 8
  ∀ l u, s.runnable = true → (s.noteCv c).one h .atomic false (s.rd x).toInt n = (.runs l, u) → u.badIn l = [] →
    let old := leNat (u.raw l)
    let new := samoNew op (8 * n) old ((s.rd d).toNat % 2 ^ (8 * n))
    (op = .and → bits old 44 1 ≤ bits new 44 1 ∨ n = 4) →
    ∃ t, exec i s = .next t ∧ Translated (s.noteCv c) u ∧
      AccessDone s t c d ((BitVec.ofNat (8 * n) old).signExtend 64)
        (if samoSat op (8 * n) old ((s.rd d).toNat % 2 ^ (8 * n)) then 32 else 0) ∧ Stored u t l n new

/-- A value of a state register's writable fields after a write (R160 to R162, R56, R21, R285): the old value, the
written one, and what the partition's ASID range admits. -/
def srAfter (s : State) (r : BitVec 8) (v : Word) : Word :=
  let old := s.sr r
  let keep (m : Word) : Word := (old &&& ~~~m) ||| (v &&& m)
  let field (lo w : Nat) (ok : Nat → Bool) : Nat := if ok (bits v.toNat lo w) then bits v.toNat lo w else bits old.toNat lo w
  match r.toNat with
  | 0 => keep 7
  | 4 => BitVec.ofNat 64 (field 8 3 (· < 5) * 2 ^ 8 + bits v.toNat 0 8)
  | 5 => BitVec.ofNat 64 (field 0 5 (· ≤ 16))
  | 6 => if v.getLsbD 31 then old else old &&& ~~~(1#64 <<< 31)
  | 8 => v &&& ~~~3#64
  | 9 => v &&& ~~~127#64
  | 10 => v &&& 0x80000000000001FF#64
  | 11 => v
  | 64 => v &&& ~~~3#64
  | 65 => v &&& 0xC0000000000000FF#64
  | 66 => v
  | 67 => v &&& ~~~127#64
  | 68 => BitVec.ofNat 64 (field 0 14 fun a =>
      decide ((s.part s.partNo).asidlo.toNat ≤ a) && decide (a ≤ (s.part s.partNo).asidhi.toNat))
  | 69 => v &&& 0x00FFFFFFFFFFFF00#64
  | 70 => BitVec.ofNat 64 (field 56 5 (· ≤ 24) * 2 ^ 56 + bits v.toNat 12 44 * 2 ^ 12)
  | 71 => BitVec.ofNat 64 (field 56 5 (· ≤ 16) * 2 ^ 56 + bits v.toNat 12 44 * 2 ^ 12)
  | 72 => BitVec.ofNat 64 (bits v.toNat 16 1 * 2 ^ 16 + max 200 (bits v.toNat 0 16))
  | 73 => BitVec.ofNat 64 (field 0 10 fun a => decide (1 ≤ a) && decide (a ≤ 512))
  | 74 => v &&& 0xFFFFFFFF#64
  | _ => old

/-- What lets an access of a state register proceed: its privilege (R140), and no transfer in flight where the register's
accesses wait (R163, R285). -/
def SrReady (s : State) (write : Bool) (r : BitVec 8) : Prop :=
  s.runnable = true ∧ (64 ≤ r.toNat → s.h.sup = true) ∧
    (r.toNat ∈ [3, 4, 6, 10, 11] ∨ write = true ∧ r.toNat ∈ [68, 69, 70, 71, 73, 75] → s.h.xfers = [])

/-- A state register has been written: it reads as the write makes it, s(d) has the old value where a `d` is given, and
the rest of the hart's registers, every other hart and all of memory are as before. -/
structure SrWritten (s t : State) (d : Option (BitVec 6)) (r : BitVec 8) (v : Word) : Prop where
  reads : t.sr r = srAfter s r v
  old : ∀ e, d = some e → t.rd e = if e = 0 then 0 else s.sr r
  others : ∀ e, d ≠ some e → t.rd e = s.rd e
  pc : t.h.pc = s.h.pc + 4
  vectors : t.h.v = s.h.v ∧ t.h.m = s.h.m ∧ t.h.c = s.h.c ∧ t.h.slots = s.h.slots
  srs : ∀ q, q ≠ r → q ≠ 12 → q ≠ 13 → t.sr q = s.sr q
  world : t.harts = s.harts ∧ t.clusters = s.clusters ∧ t.pkg = s.pkg ∧ t.cur = s.cur ∧ t.cycles = s.cycles
  memory : ∀ l, t.byteAt l = s.byteAt l

/-- A hart has entered its supervisor handler (R283, R285) with a cause, a level it came from and a value: SCAUSE, SVAL,
the level and the pc are set, and every other register is as before. -/
structure SupEntered (u t : State) (int spl : Bool) (code : BitVec 8) (val : Word) : Prop where
  cause : t.h.scause = BitVec.ofNat 64 (int.toNat * 2 ^ 63 + spl.toNat * 2 ^ 62 + code.toNat)
  val : t.h.sval = val
  level : t.h.sup = true
  pc : t.h.pc = u.h.stvec
  hart : t.h = { u.h with scause := t.h.scause, sval := t.h.sval, sup := true, pc := t.h.pc, park := none, convoy := [],
                          resuming := false, restart := Restart.none, estart := t.h.estart, xfers := t.h.xfers,
                          queue := [], front := none }
  rest : t = { u with h := t.h }

/-- A user-level trap has been taken (R318): UCAUSE has BUSY, VEC and CODE, UVAL the value, and the pc is UTVEC's; the
level does not change. -/
structure UserEntered (u t : State) (vec : Bool) (code : BitVec 8) (val : Word) : Prop where
  cause : t.h.ucause = BitVec.ofNat 64 (2 ^ 63 + vec.toNat * 2 ^ 8 + code.toNat)
  val : t.h.uval = val
  pc : t.h.pc = u.h.utvec
  hart : t.h = { u.h with ucause := t.h.ucause, uval := t.h.uval, pc := t.h.pc, convoy := [], resuming := false,
                          restart := Restart.none, estart := t.h.estart, xfers := [], queue := [], front := none }
  rest : t = { u with h := t.h }

/-- A frame's lane state has been put in force (R166, R170, R288). At the width it was saved under that is all of it; but a
restore is a point where the lanes are chosen again (R29, R296), so a grant in force takes the lanes of that moment, or while
its gang's grant is fixed those it keeps (R27), in groups of its slot that are not under repair (R17).
Under another width the registers read zero at depth 0, their tags kept, and VLR, VLC and ESTART are 0 (R377). -/
structure LanesFrom (u t : State) (f : Frame) : Prop where
  same : f.pw = u.pw → t.h.lanes = { f.lanes with
    lg := if f.lanes.granted then (u.mod fun h => { h with lg := f.lanes.lg, granted := true }).grantLanes else f.lanes.lg }
  groups : t.h.groups = if t.h.granted then (u.openGroups u.clNo u.h.slot).take (t.h.lg / 4) else []
  other : f.pw ≠ u.pw → t.h.estart = 0 ∧ t.h.resuming = false ∧
    t.h.lanes = { f.lanes with v := blankAll f.lanes.v, vlr := 0, vlc := 0, lg := u.h.lg, granted := false }

/-- What a return makes of its frame beside the lanes (R166, R167, R291): the queued instructions wait again, the transfers
it stopped go on, with their permits if no return took them before, and the next vector instruction starts a convoy. -/
structure Resumes (u t : State) (f : Frame) : Prop where
  pc : t.h.pc = f.pc
  queue : t.h.queue = f.queue
  xfers : t.h.xfers =
    u.h.xfers ++ f.xfers.map (Xfer.resumed (u.pkg.frames.any fun x => x.serial = f.serial && x.live))
  convoy : t.h.convoy = []
  others : t.h.c = u.h.c ∧ t.h.slots = u.h.slots ∧ t.harts = u.harts ∧ t.parts = u.parts ∧ t.clusters = u.clusters
  memory : ∀ l, t.byteAt l = u.byteAt l

/-- The header and the seal of a frame's bytes (R289, R290): the magic, size, kind, width, register count, hart id, pc and
ESTART, and the seal that the hart's key gives the bytes. -/
structure FrameBytes (s : State) (b : List Byte) (kind size : Nat) (pc : Word) (estart : Nat) : Prop where
  head : b.take 32 = leBytes 4 0x4F46524D ++ leBytes 4 size ++ leBytes 1 kind ++ leBytes 1 s.pw.toNat ++
    leBytes 1 (bits s.h.vtype.toNat 8 2) ++ leBytes 1 0 ++ leBytes 4 (s.hidOf s.cur).toNat ++ leBytes 8 pc.toNat ++
    leBytes 8 estart
  sealed : (b.drop 32).take 16 = State.sealOf s.h.key b

/-- A frame has been sealed and stored: it is the newest, of a kind, and restores a pc. -/
structure FrameMade (s u : State) (kind : Nat) (pc : Word) : Prop where
  newest : ∃ f, u.pkg.frames = f :: s.pkg.frames ∧ f.kind = kind ∧ f.pc = pc ∧ f.key = s.h.key
  hart : u.h = { s.h with checks := u.h.checks }
  harts : u.harts = s.harts

end Sys2Proof.Machine

/-! ## Configuration, harts and gangs -/

namespace Sys2Proof.Machine

/-- An instruction raises illegal-instruction with sub-cause `n` (R138), and has no other effect than that trap's. One
that ran at its pc traps there; one that ran from the queue is queued again, and the trap is at the scalar unit's pc
(R319). -/
def IllegalAt (i : Instr) (c : Bool) (s : State) (n : Nat) : Prop :=
  s.runnable = true → s.h.xfers = [] →
    let v : Word := BitVec.ofNat 64 (n * 2 ^ 32 + (encode i).toNat)
    (s.h.front = none → exec i s = .next ((s.noteCv c).supTrap false 1 v s.h.pc 0)) ∧
    (∀ f, s.h.front = some f → exec i s = .next
      (State.supTrap ((s.noteCv c).mod fun h => { h.withModes f.modes with queue := f.self :: f.rest, pc := f.pc, front := none })
        false 1 v f.pc 0))

/-- The instructions that only the supervisor may run (R140), with their words. -/
def privilegedForms (c : Bool) (d a : BitVec 6) (h : BitVec 4) (r : BitVec 8) : List Instr :=
  [.sret c, .tlbinv c d a 0, .tlbinv c d a 1, .tlbinv c d a 2, .htinv c d a 0, .htinv c d a 1, .vfsave c a h,
   .vfrestore c a h, .wfi c] ++ if r.toNat < 64 then [] else [.rdsr c d r, .wrsr c a r, .setsr c d a r, .clrsr c d a r]

/-- The grant of R29 from an element capacity, a row and a column request. -/
def IsGrant (e rows cols r c : Nat) : Prop :=
  if rows = 0 ∨ cols = 0 then r = 0 ∧ c = 0 else c = min cols e ∧ r = min rows (e / c)

/-- A later grant of a gang's phase (R27): the fixed columns and rows bound it too. -/
def IsLaterGrant (e grow gcol rows cols r c : Nat) : Prop :=
  ∃ r0 c0, IsGrant e rows cols r0 c0 ∧ r = min grow r0 ∧ c = min gcol c0

/-- A grant has been given (R29, R16): VLR and VLC hold it and so do the two scalars, the lanes are in force, in
groups that are not under repair, the convoy has ended, and the hart has gone on; its other registers and all of memory are as before. -/
structure Granted (s t : State) (d : BitVec 6) (lg : Nat) : Prop where
  rows : t.rd d = if d = 0 then 0 else BitVec.ofNat 64 t.h.vlr
  cols : t.rd (d + 1) = BitVec.ofNat 64 t.h.vlc
  others : ∀ r, r ≠ d → r ≠ d + 1 → t.rd r = s.rd r
  lanes : t.h.lg = lg ∧ t.h.granted = true ∧ t.h.groups = (s.openGroups s.clNo s.h.slot).take (lg / 4)
  hart : t.h = { s.h with s := t.h.s, vlr := t.h.vlr, vlc := t.h.vlc, lg := t.h.lg, granted := true, groups := t.h.groups,
                          convoy := [], pc := s.h.pc + 4 }
  harts : t.harts = s.harts
  memory : ∀ l, t.byteAt l = s.byteAt l

/-- The holds that HSPAWN adds for the slots it copies (R23). -/
def copySlots (l : Table (Option Binding)) : Eng Unit :=
  l.forM fun x => match x.2 with | some b => Eng.copySlot b | none => pure ()

/-- The registers a spawned hart starts with (R23, R11, R282): its pc, s1 and level, zero elsewhere, the registers that R23
has it inherit, and the vector registers zero at depth 0 with the tags of its parent's. -/
structure Spawned (h : Hart) (x : Hart) (target arg : Word) : Prop where
  pc : x.pc = target
  s1 : x.s.get 0 1 = arg
  zero : ∀ i, i ≠ 1 → x.s.get 0 i = 0
  level : x.sup = h.sup
  inherits : x.slots = h.slots ∧ x.vtype = h.vtype ∧ x.exsplit = h.exsplit ∧ x.utvec = h.utvec ∧ x.uframe = h.uframe ∧
    x.stvec = h.stvec ∧ x.sframe = h.sframe ∧ x.space = h.space ∧ x.fcsr = h.fcsr &&& 0x700
  fresh : x.c = [] ∧ x.m = [] ∧ x.vlr = 0 ∧ x.vlc = 0 ∧ x.estart = 0 ∧ x.resuming = false ∧ x.gang = 0 ∧ x.gone = false ∧
    x.ucause = 0 ∧ x.uval = 0 ∧ x.scause = 0 ∧ x.sval = 0 ∧ x.xfers = [] ∧ x.queue = [] ∧ x.stores = [] ∧ x.convoy = []
  vectors : x.v = blankAll h.v
  tags : Table.wf VReg.reset h.v = true → ∀ r, x.v.get VReg.reset r = { VReg.reset with tag := (h.v.get VReg.reset r).tag }

end Sys2Proof.Machine

/-! ## Vector instructions -/

namespace Sys2Proof.Machine

/-- What lets a vector instruction start (R126, R14, R30, R319): a hart runs it, its registers are in use, its path is
free in the convoy or it starts a new one, the grant fits the registers named in `cap`, and no transfer is in flight. -/
structure VecReady (s : State) (c : Bool) (p : Path) (regs cap : List Nat) : Prop where
  run : s.runnable = true
  inUse : ∀ r ∈ regs, r < s.nreg
  path : c = true ∨ p.no ∉ s.h.convoy
  fits : ∀ r ∈ cap, s.g ≤ s.capacity r
  drained : s.h.xfers = []

/-- The machine once a vector instruction has issued on a path: only the convoy's record is new (R14). -/
def State.issued (s : State) (c : Bool) (p : Path) : State :=
  { s with h := { s.h with convoy := p.no :: convoyAfter c s.h.convoy } }

/-- A vector instruction has completed and written at most VD, FCSR's flags and what `regs` lists of the scalars: every
other vector register, the masks, the other scalars, the rest of the machine and every byte of memory are as before, and
VD keeps its tag and takes the stack and open bits of `desc`. -/
structure VecFrame (s t : State) (d : Nat) (desc : VReg) (regs : List (BitVec 6)) : Prop where
  others : ∀ r, r ≠ d → t.vreg r = s.vreg r
  tag : (t.vreg d).tag = (s.vreg d).tag
  stack : (t.vreg d).levels = desc.levels ∧ (t.vreg d).headOpen = desc.headOpen ∧ (t.vreg d).tailOpen = desc.tailOpen
  flags : ∃ f : Nat, t.h.fcsr = s.h.fcsr ||| BitVec.ofNat 64 (f % 256)
  scalars : ∀ r, r ∉ regs → t.rd r = s.rd r
  hart : t.h = { s.h with v := t.h.v, fcsr := t.h.fcsr, s := t.h.s, pc := s.h.pc + 4 }
  rest : t = { s with h := t.h }
  memory : ∀ x, t.byteAt x = s.byteAt x

/-- A vector instruction has written the answers of `l` to VD: their values fitted by `fit`, the flags of the answers, of
fitting and of `extra` raised, with the frame of `VecFrame`. -/
structure VecWrote (s t : State) (d : Nat) (desc : VReg) (fit : Num → Nat × Flags) (l : List (Nat × Ans)) (extra : Flags) :
    Prop where
  frame : VecFrame s t d desc []
  bits : (t.vreg d).bits = (writeAns (s.vreg d).ty s.rm fit (s.vreg d).bits l).1
  flags : t.h.fcsr = s.h.fcsr ||| BitVec.ofNat 64 ((extra ||| (writeAns (s.vreg d).ty s.rm fit (s.vreg d).bits l).2) % 256)

/-- Some flags raised together. -/
def orFlags (l : List Flags) : Flags := l.foldl (· ||| ·) 0

/-- A vector instruction has written mask register `d` and raised the flags `fl`, and nothing else is new. -/
structure MaskFrame (s t : State) (d : Nat) (fl : Flags) : Prop where
  others : ∀ m, m ≠ d → t.h.m.get 0 m = s.h.m.get 0 m
  zero : d = 0 → t.h.m = s.h.m
  flags : t.h.fcsr = s.h.fcsr ||| BitVec.ofNat 64 (fl % 256)
  hart : t.h = { s.h with m := t.h.m, fcsr := t.h.fcsr, pc := s.h.pc + 4 }
  rest : t = { s with h := t.h }
  memory : ∀ x, t.byteAt x = s.byteAt x

/-- The bits of an element of a register. -/
def State.el (s : State) (r i : Nat) : Nat := (s.vreg r).ty.get (s.vreg r).bits i

/-- The two-source element-wise instructions with their functions (R176, R177). -/
def ewForms : List (EwOp × (Bool → BitVec 6 → BitVec 6 → BitVec 6 → BitVec 3 → BitVec 2 → Instr)) :=
  [(.add, .vadd), (.sub, .vsub), (.mul, .vmul), (.mulh, .vmulh), (.fma, .vfma), (.fms, .vfms), (.div, .vdiv),
   (.rem, .vrem), (.min, .vmin), (.max, .vmax), (.and, .vand), (.or, .vor), (.xor, .vxor), (.shl, .vshl),
   (.shrL, .vshrL), (.shrA, .vshrA), (.shrAr, .vshrAr), (.adds, .vadds), (.absd, .vabsd), (.avg, .vavg)]

/-- The kind-tagged instructions with their functions (R183). -/
def vkForms : List (EwOp × (Bool → BitVec 6 → BitVec 2 → BitVec 6 → BitVec 2 → BitVec 6 → Instr)) :=
  [(.add, .vaddk), (.sub, .vsubk), (.mul, .vmulk), (.fma, .vfmak), (.min, .vmink), (.max, .vmaxk)]

/-- The functions of VUN that compute (R180). -/
def unForms : List (UnOp × (Bool → BitVec 6 → BitVec 6 → BitVec 2 → Instr)) :=
  [(.abs, .vabs), (.neg, .vneg), (.not, .vnot), (.sqrt, .vsqrt), (.clz, .vclz), (.popc, .vpopc), (.cvt, .vcvt)]

/-- The reductions with their combinations (R191). -/
def redForms : List (RedOp × (Bool → BitVec 6 → BitVec 6 → BitVec 6 → BitVec 3 → BitVec 2 → Instr)) :=
  [(.add, .vredAdd), (.mul, .vredMul), (.min, .vredMin), (.max, .vredMax), (.and, .vredbAnd), (.or, .vredbOr),
   (.xor, .vredbXor)]

/-- The scans with their combinations (R193); the flag says which are exclusive. -/
def scanForms : List (RedOp × Bool × (Bool → BitVec 6 → BitVec 6 → BitVec 6 → BitVec 3 → BitVec 2 → Instr)) :=
  [(.add, false, .vscanAddInc), (.add, true, .vscanAddExc), (.max, false, .vscanMaxInc), (.max, true, .vscanMaxExc)]

/-- The functions of the SFU (R232 to R237), with the tags VD may carry. -/
def sfuForms : List (SfuOp × (Ty → Bool) × (Bool → BitVec 6 → BitVec 6 → Instr)) :=
  [(.exp, Ty.isFp, fun c d a => .vexp c d a 0), (.exp, fun t => t == .p8, fun c d a => .vexp c d a 1), (.ln, Ty.isFp, .vln),
   (.rcp, Ty.isFp, .vrcp), (.rsq, Ty.isFp, .vrsq), (.sin, Ty.isFp, .vsin), (.cos, Ty.isFp, .vcos), (.tanh, Ty.isFp, .vtanh),
   (.sigm, Ty.isFp, .vsigm)]

/-- What a two-source instruction needs of its sources beside `VecReady` (R54, R36, R174). -/
structure EwReady (s : State) (c : Bool) (d a b : Nat) (e : BitVec 3) : Prop where
  ready : VecReady s c .ew [d, a, b] [d, a, b]
  depth : e = 0 ∨ (depthOf e (s.vreg a).depth).isSome = true
  room : s.operandLimit (s.vreg a) e ++ s.stackLimits d (s.vreg a).levels = []

/-- What a VK instruction reads and gives its result (R183, R127, R39). -/
structure VkReady (s : State) (c : Bool) (d : Nat) (p q : BitVec 2) (a b : BitVec 6) : Prop where
  ready : VecReady s c .ew (d :: State.srcRegs p q a b) (d :: State.srcRegs p q a b)
  room : s.stackLimits d (s.vkDesc d p q a b).levels = []

/-- What a vector instruction touches: the vector registers of `vs`, whose tags stay, the scalars of `rs`, the mask
registers of `ms` and FCSR's flags; the rest of the machine and every byte of memory are as before. -/
structure VecTouched (s t : State) (vs : List Nat) (rs : List (BitVec 6)) (ms : List Nat) : Prop where
  vectors : ∀ r, r ∉ vs → t.vreg r = s.vreg r
  tags : ∀ r, (t.vreg r).tag = (s.vreg r).tag
  scalars : ∀ r, r ∉ rs → t.rd r = s.rd r
  masks : ∀ m, m ∉ ms ∨ m = 0 → t.h.m.get 0 m = s.h.m.get 0 m
  flags : ∃ f : Nat, t.h.fcsr = s.h.fcsr ||| BitVec.ofNat 64 (f % 256)
  hart : t.h = { s.h with v := t.h.v, m := t.h.m, fcsr := t.h.fcsr, s := t.h.s, pc := s.h.pc + 4 }
  rest : t = { s with h := t.h }
  memory : ∀ x, t.byteAt x = s.byteAt x

/-- The depth a move, a reduction or a split acts at exists in the source (R36). -/
def DepthOk (v : VReg) (e : BitVec 3) : Prop := e = 7 ∨ e.toNat ≤ v.depth

/-- The elements of a register's deepest segments that are active and below G, segment by segment (R194, R197). -/
def State.activeSegs (s : State) (v : VReg) (m : Nat) : List (List Nat) :=
  (v.segs s.g v.depth).map fun x => (s.segElems x).filter (s.maskBit m)

/-- Elements 0 on of a register hold those of VA's elements that a list names, in order, and the others stay. -/
def PackedFrom (s t : State) (d a : Nat) (l : List Nat) : Prop :=
  (∀ k (h : k < l.length), t.el d k = s.el a l[k]) ∧ ∀ k, l.length ≤ k → t.el d k = s.el d k

/-- The children of a segment split by a mask: its active elements, then the others (R196). -/
def State.maskKids (s : State) (m : Nat) (x : Seg) : List (List Nat) :=
  let l := (List.range x.2).map (x.1 + ·)
  [l.filter (s.maskBit m), l.filter fun i => !s.maskBit m i]

/-- What lets VSPLIT go on (R196, R37): depth, children, elements and the result's stack within their limits. -/
structure SplitReady (s : State) (c : Bool) (d a : Nat) (kids : List (List (List Nat))) (levels : List (List Nat)) :
    Prop where
  ready : VecReady s c .xl [d, a] [d, a]
  tags : (s.vreg a).tag = (s.vreg d).tag ∧ (s.vreg a).ty.isQ = false
  depth : (s.vreg a).depth < 8
  fits : (kids.map List.length).sum ≤ s.capacity d ∧ ((s.vreg a).segs s.g (s.vreg a).depth |>.map (·.2)).sum ≤ s.g
  stack : levels = setDeepest (s.vreg a).levels (kids.map List.length) ++ [kids.flatten.map List.length]
  room : s.stackLimits d levels = []

/-- The product of an integer MMAC for row `i` of repetition `t` and column `j` (R228). -/
def State.macDot (s : State) (a b t i j : Nat) : Int :=
  (((List.range 8).filter fun k => s.maskBit s.dm (8 * i + k)).map fun k =>
    ((s.vreg (a + t)).num (8 * i + k)).1.toInt * ((s.vreg (b + k)).num j).1.toInt).sum

end Sys2Proof.Machine

/-! ## Vector memory -/

namespace Sys2Proof.Machine

/-- The current hart after a vector memory instruction has completed: at the next instruction, with no restart pending
(R204). -/
def Hart.moved (h : Hart) : Hart :=
  { h with pc := h.pc + 4, resuming := false, restart := Restart.none, estart := if h.resuming then 0 else h.estart }

/-- A VLD has loaded the units it found into VD (R201), by the layout of VD's tag: whole elements, whole blocks, or the
slice bits of an element (R46, R200). `s` is the machine at issue and `u` the one after the addresses were translated. -/
structure VecLoaded (s u t : State) (d mode : Nat) (found : List (Elem × List Piece)) : Prop where
  hart : t.h = { s.h.moved with v := t.h.v, checks := u.h.checks }
  rest : t = { u with h := t.h }
  vectors : ∀ r, r ≠ d → t.vreg r = s.vreg r
  shape : t.vreg d = { VReg.reset with tag := (s.vreg d).tag, bits := (t.vreg d).bits }
  whole : (s.vreg d).ty.blocked = false → ∀ y ∈ found, t.el d y.1.idx = leNat (u.raw y.2) % 2 ^ (s.vreg d).ty.width
  blocks : (s.vreg d).ty.wholeBlocks mode = true → ∀ y ∈ found,
    bits (t.vreg d).bits (y.1.idx / 64 * (8 * (s.vreg d).ty.unitBytes)) (8 * (s.vreg d).ty.unitBytes) =
      leNat (u.raw y.2) % 2 ^ (8 * (s.vreg d).ty.unitBytes)
  slices : (s.vreg d).ty.blocked = true → (s.vreg d).ty.wholeBlocks mode = false → ∀ y ∈ found,
    ∀ k < (s.vreg d).ty.width, (t.el d y.1.idx).testBit k = (leNat (u.raw y.2)).testBit (64 * k + y.1.idx % 64)
  others : (s.vreg d).ty.wholeBlocks mode = false → ∀ i, i ∉ found.map (·.1.idx) → t.el d i = s.el d i

/-- A VST has stored the units it found (R201), and no other byte of memory has changed. Where the units do not overlap,
each holds its element, its block or, of a bit-sliced register in mode 0, its element's slice bits among the bits that
were there. -/
structure VecStored (s u t : State) (d mode : Nat) (found : List (Elem × List Piece)) : Prop where
  hart : t.h = { s.h.moved with checks := u.h.checks }
  rest : t = { u with h := t.h, mem := t.mem, clusters := t.clusters, seq := t.seq }
  clusters : ∀ k, t.clu k = { s.clu k with scratch := (t.clu k).scratch }
  memory : ∀ x, (∀ y ∈ found, x ∉ bytesOf y.2) → t.byteAt x = u.byteAt x
  whole : ((s.vreg d).ty.blocked = true → (s.vreg d).ty.wholeBlocks mode = true) → (found.flatMap (bytesOf ·.2)).Nodup →
    ∀ y ∈ found, t.raw y.2 = leBytes (s.vreg d).ty.unitBytes
      (if (s.vreg d).ty.blocked then bits (s.vreg d).bits (y.1.idx / 64 * (8 * (s.vreg d).ty.unitBytes)) (8 * (s.vreg d).ty.unitBytes)
        else s.el d y.1.idx)
  slices : (s.vreg d).ty.blocked = true → (s.vreg d).ty.wholeBlocks mode = false →
    (∀ y ∈ found, (bytesOf y.2).Nodup ∧ ∀ z ∈ found, if y.1.idx / 64 = z.1.idx / 64 then y.2 = z.2
      else ∀ b ∈ bytesOf y.2, b ∉ bytesOf z.2) →
    ∀ y ∈ found, ∀ k < (s.vreg d).ty.width, ∀ j < 64, (leNat (t.raw y.2)).testBit (64 * k + j) =
      if 64 * (y.1.idx / 64) + j ∈ found.map (·.1.idx) then (s.el d (64 * (y.1.idx / 64) + j)).testBit k
      else (leNat (u.raw y.2)).testBit (64 * k + j)

/-- What VAMO's functions store over an old value of `w` bits (R205): comparisons and saturation by the tag's sign. -/
def vamoNew (op : Amo) (signed : Bool) (w old v : Nat) : Nat :=
  if signed then samoNew op w old v
  else match op with
    | .addsat => min (2 ^ w - 1) (old + v)
    | .min => min old v
    | .max => max old v
    | _ => samoNew op w old v

/-- A vector atomic has completed on elements that do not overlap (R205, R206): VD has the fetched values, each place what
`new` makes of its old value, and no other byte has changed. Parked harts' watches and the flags that requests wait for
have been tested (R42, R305), and nothing else of any other hart, cluster or partition is new. -/
structure AtomicsDone (s u t : State) (d size : Nat) (new : Nat → Nat → Nat) (found : List (Elem × List Piece)) :
    Prop where
  hart : t.h = { s.h.moved with v := t.h.v, fcsr := t.h.fcsr, checks := u.h.checks }
  rest : t = { u with h := t.h, harts := t.harts, mem := t.mem, clusters := t.clusters, parts := t.parts, seq := t.seq }
  clusters : ∀ k, t.clu k = { s.clu k with scratch := (t.clu k).scratch }
  parts : ∀ p, ∃ m : Request → Bool, t.part p =
    { u.part p with requests := (u.part p).requests.map fun x => { x with met := x.met || m x } }
  harts : ∀ k, k ≠ s.cur → t.hart k = { s.hart k with park := (t.hart k).park }
  vectors : ∀ r, r ≠ d → t.vreg r = s.vreg r
  shape : t.vreg d = { VReg.reset with tag := (s.vreg d).tag, bits := (t.vreg d).bits }
  fetched : ∀ y ∈ found, t.el d y.1.idx = leNat (u.raw y.2)
  others : ∀ i, i ∉ found.map (·.1.idx) → t.el d i = s.el d i
  stored : ∀ y ∈ found, t.raw y.2 = leBytes size (new y.1.idx (leNat (u.raw y.2)))
  memory : ∀ x, (∀ y ∈ found, x ∉ bytesOf y.2) → t.byteAt x = u.byteAt x

/-- A vector memory instruction of a mode has reached its slot, its checks pass, and every element's bytes are found and
readable: from the machine at issue to the one with the addresses translated. -/
structure Found (v u : State) (h : BitVec 4) (use : Use) (mode : Nat) (l : List Elem) (found : List (Elem × List Piece)) :
    Prop where
  reached : ∃ p w m, v.reach h use true l = (.ok p, w) ∧ (p.inMode mode).elems l [] w = (found, none, m, u)
  good : ∀ y ∈ found, u.badIn y.2 = []

/-- VAMO's instructions with their functions (R205). -/
def vamoForms : List (Amo × (Bool → BitVec 6 → BitVec 4 → BitVec 6 → BitVec 1 → BitVec 1 → BitVec 1 → BitVec 3 → Instr)) :=
  [(.add, .vamoAdd), (.addsat, .vamoAddsat), (.min, .vamoMin), (.max, .vamoMax), (.and, .vamoAnd), (.or, .vamoOr),
   (.xor, .vamoXor), (.swap, .vamoSwap)]

end Sys2Proof.Machine

/-! ## Heap objects, experts and engine transfers -/

namespace Sys2Proof.Machine

/-- The current hart gone on from an instruction that is no vector instruction. -/
def Hart.onward (h : Hart) : Hart := { h with pc := h.pc + 4 }

/-- Two machines differ in the hold counts of a handle entry alone (R321). -/
def Recounted (s u : State) (a scount wcount : Nat) : Prop :=
  u.physNat (a + 8) 8 = scount + wcount * 2 ^ 32 ∧
    ∀ l, (∀ i < 8, l ≠ .phys (a + 8 + i)) → u.byteAt l = s.byteAt l

/-- A live object of a binding with room for one more hold of either kind (R75, R321), its entry readable (R368). -/
def LiveFor (s : State) (b : Binding) : Prop :=
  s.badIn [(.phys (b.space.entryAt b.index), 64)] = [] ∧
  (s.entryOf b).state = 1 ∧ (s.entryOf b).gen = b.gen ∧ b.gone = false ∧
    (s.entryOf b).scount + 1 < 2 ^ 32 ∧ (s.entryOf b).wcount + 1 < 2 ^ 32

/-- The Block Pool Engine performs an operation for the current hart, and answers (R350: no access table denies it). -/
def Performed {α : Type} (s u : State) (op : Eng α) (a : α) : Prop := Eng.bpe s op = (some a, u)

/-- Perigee performs an operation for the current hart, and answers. -/
def PerigeeDoes {α : Type} (s u : State) (op : Eng α) (a : α) : Prop :=
  Eng.perigee s s.partNo (do Eng.forHart; op) = (some a, u)

/-- An operation has changed nothing but the current hart's pending machine checks, and those only where some word holds an
error (R368). -/
structure OnlyChecks (s u : State) : Prop where
  rest : u = { s with h := { s.h with checks := u.h.checks } }
  none : s.bad = [] → u = s

/-- An instruction has answered with a number after an engine's operation that left `u`: s(d) holds it, the other scalars
are as in `s`, and the hart has gone on. -/
structure Answers (s u t : State) (d : BitVec 6) (v : Word) : Prop where
  value : t.rd d = if d = 0 then 0 else v
  others : ∀ k, k ≠ d → t.rd k = s.rd k
  rest : t = { u with h := { u.h.onward with s := t.h.s } }

/-- A hart at an instruction with no transfer in flight. -/
def Ready (s : State) : Prop := s.runnable = true ∧ s.h.xfers = []

/-- A slot of a hart that holds a live paged object, with its entry and table (R213). -/
def PagedSlot (s : State) (h : BitVec 4) (b : Binding) (e : Entry) (t : BTable) : Prop :=
  s.slot h = some b ∧ e = s.entryOf b ∧ b.isGone e = false ∧ e.paged = true ∧ t = s.btable e.tbl

/-- What lets an engine transfer start (R129, R126): its path and no transfer in flight. -/
def EngineReady (s : State) (c : Bool) : Prop := Ready s ∧ (c = true ∨ Path.en.no ∉ s.h.convoy)

/-- An engine instruction's two ends are read and checked (R220, R221): the transfer to make, and the machine then. -/
def BothEnds (v u : State) (word : BitVec 32) (use : Use) (src dst : Bool) (h g : BitVec 4) (d a : BitVec 6) (m : Move)
    (x y : Side) : Prop :=
  ∃ bx b u1 u2, v.side word src 0 g a = (.ok (x, bx), u1) ∧ u1.side word dst bx.length h d = (.ok (y, b), u2) ∧
    u2.bothEnds use x y (min (x.limit v.g) (y.limit v.g)) (bx ++ b) = (.ok m, u)

/-- The bytes of the elements of an end, in order. -/
def bytesAt (l : List (Elem × List Piece)) : List Loc := l.flatMap (bytesOf ·.2)

end Sys2Proof.Machine

/-! ## Events -/

namespace Sys2Proof.Machine

/-- Only where harts stand has changed (R298): lives, slots and the ready queues. -/
structure Rescheduled (s t : State) : Prop where
  harts : ∀ k, t.hart k = { s.hart k with life := (t.hart k).life, slot := (t.hart k).slot, since := (t.hart k).since,
                                          groups := (t.hart k).groups }
  clusters : ∀ c, t.clu c = { s.clu c with ready := (t.clu c).ready }
  rest : t = { s with h := t.h, harts := t.harts, clusters := t.clusters, seq := t.seq }

/-- A context's park has ended (R22), and but for where harts stand nothing else has changed. -/
structure Woken (s t : State) (k : Nat) : Prop where
  park : (t.hart k).park = none
  harts : ∀ j, t.hart j = { s.hart j with life := (t.hart j).life, slot := (t.hart j).slot, since := (t.hart j).since,
                                          groups := (t.hart j).groups, park := (t.hart j).park }
  others : ∀ j, j ≠ k → (t.hart j).park = (s.hart j).park
  clusters : ∀ c, t.clu c = { s.clu c with ready := (t.clu c).ready }
  rest : t = { s with h := t.h, harts := t.harts, clusters := t.clusters }

/-- A free slot goes to the head of a cluster's ready queue, once `u` has its slots as they are then (R298). -/
def HeadRuns (s u t : State) (cl : Nat) : Prop :=
  ∀ q l n, (s.clu cl).ready = q :: l → q ∉ l → u.freeSlot cl q = some n → (t.hart q).life = .active ∧ (t.hart q).slot = n

/-- The machine as a partition's operations see it: with one of its contexts the current one. -/
def State.within (s : State) (p : Nat) : State := if s.partNo = p then s else s.switchTo (384 * p)

/-- A record has been dropped with a reason (R335). -/
structure Dropped (s t : State) (p reason : Nat) : Prop where
  rejected : (t.part p).rejected = (s.part p).rejected + 1
  lastrej : (t.part p).lastrej = BitVec.ofNat 64 reason
  requests : (t.part p).requests = (s.part p).requests
  memory : ∀ x, t.byteAt x = s.byteAt x

/-- A flit that a port takes (R340, R341): intact, of the expected TYPE, next in order, for the port's partition, from a
valid peer slot. -/
structure Comes (s : State) (q : Nat) (b : BitVec 2048) (t : FlitType) (f : Flit) (i : Nat) (ps : PeerSlot) : Prop where
  up : (s.port q).up = true
  on : (s.part (q / 16)).state ≠ 0
  intact : Flit.parse b = (f, true)
  type : f.type = t.code
  next : t ≠ .ack → t ≠ .nak → f.seq = (s.port q).lastIn + 1
  dest : f.dst = State.peerNumber (q / 16)
  slot : s.slotOfPeer (q / 16) f.src = some (i, ps)

/-- A flit that a port takes, of its sender's current EPOCH (R346). -/
structure Arrives (s : State) (q : Nat) (b : BitVec 2048) (t : FlitType) (f : Flit) (i : Nat) (ps : PeerSlot) : Prop
    extends Comes s q b t f i ps where
  epoch : (s.peer (q / 16) f.src.toNat).epoch = some f.epoch

/-- A transfer of a context of a partition that some frame or hart holds has been changed by `g` where `which` holds. -/
def XfersMapped (s t : State) (p : Nat) (which : Xfer → Bool) (g : Xfer → Xfer) : Prop :=
  ∀ k, k / 384 = p → (s.hart k).life ≠ .free →
    (t.hart k).xfers = (s.hart k).xfers.map fun x => if which x then g x else x

/-- A partition command has ended with a RESULT (R352): its low 32 bits are the outcome. -/
def Answered (t : State) (p outcome : Nat) : Prop := (t.part p).result.toNat % 2 ^ 32 = outcome

/-- A host command with the STATEs that admit it (R353, R354). -/
inductive CommandForm (p : BitVec 3) (cl lane : BitVec 5) : Instr → List Nat → Prop where
  | quiesce : CommandForm p cl lane (.quiesce p) [2]
  | resume : CommandForm p cl lane (.partitionResume p) [3]
  | load : CommandForm p cl lane (.partitionLoad p) [1]
  | repairLane : CommandForm p cl lane (.repairLane p cl lane) [2, 3]
  | repairCluster : CommandForm p cl lane (.repairCluster p cl) [2, 3]
  | powerOff : CommandForm p cl lane (.powerOff p) [1, 3]

/-- A host access of bytes that the tables admit or deny (R334, R338, R350): `i` is the access of some bytes at address `a`, as
the host writes or reads them, for the lengths that `ok` admits. -/
structure HostReaches (s : State) (fn a : Nat) (ok : Nat → Prop) (i : Bool → List Byte → Instr) : Prop where
  writes : ∀ data, data ≠ [] → ok data.length → s.hostAllowed fn a data.length Want.store = true → s.bad = [] →
    ∃ t, exec (i true data) s = .next t ∧ t.raw [(.phys a, data.length)] = data ∧ t.pkg.hostStatus = 0 ∧
      (∀ x, x ∉ bytesOf [(.phys a, data.length)] → t.byteAt x = s.byteAt x) ∧
      t = { s with mem := t.mem, pkg := { s.pkg with hostStatus := 0 } }
  reads : ∀ data, data ≠ [] → ok data.length → s.hostAllowed fn a data.length Want.load = true →
    s.badIn [(.phys a, data.length)] = [] → ∃ t, exec (i false data) s = .next t ∧ t = { s with pkg := t.pkg } ∧
      t.pkg.hostData = s.raw [(.phys a, data.length)] ∧ t.pkg.hostStatus = 0
  denied : ∀ w data, data ≠ [] → ok data.length →
    s.hostAllowed fn a data.length (if w then Want.store else Want.load) = false ∨
      w = false ∧ s.badIn [(.phys a, data.length)] ≠ [] →
    ∃ t, exec (i w data) s = .next t ∧ t = { s with pkg := t.pkg } ∧ t.pkg.hostStatus = 1 ∧
      (w = false → t.pkg.hostData = [])

end Sys2Proof.Machine
end

