-- ==== Sys2Proof/Certificates/Slice0/Obligations.lean ====
section
/-!
DEFINITION. The statements about this model. Each follows the rules of spec/ that its docstring names.
-/

open Sys2Proof Sys2Proof.Machine


/-! ## Scalar instructions -/

/-- R142, R143: the two-source functions of SALU but for division, in every state and at every register. No flag is set, a
write to s0 is discarded, and nothing else of the machine changes. R145, R146, R147: the forms with an immediate. The
immediate is sign-extended, the amounts of shifts are 0 to 63, and ADDPC's pc is the instruction's address. -/
def Obligations.ScalarIntegerResults : Prop :=
  (Scalar3 .add (fun a b => a + b) ∧ Scalar3 .sub (fun a b => a - b) ∧
   Scalar3 .and (fun a b => a &&& b) ∧ Scalar3 .or (fun a b => a ||| b) ∧ Scalar3 .xor (fun a b => a ^^^ b) ∧
   Scalar3 .sll (fun a b => a <<< (b.toNat % 64)) ∧ Scalar3 .srl (fun a b => a >>> (b.toNat % 64)) ∧
   Scalar3 .sra (fun a b => a.sshiftRight (b.toNat % 64)) ∧
   Scalar3 .slt (fun a b => truth (a.toInt < b.toInt)) ∧ Scalar3 .sltu (fun a b => truth (a.toNat < b.toNat)) ∧
   Scalar3 .min (fun a b => if a.toInt ≤ b.toInt then a else b) ∧
   Scalar3 .max (fun a b => if a.toInt ≤ b.toInt then b else a) ∧
   Scalar3 .minu (fun a b => if a.toNat ≤ b.toNat then a else b) ∧
   Scalar3 .maxu (fun a b => if a.toNat ≤ b.toNat then b else a) ∧
   Scalar3 .mul (fun a b => BitVec.ofInt 64 (a.toInt * b.toInt)) ∧
   Scalar3 .mulh (fun a b => ((a.signExtend 128 * b.signExtend 128) >>> 64).setWidth 64) ∧
   Scalar3 .mulhu (fun a b => ((a.zeroExtend 128 * b.zeroExtend 128) >>> 64).setWidth 64)) ∧
  ((∀ c d a i s, ScalarRuns (.addi c d a i) s c d (s.rd a + i.signExtend 64) 0) ∧
   (∀ c d a i s, ScalarRuns (.andi c d a i) s c d (s.rd a &&& i.signExtend 64) 0) ∧
   (∀ c d a i s, ScalarRuns (.ori c d a i) s c d (s.rd a ||| i.signExtend 64) 0) ∧
   (∀ c d a i s, ScalarRuns (.xori c d a i) s c d (s.rd a ^^^ i.signExtend 64) 0) ∧
   (∀ c d a i s, ScalarRuns (.slti c d a i) s c d (truth ((s.rd a).toInt < i.toInt)) 0) ∧
   (∀ c d a n s, ScalarRuns (.slli c d a n) s c d (BitVec.ofNat 64 ((s.rd a).toNat * 2 ^ n.toNat)) 0) ∧
   (∀ c d a n s, ScalarRuns (.srli c d a n) s c d (BitVec.ofNat 64 ((s.rd a).toNat / 2 ^ n.toNat)) 0) ∧
   (∀ c d a n s, ScalarRuns (.srai c d a n) s c d (BitVec.ofInt 64 ((s.rd a).toInt / 2 ^ n.toNat)) 0) ∧
   (∀ c d i s, ScalarRuns (.ldhi c d i) s c d (BitVec.ofInt 64 (i.toInt * 8192)) 0) ∧
   (∀ c d i s, ScalarRuns (.addpc c d i) s c d (s.h.pc + BitVec.ofInt 64 (i.toInt * 8192)) 0))

/-- R143, R144: quotients round toward zero and the remainder has the sign of its dividend; by zero the quotient is all
ones and the remainder the dividend, and -2^63 by -1 is -2^63 with remainder 0. -/
def Obligations.ScalarDivision : Prop :=
  (∀ c d a b s, ∃ q r, ScalarRuns (.div c d a b) s c d q 0 ∧ ScalarRuns (.rem c d a b) s c d r 0 ∧
    (s.rd b = 0 → q = BitVec.allOnes 64 ∧ r = s.rd a) ∧
    (s.rd b ≠ 0 → ¬(s.rd a = BitVec.intMin 64 ∧ s.rd b = BitVec.allOnes 64) →
      (s.rd a).toInt = q.toInt * (s.rd b).toInt + r.toInt ∧ r.toInt.natAbs < (s.rd b).toInt.natAbs ∧
      (0 < r.toInt → 0 ≤ (s.rd a).toInt) ∧ (r.toInt < 0 → (s.rd a).toInt ≤ 0)) ∧
    (s.rd a = BitVec.intMin 64 → s.rd b = BitVec.allOnes 64 → q = BitVec.intMin 64 ∧ r = 0)) ∧
  (∀ c d a b s, ∃ q r, ScalarRuns (.divu c d a b) s c d q 0 ∧ ScalarRuns (.remu c d a b) s c d r 0 ∧
    (s.rd b = 0 → q = BitVec.allOnes 64 ∧ r = s.rd a) ∧
    (s.rd b ≠ 0 → (s.rd a).toNat = q.toNat * (s.rd b).toNat + r.toNat ∧ r.toNat < (s.rd b).toNat))

/-- R143: CLZ, CTZ and POPC, by what their results count, and SEXT and ZEXT at their three widths. -/
def Obligations.ScalarBitCounts : Prop :=
  Scalar2 .clz IsClz ∧ Scalar2 .ctz IsCtz ∧ Scalar2 .popc IsPopc ∧
  Scalar2 (fun c d a => .sext c d a 0) (fun a r => r = (a.setWidth 8).signExtend 64) ∧
  Scalar2 (fun c d a => .sext c d a 1) (fun a r => r = (a.setWidth 16).signExtend 64) ∧
  Scalar2 (fun c d a => .sext c d a 2) (fun a r => r = (a.setWidth 32).signExtend 64) ∧
  Scalar2 (fun c d a => .zext c d a 0) (fun a r => r.toNat = a.toNat % 2 ^ 8) ∧
  Scalar2 (fun c d a => .zext c d a 1) (fun a r => r.toNat = a.toNat % 2 ^ 16) ∧
  Scalar2 (fun c d a => .zext c d a 2) (fun a r => r.toNat = a.toNat % 2 ^ 32)

/-- R148, R149, R55, R59: the arithmetic of SFP in both formats. The exact result is fitted once in the RM of FCSR, and
the flags are those of reading the sources, of computing and of fitting. R149, R61, R55: comparisons write 1 or 0 with
the flags of comparing; conversions between the widths, to i64 and from i64 and n64; SFMV copies the low bits, zeroes
the rest and raises nothing. -/
def Obligations.ScalarFloatingPoint : Prop :=
  (ScalarFp3 .sfaddF32 .f32 (fun rm x y _ => Machine.Num.add (.float .f32) rm x y) ∧
   ScalarFp3 .sfaddF64 .f64 (fun rm x y _ => Machine.Num.add (.float .f64) rm x y) ∧
   ScalarFp3 .sfsubF32 .f32 (fun rm x y _ => Machine.Num.add (.float .f32) rm x y.neg) ∧
   ScalarFp3 .sfsubF64 .f64 (fun rm x y _ => Machine.Num.add (.float .f64) rm x y.neg) ∧
   ScalarFp3 .sfmulF32 .f32 (fun _ x y _ => x.mul y) ∧ ScalarFp3 .sfmulF64 .f64 (fun _ x y _ => x.mul y) ∧
   ScalarFp3 .sfdivF32 .f32 (fun _ x y _ => x.div y) ∧ ScalarFp3 .sfdivF64 .f64 (fun _ x y _ => x.div y) ∧
   ScalarFp3 .sfminF32 .f32 (fun _ x y _ => (x.min2 y, 0)) ∧ ScalarFp3 .sfminF64 .f64 (fun _ x y _ => (x.min2 y, 0)) ∧
   ScalarFp3 .sfmaxF32 .f32 (fun _ x y _ => (x.max2 y, 0)) ∧ ScalarFp3 .sfmaxF64 .f64 (fun _ x y _ => (x.max2 y, 0)) ∧
   ScalarFp3 .sfmaF32 .f32 (fun rm x y z => let (v, fl) := Machine.Num.add (.float .f32) rm (x.mul y).1 z
     (v, fl ||| (x.mul y).2 ||| z.readNv)) ∧
   ScalarFp3 .sfmaF64 .f64 (fun rm x y z => let (v, fl) := Machine.Num.add (.float .f64) rm (x.mul y).1 z
     (v, fl ||| (x.mul y).2 ||| z.readNv)) ∧
   (∀ c d a s, ScalarRuns (.sfsqrtF32 c d a) s c d (BitVec.ofNat 64 (fitFp .f32 s.rm (sfSrc .f32 s a).sqrt.1).1)
     ((sfSrc .f32 s a).sqrt.2 ||| (sfSrc .f32 s a).readNv ||| (fitFp .f32 s.rm (sfSrc .f32 s a).sqrt.1).2)) ∧
   (∀ c d a s, ScalarRuns (.sfsqrtF64 c d a) s c d (BitVec.ofNat 64 (fitFp .f64 s.rm (sfSrc .f64 s a).sqrt.1).1)
     ((sfSrc .f64 s a).sqrt.2 ||| (sfSrc .f64 s a).readNv ||| (fitFp .f64 s.rm (sfSrc .f64 s a).sqrt.1).2))) ∧
  ((∀ c d a b o s, ScalarRuns (.sfcmpF32 c d a b o) s c d
     (if (Machine.Num.compare (sfCond o) (sfSrc .f32 s a) (sfSrc .f32 s b)).1 then 1 else 0)
     (Machine.Num.compare (sfCond o) (sfSrc .f32 s a) (sfSrc .f32 s b)).2) ∧
   (∀ c d a b o s, ScalarRuns (.sfcmpF64 c d a b o) s c d
     (if (Machine.Num.compare (sfCond o) (sfSrc .f64 s a) (sfSrc .f64 s b)).1 then 1 else 0)
     (Machine.Num.compare (sfCond o) (sfSrc .f64 s a) (sfSrc .f64 s b)).2) ∧
   (sfCond 0 = .eq ∧ sfCond 1 = .lt ∧ sfCond 2 = .le ∧ sfCond 3 = .ne) ∧
   (∀ c d a s, ScalarRuns (.sfcvtF64 c d a 0) s c d (BitVec.ofNat 64 (fitFp .f64 s.rm (sfSrc .f32 s a)).1)
     ((sfSrc .f32 s a).readNv ||| (fitFp .f64 s.rm (sfSrc .f32 s a)).2)) ∧
   (∀ c d a s, ScalarRuns (.sfcvtF32 c d a 0) s c d (BitVec.ofNat 64 (fitFp .f32 s.rm (sfSrc .f64 s a)).1)
     ((sfSrc .f64 s a).readNv ||| (fitFp .f32 s.rm (sfSrc .f64 s a)).2)) ∧
   (∀ c d a s, ScalarRuns (.sfcvtF32 c d a 1) s c d (BitVec.ofNat 64 (fitIntFloat true 64 s.rm (sfSrc .f32 s a)).1)
     ((fitIntFloat true 64 s.rm (sfSrc .f32 s a)).2 ||| (sfSrc .f32 s a).readNv)) ∧
   (∀ c d a s, ScalarRuns (.sfcvtF64 c d a 1) s c d (BitVec.ofNat 64 (fitIntFloat true 64 s.rm (sfSrc .f64 s a)).1)
     ((fitIntFloat true 64 s.rm (sfSrc .f64 s a)).2 ||| (sfSrc .f64 s a).readNv)) ∧
   (∀ c d a s, ScalarRuns (.sfcvtF32 c d a 2) s c d (BitVec.ofNat 64 (fitFp .f32 s.rm (.ofInt (s.rd a).toInt)).1)
     (fitFp .f32 s.rm (.ofInt (s.rd a).toInt)).2) ∧
   (∀ c d a s, ScalarRuns (.sfcvtF64 c d a 2) s c d (BitVec.ofNat 64 (fitFp .f64 s.rm (.ofInt (s.rd a).toInt)).1)
     (fitFp .f64 s.rm (.ofInt (s.rd a).toInt)).2) ∧
   (∀ c d a s, ScalarRuns (.sfcvtF32 c d a 3) s c d (BitVec.ofNat 64 (fitFp .f32 s.rm (.ofInt (s.rd a).toNat)).1)
     (fitFp .f32 s.rm (.ofInt (s.rd a).toNat)).2) ∧
   (∀ c d a s, ScalarRuns (.sfcvtF64 c d a 3) s c d (BitVec.ofNat 64 (fitFp .f64 s.rm (.ofInt (s.rd a).toNat)).1)
     (fitFp .f64 s.rm (.ofInt (s.rd a).toNat)).2) ∧
   (∀ c d a s, ScalarRuns (.sfmvF32 c d a) s c d ((s.rd a).setWidth 32 |>.zeroExtend 64) 0) ∧
   (∀ c d a s, ScalarRuns (.sfmvF64 c d a) s c d (s.rd a) 0))

/-! ## Control flow -/

/-- R152: the six conditional branches: their words, and where each goes, taken and not taken. -/
def Obligations.BranchesGoWhereTheyShould : Prop :=
  BranchOn .beq (fun a b => a = b) ∧ BranchOn .bne (fun a b => a ≠ b) ∧
  BranchOn .blt (fun a b => a.toInt < b.toInt) ∧ BranchOn .bge (fun a b => b.toInt ≤ a.toInt) ∧
  BranchOn .bltu (fun a b => a.toNat < b.toNat) ∧ BranchOn .bgeu (fun a b => b.toNat ≤ a.toNat) ∧
  (∀ c (a b : BitVec 6) (o : BitVec 10), let w (k : BitVec 3) : BitVec 32 := BitVec.ofBool c ++ 14#6 ++ k ++ a ++ b ++ o
    decode (w 0) = .ok (.beq c a b o) ∧ decode (w 1) = .ok (.bne c a b o) ∧ decode (w 2) = .ok (.blt c a b o) ∧
    decode (w 3) = .ok (.bge c a b o) ∧ decode (w 4) = .ok (.bltu c a b o) ∧ decode (w 5) = .ok (.bgeu c a b o))

/-- R153 and R12: JAL and JALR link and jump, JALR reading its source first and clearing bits 1:0 of its target; SUBBNZ
subtracts, writes the difference, and branches while it is not zero, s0 staying zero. -/
def Obligations.JumpsAndCountedBranch : Prop :=
  (∀ c d i s, s.runnable = true → ∃ t, exec (.jal c d i) s = .next t ∧
    ScalarDone s t c d (s.h.pc + 4) 0 (s.h.pc + BitVec.ofInt 64 (4 * i.toInt))) ∧
  (∀ c d a i s, s.runnable = true → ∃ t, exec (.jalr c d a i) s = .next t ∧
    ScalarDone s t c d (s.h.pc + 4) 0 ((s.rd a + i.signExtend 64) &&& ~~~3#64)) ∧
  (∀ c a b o s, s.runnable = true → ∃ t, exec (.subbnz c a b o) s = .next t ∧
    ScalarDone s t c a (s.rd a - s.rd b) 0
      (if s.rd a = s.rd b then s.h.pc + 4 else s.h.pc + BitVec.ofInt 64 (4 * o.toInt)))

/-! ## Memory -/

/-- R310, R311, R315, R286: a translation goes one of the ways that the tables in memory and the cached entries of the
ASID give. The physical address is its leaf's. Of memory it changes the accessed bit, and the dirty bit after a write,
in the 8 bytes of the entry that the leaf was read from, at the table's base and 16 times its level's index; every
other byte is as before. One that fails changes no byte; it may report errors it met. The model's choices: Which
cached entry is used, and when one is dropped, is the model's free choice (log 14). -/
def Obligations.TranslationTouchesOnlyBits : Prop :=
  ∀ s sp user w va r u, s.translate sp user w va = (r, u) →
    (∀ e, r = .error e → u = { s with h := { s.h with checks := u.h.checks }, seq := u.seq }) ∧
    (∀ a, r = .ok a → ∃ x ∈ s.ways sp user w va, x.err = none ∧
      a = bits x.leaf.word0 16 40 * 65536 + va % 2 ^ pageLog x.leaf.word0 ∧ WentThrough s u w x.leaf) ∧
    (∀ x ∈ s.ways sp user w va,
      (∃ y ∈ s.spacesFor sp, x ∈ s.walk ((s.tlbOf sp.asid).filter (·.unit == .walk)) y.asid user w va 6 0 y.ptroot.toNat []) ∨
      x.leaf ∈ s.tlbOf sp.asid ∧ covers x.leaf va = true) ∧
    (∀ asid level table, (s.readPte asid level va table).pte =
      table + 16 * bits va (levelShift level) (if level = 0 then 4 else 12))

/-- R150, R72 to R74: SLD of each width reads the little-endian bytes at its place and extends them; the places are those
that the checks and the translation of its access give, and no byte changes but the bits a translation sets. R77,
R150: an SLD through a weak slot whose object is gone writes 0 and sets HSTAT.GONE. R155: CBLD fills constant-bank
words from the bytes of its place, and writes no other, and ends the convoy. A run past c63 is illegal. The model's
choices: An error in a loaded word is left out here (log 22). -/
def Obligations.LoadsReadTheirPlaces : Prop :=
  (∀ c d h a w i s l u, s.runnable = true → w.toNat < 7 →
     (s.noteCv c).one h .sld false ((s.rd a).toInt + i.toNat * widthBytes w) (widthBytes w) = (.runs l, u) → u.badIn l = [] →
     ∃ t, exec (.sld c d h a w i) s = .next t ∧ Translated (s.noteCv c) u ∧
       AccessDone s t c d (if w.toNat < 4 then (BitVec.ofNat (8 * widthBytes w) (leNat (u.raw l))).signExtend 64
         else BitVec.ofNat 64 (leNat (u.raw l))) 0 ∧
       (∀ x, t.byteAt x = u.byteAt x)) ∧
  (∀ c d h a w i s u, s.runnable = true →
     (s.noteCv c).one h .sld false ((s.rd a).toInt + i.toNat * widthBytes w) (widthBytes w) = (.gone, u) →
     ∃ t, exec (.sld c d h a w i) s = .next t ∧ t.rd d = 0 ∧ t.h.gone = true ∧ t.h.pc = s.h.pc + 4 ∧
       (∀ r, r ≠ d → t.rd r = s.rd r) ∧ (∀ x, t.byteAt x = s.byteAt x)) ∧
  ((∀ c d a k h s l u, d.toNat + k.toNat + 1 ≤ 64 → s.runnable = true →
     (s.noteCv c).one h .cbld false (s.rd a).toInt (8 * (k.toNat + 1)) = (.runs l, u) → u.badIn l = [] →
     ∃ t, exec (.cbld c d a k h) s = .next t ∧ Translated (s.noteCv c) u ∧
       (∀ i ≤ k.toNat, t.h.c.get 0 (d.toNat + i) = BitVec.ofNat 64 (leNat (((u.raw l).drop (8 * i)).take 8))) ∧
       (∀ i, (i < d.toNat ∨ d.toNat + k.toNat < i) → t.h.c.get 0 i = s.h.c.get 0 i) ∧
       t.h = { s.h with c := t.h.c, pc := s.h.pc + 4, convoy := [], checks := u.h.checks } ∧
       (∀ x, t.byteAt x = u.byteAt x)) ∧
   (∀ c d a k h s, 64 < d.toNat + k.toNat + 1 → IllegalAt (.cbld c d a k h) c s 4))

/-- R150, R368: SST stores the low bytes of its source at the places its access gives, and every other byte is as the
translation leaves it. R151, R113: the eight SAMO functions, of four and of eight bytes. An AND that clears KEEP of a
live handle entry has one more effect (R322) and is left to the model's own definition. -/
def Obligations.StoresAndAtomics : Prop :=
  (∀ c d h a w i s l u, s.runnable = true → w.toNat < 7 →
     (s.noteCv c).one h .store false ((s.rd a).toInt + i.toNat * widthBytes w) (widthBytes w) = (.runs l, u) → u.badIn l = [] →
     ∃ t, exec (.sst c d h a w i) s = .next t ∧ Translated (s.noteCv c) u ∧ AccessDone s t c 0 0 0 ∧
       Stored u t l (widthBytes w) ((s.rd d).toNat % 2 ^ (8 * widthBytes w))) ∧
  (∀ c d h x w q r sc s,
     SamoRuns .add (.samoAdd c d h x w q r sc) c d h x w s ∧ SamoRuns .addsat (.samoAddsat c d h x w q r sc) c d h x w s ∧
     SamoRuns .min (.samoMin c d h x w q r sc) c d h x w s ∧ SamoRuns .max (.samoMax c d h x w q r sc) c d h x w s ∧
     SamoRuns .and (.samoAnd c d h x w q r sc) c d h x w s ∧ SamoRuns .or (.samoOr c d h x w q r sc) c d h x w s ∧
     SamoRuns .xor (.samoXor c d h x w q r sc) c d h x w s ∧ SamoRuns .swap (.samoSwap c d h x w q r sc) c d h x w s)

/-! ## State registers and fences -/

/-- R162, R159, R163, R140: RDSR writes the register's value and changes nothing else. R159 to R162, R21, R56, R285, R286:
what WRSR, SETSR and CLRSR leave in every writable register: only the fields that accept writes change. SETSR and
CLRSR give the old value. R285: a write of PARTCFG takes AGE, the quantum unless it is 0, and the cluster and hart
fields, and reads back with CMD 0 and the partition's own number; without a command nothing else happens. The model's
choices: That a write waits in place for the hart's transfers is the model's form of the wait (log 10). -/
def Obligations.StateRegisterAccess : Prop :=
  (∀ c d r s, SrReady s false r → ScalarRuns (.rdsr c d r) s c d (s.sr r) 0) ∧
  ((∀ c a r s, srWritable r = true → r ≠ 75 → SrReady s true r →
     ∃ t, exec (.wrsr c a r) s = .next t ∧ SrWritten s t none r (s.rd a)) ∧
   (∀ c d a r s, srWritable r = true → r ≠ 75 → SrReady s true r →
     ∃ t, exec (.setsr c d a r) s = .next t ∧ SrWritten s t (some d) r (s.sr r ||| s.rd a)) ∧
   (∀ c d a r s, srWritable r = true → r ≠ 75 → SrReady s true r →
     ∃ t, exec (.clrsr c d a r) s = .next t ∧ SrWritten s t (some d) r (s.sr r &&& ~~~s.rd a))) ∧
  (∀ c a s, SrReady s true 75 → bits (s.rd a).toNat 37 2 = 0 → s.cur < 3072 →
     ∃ t, exec (.wrsr c a 75) s = .next t ∧ t.h.pc = s.h.pc + 4 ∧
       (t.sr 75).toNat = bits (s.rd a).toNat 39 25 * 2 ^ 39 +
         (if bits (s.rd a).toNat 16 16 = 0 then bits (s.sr 75).toNat 16 16 else bits (s.rd a).toNat 16 16) * 2 ^ 16 +
         bits (s.rd a).toNat 12 4 * 2 ^ 12 + s.cur / 384 ∧
       (∀ e, t.rd e = s.rd e) ∧ (∀ l, t.byteAt l = s.byteAt l) ∧ t.harts = s.harts ∧ t.clusters = s.clusters)

/-- R164, R104: the fences complete and change nothing; those that order the vector agent's accesses wait for the hart's
transfers, during which the hart stays where it is. R168, R169: TLBINV and HTINV at supervisor level drop the cached
entries that their scope names, and no others, and leave everything else as it is. R171: WFI at supervisor level
completes at once where an interrupt is pending, and else parks past itself. The model's choices: Fences do not order
anything more in a model of one core (log 6), and waiting is staying in place (log 10). That a page's TLBINV also
drops the walk entries on its path is the model's (log 14). -/
def Obligations.FencesInvalidationsAndWfi : Prop :=
  (∀ c sc s, s.runnable = true →
     exec (.fenceSv c sc) s = .next (s.goes c (s.h.pc + 4)) ∧
     (s.h.xfers = [] → exec (.fenceVs c sc) s = .next (s.goes c (s.h.pc + 4)) ∧
       exec (.fenceVv c sc) s = .next (s.goes c (s.h.pc + 4)) ∧ exec (.fenceAll c sc) s = .next (s.goes c (s.h.pc + 4))) ∧
     (s.h.xfers ≠ [] → exec (.fenceVs c sc) s = .next (s.goes c s.h.pc) ∧
       exec (.fenceVv c sc) s = .next (s.goes c s.h.pc) ∧ exec (.fenceAll c sc) s = .next (s.goes c s.h.pc))) ∧
  ((∀ c d a k s, s.runnable = true → s.h.sup = true → s.h.xfers = [] →
     ∃ t, exec (.tlbinv c d a k) s = .next t ∧
       (∀ x, x ∈ (t.part s.partNo).tlb ↔ x ∈ (s.part s.partNo).tlb ∧
         ¬(k = 0 ∨ (k = 1 ∧ x.asid = (s.rd d).setWidth 14) ∨
           (k = 2 ∧ State.onPath ((s.rd d).setWidth 14) (s.rd a) x = true))) ∧
       (∀ p, t.part p = { s.part p with tlb := (t.part p).tlb }) ∧ (∀ p, p ≠ s.partNo → t.part p = s.part p) ∧
       t = { s.goes c (s.h.pc + 4) with parts := t.parts }) ∧
   (∀ c d a k s, s.runnable = true → s.h.sup = true → s.h.xfers = [] →
     ∃ t, exec (.htinv c d a k) s = .next t ∧
       (∀ x, x ∈ (t.part s.partNo).handles ↔ x ∈ (s.part s.partNo).handles ∧
         ¬(x.asid = (s.rd d).setWidth 14 ∧ (k = 0 ∨ x.ert = false ∧ x.index = (s.rd a).setWidth 24))) ∧
       (∀ p, t.part p = { s.part p with handles := (t.part p).handles }) ∧ (∀ p, p ≠ s.partNo → t.part p = s.part p) ∧
       t = { s.goes c (s.h.pc + 4) with parts := t.parts })) ∧
  (∀ c s, s.runnable = true → s.h.sup = true →
     (s.h.intr ≠ [] → exec (.wfi c) s = .next (s.goes c (s.h.pc + 4))) ∧
     (s.h.intr = [] → ∃ t, exec (.wfi c) s = .next t ∧ t.h.park = some .wfi ∧
       t = { s.goes c (s.h.pc + 4) with h := { (s.goes c (s.h.pc + 4)).h with park := some .wfi } }))

/-! ## Traps -/

/-- R140, R138, R283: at user level every privileged instruction raises illegal-instruction with sub-cause 3, SVAL holding
the sub-cause and the word; it has no other effect than that trap's. -/
def Obligations.PrivilegedTrapsAtUserLevel : Prop :=
  ∀ c d a h r s i, i ∈ privilegedForms c d a h r → s.h.sup = false → IllegalAt i c s 3

/-- R283, R285, R284: an entry to the supervisor from supervisor level writes SCAUSE, SVAL and the pc, and no frame. From
user level it writes a frame of kind 1 at SFRAME that holds the pc to return to, and where that frame cannot be
written it enters with code 11 and no frame (R320). R376: a trap to the supervisor while STVEC reads 0 ends the hart
and logs it. The model's choices: That the entry ends the convoy is the model's choice: the rules name no trap that
does (log 47). -/
def Obligations.SupervisorEntry : Prop :=
  (∀ (s : State) int code val pc e, s.h.stvec ≠ 0 →
     (s.h.sup = true → SupEntered s (s.supTrap int code val pc e) int true code val ∧
       (s.supTrap int code val pc e).h.xfers = s.h.xfers) ∧
     (s.h.sup = false → ∀ u r, s.writeFrame 1 s.h.sframe pc e = (.ok u, r) →
       FrameMade s u 1 pc ∧ SupEntered u (s.supTrap int code val pc e) int false code val ∧
       (s.supTrap int code val pc e).h.xfers = []) ∧
     (s.h.sup = false → ∀ page u, s.writeFrame 1 s.h.sframe pc e = (.error page, u) →
       SupEntered u (s.supTrap int code val pc e) false true 11 page)) ∧
  (∀ (s : State) int code val pc e, s.h.stvec = 0 →
     ∃ t, s.supTrap int code val pc e = t ∧ (t.hart s.cur).life = .free ∧ t.pkg.msi = s.pkg.msi + 1 ∧
       (t.part s.partNo).logHead = (s.part s.partNo).logHead + 1 ∧
       ∃ r l, (t.part s.partNo).log = r :: l ∧ r.source = 9 ∧ r.kind = 2 ∧ r.extra = val ∧
         r.hid = (s.hidOf s.cur).zeroExtend 32)

/-- R318, R320: a user-level trap of a hart at user level whose UTVEC is set and whose UCAUSE is not BUSY writes a frame
of kind 0 at UFRAME and enters UTVEC; at supervisor level, with UTVEC 0 and while BUSY the supervisor takes it. The
model's choices: That the entry ends the convoy is the model's choice: the rules name no trap that does (log 47). -/
def Obligations.UserTrapEntry : Prop :=
  ∀ (s : State) vec code val pc e,
    (s.h.sup = false → s.h.utvec ≠ 0 → s.h.ucause.getLsbD 63 = false →
      (∀ u r, s.writeFrame 0 s.h.uframe pc e = (.ok u, r) →
        FrameMade s u 0 pc ∧ UserEntered u (s.userTrap vec code val pc e) vec code val) ∧
      (∀ page u, s.writeFrame 0 s.h.uframe pc e = (.error page, u) →
        s.userTrap vec code val pc e = u.supTrap false 11 page pc e)) ∧
    (s.h.sup = true ∨ s.h.utvec = 0 ∨ s.h.ucause.getLsbD 63 = true →
      s.userTrap vec code val pc e = s.supTrap false code val pc e)

/-- R165: ECALL and EBREAK enter the supervisor with causes 2 and 3; the pc saved is the next instruction's for ECALL and
its own for EBREAK, and SVAL is 0 and the instruction's word. The model's choices: That the entry ends the convoy is
the model's choice: the rules name no trap that does (log 47). -/
def Obligations.CallsEnterTheSupervisor : Prop :=
  ∀ c s, s.runnable = true → s.h.stvec ≠ 0 →
    exec (.ecall c) s = .next ((s.noteCv c).supTrap false 2 0 (s.h.pc + 4) s.h.startOf) ∧
    exec (.ebreak c) s = .next ((s.noteCv c).supTrap false 3 ((encode (.ebreak c)).zeroExtend 64) s.h.pc s.h.startOf) ∧
    (s.h.sup = true → ∃ t, exec (.ecall c) s = .next t ∧ SupEntered s t false true 2 0) ∧
    (s.h.sup = true → ∃ t, exec (.ebreak c) s = .next t ∧
      SupEntered s t false true 3 (BitVec.ofNat 64 (encode (.ebreak c)).toNat)) ∧
    (s.h.sup = false → ∀ u r, (s.noteCv c).writeFrame 1 s.h.sframe (s.h.pc + 4) s.h.startOf = (.ok u, r) →
      ∃ t, exec (.ecall c) s = .next t ∧ SupEntered u t false false 2 0) ∧
    (s.h.sup = false → ∀ u r, (s.noteCv c).writeFrame 1 s.h.sframe s.h.pc s.h.startOf = (.ok u, r) →
      ∃ t, exec (.ebreak c) s = .next t ∧ SupEntered u t false false 3 (BitVec.ofNat 64 (encode (.ebreak c)).toNat))

/-- R166, R288, R377: URET restores what a frame of kind 0 holds: the pc, ESTART, the queued instructions, the transfers
it stopped and the lane state, or under another width what that leaves of it; and it clears BUSY. R167, R283, R288,
R291: SRET, once the hart's transfers and the frame's are no more than 8, returns to user level at the saved pc with
the queued instructions and the transfers of its frame; a frame of kind 1 gives s56 to s63 back and leaves every other
scalar register and the lane state alone, and one of kind 3 gives the lane state back as for URET. The model's
choices: That a return ends the convoy (log 47), how it takes up the frame's transfers and their permits (log 46) and
an instruction that is being resumed (log 9), how it grants lanes anew (log 24), that SRET waits for the hart's own
transfers rather than pass eight (log 46), and that SRET of a frame of kind 3 restores the park (log 35) are the
model's choices. -/
def Obligations.ReturnsRestore : Prop :=
  (∀ c s f u, s.runnable = true → s.h.xfers = [] →
     (s.noteCv c).readFrame [0] (!s.h.sup) s.h.uframe = (.good f, u) → f.kind = 0 →
     ∃ t, exec (.uret c) s = .next t ∧ Resumes u t f ∧ LanesFrom u t f ∧
       (f.pw = u.pw → t.h.estart = f.estart ∧ t.h.resuming = f.resuming) ∧
       t.h.ucause = u.h.ucause &&& 0x7FFFFFFFFFFFFFFF ∧ t.h.s = u.h.s ∧ t.h.sup = u.h.sup) ∧
  (∀ c s f u, s.runnable = true → s.h.sup = true → (s.noteCv c).readFrame [1, 3] false s.h.sframe = (.good f, u) →
     f.kind = 1 ∨ f.kind = 3 →
     (8 < s.h.xfers.length + f.xfers.length → exec (.sret c) s = .next (s.noteCv c)) ∧
     (s.h.xfers.length + f.xfers.length ≤ 8 → ∃ t, exec (.sret c) s = .next t ∧ Resumes u t f ∧ t.h.sup = false ∧ t.h.park = f.park ∧ t.h.ucause = u.h.ucause ∧
       (f.kind = 1 → (∀ i : BitVec 6, 56 ≤ i.toNat → t.rd i = f.scr.getD (i.toNat - 56) 0) ∧
         (∀ i : BitVec 6, i.toNat < 56 → t.rd i = u.rd i) ∧ t.h.lanes = u.h.lanes ∧ t.h.estart = f.estart) ∧
       (f.kind = 3 → t.h.s = u.h.s ∧ LanesFrom u t f ∧ (f.pw = u.pw → t.h.estart = f.estart))))

/-- R170, R288 to R290: VFSAVE stores a frame of kind 2 at its slot's place: the bytes there are the frame's, with its
header and the seal of the hart's key, and it holds the lane state. VFRESTORE installs the lane state of a good frame
of kind 2 or 3. The model's choices: What a sealed frame's bytes are is free (log 8). That VFSAVE and VFRESTORE end
the convoy (log 47) and how VFRESTORE grants lanes anew (log 24) are the model's choices. -/
def Obligations.VectorFramesSavedAndRestored : Prop :=
  (∀ c a h s l u, s.runnable = true → s.h.sup = true →
    let v := s.noteCv c
    let size := (v.makeFrame 2 s.h.pc 0).1
    let b := (v.makeFrame 2 s.h.pc 0).2.1
    v.one h .frame true (s.rd a).toNat size = (.runs l, u) → u.badIn l = [] →
    FrameBytes s b 2 size s.h.pc 0 ∧
    ∃ t, exec (.vfsave c a h) s = .next t ∧ t.h = { s.h with pc := s.h.pc + 4, convoy := [], checks := t.h.checks } ∧
      (s.bad = [] → t.h.checks = s.h.checks) ∧
      (∃ f, t.pkg.frames = f :: s.pkg.frames ∧ f.kind = 2 ∧ f.key = s.h.key ∧ f.lanes = s.h.lanes ∧ f.pw = s.pw ∧
        f.sealed = (b.drop 32).take 16) ∧
      ((bytesOf l).Nodup → (bytesOf l).length = size → t.raw l = b) ∧
      (∀ x, x ∉ bytesOf l → t.byteAt x = u.byteAt x)) ∧
  (∀ c a h s l u l' u' f, s.runnable = true → s.h.sup = true → s.h.xfers = [] →
    (s.noteCv c).one h .frameIn true (s.rd a).toNat 1024 = (.runs l, u) →
    (u.pkg.frames.any fun f => decide (f.key = u.h.key) && decide (f.sealed = ((u.raw l).drop 32).take 16)) = true →
    u.one h .frameIn true (s.rd a).toNat (leNat (((u.raw l).drop 4).take 4)) = (.runs l', u') → u'.badIn l' = [] →
    u'.goodFrame [2, 3] (u'.raw l') = some f →
    ∃ t, exec (.vfrestore c a h) s = .next t ∧ LanesFrom u' t f ∧ t.h.pc = s.h.pc + 4 ∧ t.h.convoy = [] ∧ t.h.s = s.h.s ∧
      t.h.c = s.h.c ∧ t.h.slots = s.h.slots ∧ t.h.xfers = s.h.xfers ∧ (∀ x, t.byteAt x = u'.byteAt x))

/-! ## Configuration -/

/-- R15, R29, R44, R154: VCFG sets the number of registers, gives each a tag with its bits and stack cleared, and empties
the grant; VTAG changes one tag alone. Both end the convoy. An undefined tag is illegal. R19, R18: PART, once no hart
of the cluster has a transfer in flight, sets the width, empties the grant and blanks the vector registers of the
hart, and touches no other cluster's width and no byte of memory. While one has, the hart waits, and no other of the
cluster issues. The model's choices: That PART waits in place, and stops the cluster's other harts while it stands
there, is the model's form of the wait (log 10). -/
def Obligations.ConfigurationTagsAndWidth : Prop :=
  ((∀ c n tag s, (tyOf tag).isSome → s.runnable = true → ∃ t, exec (.vcfg c n tag) s = .next t ∧
     t.nreg = 8 * 2 ^ n.toNat ∧ (∀ r < 8 * 2 ^ n.toNat, t.vreg r = { VReg.reset with tag := tag }) ∧
     t.h.vlr = 0 ∧ t.h.vlc = 0 ∧ bits t.h.vtype.toNat 0 8 = bits s.h.vtype.toNat 0 8 ∧ t.h.convoy = [] ∧
     t.h.pc = s.h.pc + 4 ∧ t.h.s = s.h.s ∧ t.h.m = s.h.m ∧ t.h.c = s.h.c ∧ t.h.fcsr = s.h.fcsr ∧
     t.h.lg = s.grantLanes ∧ t.h.groups = (s.openGroups s.clNo s.h.slot).take (s.grantLanes / 4) ∧ t.harts = s.harts ∧ (∀ l, t.byteAt l = s.byteAt l)) ∧
   (∀ c n tag s, (tyOf tag).isNone → IllegalAt (.vcfg c n tag) c s 5) ∧
   (∀ c d tag s, d.toNat < s.nreg → (tyOf tag).isSome → s.runnable = true → ∃ t, exec (.vtag c d tag) s = .next t ∧
     t.vreg d.toNat = { s.vreg d.toNat with tag := tag } ∧ (∀ r, r ≠ d.toNat → t.vreg r = s.vreg r) ∧
     t = { s with h := { s.h with v := t.h.v, pc := s.h.pc + 4, convoy := [] } }) ∧
   (∀ c d tag s, s.nreg ≤ d.toNat → IllegalAt (.vtag c d tag) c s 4)) ∧
  (∀ c n s, s.runnable = true →
     ((s.noteCv c).clusterBusy = false → ∃ t, exec (.part c n) s = .next t ∧ (t.clu s.clNo).pw = BitVec.ofNat 2 n.toNat.log2 ∧
       t.h.vlr = 0 ∧ t.h.vlc = 0 ∧ t.h.v = blankAll s.h.v ∧ t.h.pc = s.h.pc + 4 ∧ t.h.s = s.h.s ∧ t.h.m = s.h.m ∧
       t.h.convoy = [] ∧ (t.clu s.clNo).parting = none ∧ (∀ k, k ≠ s.clNo → t.clu k = s.clu k) ∧ (∀ l, t.byteAt l = s.byteAt l)) ∧
     ((s.noteCv c).clusterBusy = true → exec (.part c n) s = .next ((s.goes c s.h.pc).modClu s.clNo fun x => { x with parting := some (s.cur, s.h.pc) })))

/-- R29, R16, R296: VSETVL grants rows and columns that its request and the capacity admit, writes both to VLR and VLC and
to two scalars, and ends the convoy. A hart in no gang is granted alike by VSETVLG. The last register has no second
scalar. R27: in a gang VSETVLG's first grant of a phase fixes rows, columns and lanes for the phase; a later one is
bounded by them, and parks where it would receive fewer lanes than the first and that alone makes its grant smaller.
The model's choices: How many lanes the occupancy manager grants, and which of the slot's groups not under repair, is
the model's rule (log 24, log 49). -/
def Obligations.GrantsFollowTheirRule : Prop :=
  ((∀ c d a b s, d ≠ 63 → s.runnable = true → ∃ t, exec (.vsetvl c d a b) s = .next t ∧ Granted s t d s.grantLanes ∧
     IsGrant (s.ecap s.grantLanes) (s.rd a).toNat (s.rd b).toNat t.h.vlr t.h.vlc) ∧
   (∀ c d a b s, d ≠ 63 → s.runnable = true → s.h.gang = 0 → ∃ t, exec (.vsetvlg c d a b) s = .next t ∧
     Granted s t d s.grantLanes ∧ IsGrant (s.ecap s.grantLanes) (s.rd a).toNat (s.rd b).toNat t.h.vlr t.h.vlc) ∧
   (∀ c a b s, IllegalAt (.vsetvl c 63 a b) c s 4 ∧ IllegalAt (.vsetvlg c 63 a b) c s 4)) ∧
  (∀ c d a b s, d ≠ 63 → s.runnable = true → s.h.gang ≠ 0 →
     let x := s.gangOf s.clNo s.h.gang
     let full := min x.lfix s.lanes
     let g (e : Nat) := laterGrant e x.grow.toNat x.gcol.toNat (s.rd a).toNat (s.rd b).toNat
     let parks := s.grantLanes < full ∧
       ((g (s.ecap s.grantLanes)).1 < (g (s.ecap full)).1 ∨ (g (s.ecap s.grantLanes)).2 < (g (s.ecap full)).2)
     (x.gfix = false → ∃ t, exec (.vsetvlg c d a b) s = .next t ∧ Granted s t d s.grantLanes ∧
       IsGrant (s.ecap s.grantLanes) (s.rd a).toNat (s.rd b).toNat t.h.vlr t.h.vlc ∧
       (t.gangOf s.clNo s.h.gang).gfix = true ∧ (t.gangOf s.clNo s.h.gang).lfix = s.grantLanes ∧
       (t.gangOf s.clNo s.h.gang).grow = BitVec.ofNat 21 t.h.vlr ∧ (t.gangOf s.clNo s.h.gang).gcol = BitVec.ofNat 21 t.h.vlc) ∧
     (x.gfix = true → ¬parks → ∃ t, exec (.vsetvlg c d a b) s = .next t ∧ Granted s t d s.grantLanes ∧
       IsLaterGrant (s.ecap s.grantLanes) x.grow.toNat x.gcol.toNat (s.rd a).toNat (s.rd b).toNat t.h.vlr t.h.vlc) ∧
     (x.gfix = true → parks → ∃ t, exec (.vsetvlg c d a b) s = .next t ∧
       t = { s with h := { s.h with park := some (.grant d (s.rd a).toNat (s.rd b).toNat s.cycles), pc := s.h.pc + 4,
                                    convoy := [] } }))

/-! ## Harts and gangs -/

/-- R23, R21: HSPAWN answers all ones where no context of the cluster is free. Otherwise a free context of the cluster
becomes a hart with the registers R23 gives it, the vector registers zero under its parent's tags, and the next
generation, active or standby, and s(d) receives its id. The model's choices: Which free context it takes is a free
choice (log 23). -/
def Obligations.SpawnMakesAHart : Prop :=
  ∀ c d a o s, s.runnable = true →
    (s.freeCtxs = [] → ScalarRuns (.hspawn c d a o) s c d (BitVec.allOnes 64) 0) ∧
    (s.freeCtxs ≠ [] → (Eng.bpe ((s.noteCv c).pick s.freeCtxs.length).2 (copySlots s.h.slots)).1.isSome →
      ∃ t k, exec (.hspawn c d a o) s = .next t ∧ k ∈ s.freeCtxs ∧
        Spawned s.h (t.hart k) (s.h.pc + BitVec.ofInt 64 (4 * o.toInt)) (s.rd a) ∧
        ((t.hart k).life = .active ∨ (t.hart k).life = .standby) ∧ (t.hart k).hgen = (s.hart k).hgen + 1 ∧
        t.rd d = (if d = 0 then 0 else (t.hidOf k).zeroExtend 64) ∧ t.h.pc = s.h.pc + 4 ∧
        (∀ r, r ≠ d → t.rd r = s.rd r))

/-- R24, R22: HEXIT frees the context, whose generation stays; HWAIT goes on where its hart has ended and parks otherwise;
YIELD goes on, and with a hart waiting leaves its slot to the first of the queue. The model's choices: That HEXIT
waits in place for transfers (log 10), and that the head of the queue takes the lowest-numbered slot that suffices it
(log 48), are the model's choices. -/
def Obligations.HartsEndWaitAndYield : Prop :=
  (∀ c s, s.runnable = true → s.h.xfers = [] → ∃ t, exec (.hexit c) s = .next t ∧ t = (s.noteCv c).endHart s.cur ∧
    (t.hart s.cur).life = .free ∧ (t.hart s.cur).hgen = s.h.hgen) ∧
  (∀ c a s, s.runnable = true →
    let k := 16 * s.clNo + ((s.rd a).extractLsb' 0 4).toNat
    let ended := (s.hart k).life = .free ∨ (s.hart k).hgen ≠ (s.rd a).extractLsb' 4 16
    (ended → exec (.hwait c a) s = .next (s.goes c (s.h.pc + 4))) ∧
    (¬ended → exec (.hwait c a) s = .next { s.goes c (s.h.pc + 4) with
      h := { (s.goes c (s.h.pc + 4)).h with park := some (.hwait ((s.rd a).setWidth 20)) } })) ∧
  (∀ c s, s.runnable = true → (s.clu s.clNo).ready = [] → exec (.yield c) s = .next (s.goes c (s.h.pc + 4))) ∧
  (∀ c s k q n, s.runnable = true → (s.clu s.clNo).ready = k :: q → k ∉ q → k ≠ s.cur →
    (s.mod fun h => { h with life := .standby }).freeSlot s.clNo k = some n →
    ∃ t, exec (.yield c) s = .next t ∧ (t.hart k).life = .active ∧ (t.hart k).slot = n ∧
      t.h.pc = s.h.pc + 4 ∧ t.h.s = s.h.s ∧ (∀ l, t.byteAt l = s.byteAt l))

/-- R25, R26: GANG moves the hart to a gang and counts it there, and a number above 7 is illegal; GBAR outside a gang goes
on, parks a member that is not the last to arrive, and with the last wakes every member and moves the phase on. -/
def Obligations.GangsAndBarriers : Prop :=
  (∀ c a s, (s.rd a).toNat ≤ 7 → s.runnable = true → ∃ t, exec (.gang c a) s = .next t ∧
    t.h.gang = (s.rd a).setWidth 3 ∧ t.h.pc = s.h.pc + 4 ∧ t.h.s = s.h.s ∧ t.h.v = s.h.v ∧
    (s.h.gang = 0 → t.h.gang ≠ 0 →
      (t.gangOf s.clNo t.h.gang).members = (s.gangOf s.clNo t.h.gang).members + 1) ∧
    (∀ l, t.byteAt l = s.byteAt l)) ∧
  (∀ c a s, 7 < (s.rd a).toNat → IllegalAt (.gang c a) c s 10) ∧
  (∀ c s, s.runnable = true → s.h.xfers = [] → s.h.gang = 0 → exec (.gbar c) s = .next (s.goes c (s.h.pc + 4))) ∧
  (∀ c s, s.runnable = true → s.h.xfers = [] → s.h.gang ≠ 0 → ∃ t, exec (.gbar c) s = .next t ∧ t.h.pc = s.h.pc + 4 ∧
    (let x := s.gangOf s.clNo s.h.gang
     let y := t.gangOf s.clNo s.h.gang
     (x.arrived + 1 ≠ x.members → t.h.park = some .gbar ∧ y.arrived = x.arrived + 1) ∧
     (x.arrived + 1 = x.members → t.h.park = none ∧ y.arrived = 0 ∧ y.phase = x.phase + 1 ∧ y.gfix = false ∧
       ∀ k, k ≠ s.cur → (t.hart k).park =
         if k ∈ State.ctxsOf s.clNo ∧ (s.hart k).life ≠ .free ∧ (s.hart k).gang = s.h.gang ∧ (s.hart k).park = some .gbar then none
         else (s.hart k).park)) ∧
    (∀ l, t.byteAt l = s.byteAt l))

/-! ## The request heap -/

/-- R157, R306, R308: LSPOP answers all ones where no request qualifies. Otherwise the request it returns qualifies, none
that qualifies comes before it, it is in state 3 after, its cost leaves the budget, and s(d) names it. R158: LSPUSH of
a request in state 3 gives its cost back, up to the budget's 32 bits, and makes it eligible again, or cancelled where
a cancel is pending; of any other it is illegal. -/
def Obligations.RequestsPoppedAndPushed : Prop :=
  (∀ c d a s, s.runnable = true →
     (s.qualified (s.rd a).toNat = [] → ScalarRuns (.lspop c d a) s c d (BitVec.allOnes 64) 0) ∧
     (s.qualified (s.rd a).toNat ≠ [] → ∃ t x, exec (.lspop c d a) s = .next t ∧ x ∈ s.qualified (s.rd a).toNat ∧
       (∀ y ∈ s.qualified (s.rd a).toNat, s.before y x = false) ∧
       t.rd d = (if d = 0 then 0 else BitVec.ofNat 64 (x.index.toNat * 2 ^ 32 + x.cost.toNat)) ∧
       (∀ r, r ≠ d → t.rd r = s.rd r) ∧ t.h.pc = s.h.pc + 4 ∧
       (t.part s.partNo).lsbudget = (s.part s.partNo).lsbudget - x.cost.zeroExtend 64 ∧
       (∃ y ∈ (t.part s.partNo).requests, y.index = x.index ∧ y.state = 3))) ∧
  ((∀ c a s x, s.runnable = true → s.h.xfers = [] → s.request ((s.rd a).extractLsb' 32 16) = some x → x.state = 3 →
     ∃ t, exec (.lspush c a) s = .next t ∧ t.h.pc = s.h.pc + 4 ∧ (∀ r, t.rd r = s.rd r) ∧
       (t.part s.partNo).lsbudget.toNat = min (2 ^ 32 - 1) ((s.part s.partNo).lsbudget.toNat + x.cost.toNat) ∧
       (∃ y ∈ (t.part s.partNo).requests, y.index = x.index ∧ y.state = (if x.cancel then 4 else 2))) ∧
   (∀ c a s, (∀ x, s.request ((s.rd a).extractLsb' 32 16) = some x → x.state ≠ 3) → IllegalAt (.lspush c a) c s 10))

/-! ## Writing vector results -/

/-- R48, R55, R39: answers written into a register, for every tag that is not block-scaled. Each element answered holds
its answer's bits, fitted once where it is a value, and every other element is as before. R48, R49: with a
block-scaled tag, answers change no block but those of the elements answered, and a block in which some other element
is not zero keeps its scale and its other elements. -/
def Obligations.AnswersAndBlocks : Prop :=
  (∀ (t : Ty) (rm : RM) (fit : Machine.Num → Nat × Flags) (r : Nat) (l : List (Nat × Ans)), t.isQ = false → (l.map (·.1)).Nodup →
     (∀ x ∈ l, t.get (writeAns t rm fit r l).1 x.1 =
       (match x.2 with | .val v _ => (fit v).1 | .raw b _ => b) % 2 ^ t.width) ∧
     (∀ i, i ∉ l.map (·.1) → t.get (writeAns t rm fit r l).1 i = t.get r i)) ∧
  (∀ (w : Nat) (rm : RM) (fit : Machine.Num → Nat × Flags) (r : Nat) (l : List (Nat × Ans)), 0 < w → (l.map (·.1)).Nodup →
     (∀ x ∈ l, ∃ v f, x.2 = .val v f) →
     (∀ i, i / 64 ∉ l.map (fun x => x.1 / 64) →
       (Ty.q w).get (writeAns (.q w) rm fit r l).1 i = (Ty.q w).get r i ∧
       (Ty.q w).scaleE (writeAns (.q w) rm fit r l).1 i = (Ty.q w).scaleE r i) ∧
     (∀ b, (∃ j < 64, 64 * b + j ∉ l.map (·.1) ∧ (Ty.q w).get r (64 * b + j) ≠ 0) →
       (Ty.q w).scaleE (writeAns (.q w) rm fit r l).1 (64 * b) = (Ty.q w).scaleE r (64 * b) ∧
       (∀ j < 64, 64 * b + j ∉ l.map (·.1) →
         (Ty.q w).get (writeAns (.q w) rm fit r l).1 (64 * b + j) = (Ty.q w).get r (64 * b + j))))

/-- R138, R126, R36, R14, R30: a two-source vector instruction that may not start raises illegal-instruction with the
lowest sub-cause that applies: a register not in use, a tag, a depth, a path already taken in the convoy, a grant too
large. -/
def Obligations.VectorLegalityOrder : Prop :=
  ∀ x ∈ ewForms, ∀ c d a b e m (s : State),
    let regs := [d.toNat, a.toNat, b.toNat]
    let reg := regs.any fun r => decide (s.nreg ≤ r)
    let tag := x.1.intOnly && s.kindOp x.1 d.toNat a.toNat b.toNat != .integer
    let depth := (depthOf e (s.vreg a.toNat).depth).isNone && e != 0
    let path := !c && decide (Path.ew.no ∈ s.h.convoy)
    let fits := regs.all fun r => decide (s.g ≤ s.capacity r)
    (reg = true → IllegalAt (x.2 c d a b e m) c s 4) ∧
    (reg = false → tag = true → IllegalAt (x.2 c d a b e m) c s 5) ∧
    (reg = false → tag = false → depth = true → IllegalAt (x.2 c d a b e m) c s 6) ∧
    (reg = false → tag = false → depth = false → path = true → IllegalAt (x.2 c d a b e m) c s 7) ∧
    (reg = false → tag = false → depth = false → path = false → fits = false → IllegalAt (x.2 c d a b e m) c s 8)

/-! ## Element-wise instructions -/

/-- R176, R177, R175, R39: the twenty two-source instructions complete on operands that their checks admit: the active
elements receive their function's results, VD takes VA's stack, and nothing else changes. -/
def Obligations.ElementwiseResults : Prop :=
  ∀ x ∈ ewForms, ∀ c d a b e m (s : State), EwReady s c d.toNat a.toNat b.toNat e →
    (x.1.intOnly = true → s.kindOp x.1 d.toNat a.toNat b.toNat = .integer) →
    ∃ t, exec (x.2 c d a b e m) s = .next t ∧
      VecWrote (s.issued c .ew) t d.toNat (s.vreg a.toNat)
        (s.fitOp x.1 (s.vreg d.toNat).ty (s.kindOp x.1 d.toNat a.toNat b.toNat))
        (s.ewAnswers x.1 d.toNat a.toNat b.toNat e m.toNat) 0

/-- R176, R53, R30: between registers of one dense integer tag, with SAT clear, sums, differences and products of active
elements wrap, comparisons choose by the tag's sign, the bitwise functions act bit by bit, and inactive elements stay. -/
def Obligations.IntegerElementsWrap : Prop :=
  ∀ c d a b m (s : State) g w, EwReady s c d.toNat a.toNat b.toNat 0 → s.sat = false →
    (s.vreg d.toNat).ty = .int g w false → (s.vreg a.toNat).ty = .int g w false → (s.vreg b.toNat).ty = .int g w false →
    ∀ i < s.g,
      let x := s.el a.toNat i
      let y := s.el b.toNat i
      let sx := intValue g w x
      let sy := intValue g w y
      let gives (ins : Bool → BitVec 6 → BitVec 6 → BitVec 6 → BitVec 3 → BitVec 2 → Instr) (v : Nat) : Prop :=
        ∃ t, exec (ins c d a b 0 m) s = .next t ∧
          t.el d.toNat i = if s.maskBit m.toNat i then v else s.el d.toNat i
      gives .vadd ((x + y) % 2 ^ w) ∧ gives .vsub ((x + 2 ^ w - y) % 2 ^ w) ∧ gives .vmul (x * y % 2 ^ w) ∧
      gives .vmin (if sx ≤ sy then x else y) ∧ gives .vmax (if sx ≤ sy then y else x) ∧
      gives .vand (x &&& y) ∧ gives .vor (x ||| y) ∧ gives .vxor (x ^^^ y)

/-- R178, R175, R61: VCMP writes the mask bit of each active element as the relation holds, raises the flags of comparing,
and leaves every other mask bit; a write to m0 is discarded. -/
def Obligations.CompareWritesTheMask : Prop :=
  ∀ c o d a b e m (s : State), VecReady s c .ew [a.toNat, b.toNat] [a.toNat, b.toNat] →
    (e = 0 ∨ (depthOf e (s.vreg a.toNat).depth).isSome = true) → s.operandLimit (s.vreg a.toNat) e = [] →
    ∃ t, exec (.vcmp c o d a b e m) s = .next t ∧ MaskFrame (s.issued c .ew) t d.toNat
      (orFlags ((s.meets (s.vreg a.toNat) e m.toNat).map fun x =>
        (Machine.Num.compare (condOf o) ((s.vreg a.toNat).num x.1).1 ((s.vreg b.toNat).num x.2).1).2 |||
          ((s.vreg a.toNat).num x.1).2 ||| ((s.vreg b.toNat).num x.2).2)) ∧
      (d ≠ 0 → (∀ x ∈ s.meets (s.vreg a.toNat) e m.toNat,
          t.maskBit d.toNat x.1 = (Machine.Num.compare (condOf o) ((s.vreg a.toNat).num x.1).1 ((s.vreg b.toNat).num x.2).1).1) ∧
        (∀ i, i ∉ (s.meets (s.vreg a.toNat) e m.toNat).map (·.1) → t.maskBit d.toNat i = s.maskBit d.toNat i))

/-- R179, R231: VSEL gives every element the entry its mask bit chooses, and only that one is read; VPMUL multiplies a p8
register with an IEEE one. R183, R127: the kind-tagged forms, whose sources are vectors, scalars, constants or
literals, under the default mask; the flags of a literal's one fitting are raised once. The model's choices: That a VK
acts on every active element, whatever its vector source's stack covers (log 71), and that VD's own stack is held
against its capacity where no source gives one (log 72), are the model's choices. -/
def Obligations.SelectsAndKindTaggedForms : Prop :=
  ((∀ c d a b e m (s : State), EwReady s c d.toNat a.toNat b.toNat e → ∃ t, exec (.vsel c d a b e m) s = .next t ∧
     VecWrote (s.issued c .ew) t d.toNat (s.vreg a.toNat)
       (s.fitter (s.vreg d.toNat).ty (kindOf (s.vreg a.toNat).ty (s.vreg b.toNat).ty))
       ((s.meets (s.vreg a.toNat) e 0).map fun x =>
         (x.1, ansOf (if s.maskBit m.toNat x.1 then (s.vreg a.toNat).num x.1 else (s.vreg b.toNat).num x.2))) 0) ∧
   (∀ c d a b e m (s : State), EwReady s c d.toNat a.toNat b.toNat e → (s.vreg a.toNat).ty = .p8 →
     (s.vreg b.toNat).ty.isFp = true → (s.vreg d.toNat).ty.isFp = true → ∃ t, exec (.vpmul c d a b e m) s = .next t ∧
     VecWrote (s.issued c .ew) t d.toNat (s.vreg a.toNat)
       (s.fitter (s.vreg d.toNat).ty (s.kindOp .mul d.toNat a.toNat b.toNat))
       (s.ewAnswers .mul d.toNat a.toNat b.toNat e m.toNat) 0)) ∧
  ((∀ x ∈ vkForms, ∀ c d p a q b (s : State), VkReady s c d.toNat p q a b → ∃ t, exec (x.2 c d p a q b) s = .next t ∧
     VecWrote (s.issued c .ew) t d.toNat (s.vkDesc d.toNat p q a b)
       (s.fitter (s.vreg d.toNat).ty (s.vkKind x.1 d.toNat p q a b)) (s.vkAnswers x.1 d.toNat p q a b)
       (s.srcFlags p a (s.vreg d.toNat).ty ||| s.srcFlags q b (s.vreg d.toNat).ty)) ∧
   (∀ c d p a q b (s : State), VkReady s c d.toNat p q a b → ∃ t, exec (.vselk c d p a q b) s = .next t ∧
     VecWrote (s.issued c .ew) t d.toNat (s.vkDesc d.toNat p q a b)
       (s.fitter (s.vreg d.toNat).ty (s.vkKind .add d.toNat p q a b))
       ((List.range s.g).map fun i => (i, ansOf (if s.maskBit s.dm i then s.srcNum p a (s.vreg d.toNat).ty i
         else s.srcNum q b (s.vreg d.toNat).ty i)))
       (s.srcFlags p a (s.vreg d.toNat).ty ||| s.srcFlags q b (s.vreg d.toNat).ty)) ∧
   (∀ c o d p a q b (s : State), VecReady s c .ew (State.srcRegs p q a b) (State.srcRegs p q a b) → p = 0 ∨ q = 0 →
     ∃ t, exec (.vcmpk c o d p a q b) s = .next t ∧ MaskFrame (s.issued c .ew) t d.toNat
        (let ty := (s.vreg (if p = 0 then a else b).toNat).ty
         s.srcFlags p a ty ||| s.srcFlags q b ty ||| orFlags ((s.active s.dm).map fun i =>
           (Machine.Num.compare (condOf o) (s.srcNum p a ty i).1 (s.srcNum q b ty i).1).2 ||| (s.srcNum p a ty i).2 |||
             (s.srcNum q b ty i).2)) ∧
       (d ≠ 0 → ∀ i, t.maskBit d.toNat i = if i < s.g ∧ s.maskBit s.dm i = true then
         (Machine.Num.compare (condOf o) (s.srcNum p a (s.vreg (if p = 0 then a else b).toNat).ty i).1
           (s.srcNum q b (s.vreg (if p = 0 then a else b).toNat).ty i).1).1 else s.maskBit d.toNat i)))

/-- R180, R182: the functions of VUN that compute, VMV between registers of one tag, VIOTA's element numbers and VBC's
scalar. R181: VRSCALE writes whole blocks of a block-scaled register: the active elements with VA's values, the others
of an active block with their own, at the scale that suits them together. The model's choices: How VMV treats a
block-scaled register is left out here (log 27). -/
def Obligations.UnaryBroadcastAndRescale : Prop :=
  ((∀ x ∈ unForms, ∀ c d a m (s : State), VecReady s c .ew [d.toNat, a.toNat] [d.toNat, a.toNat] →
     (x.1.intOnly = true → (s.vreg a.toNat).ty.kind = .integer) → s.stackLimits d.toNat (s.vreg a.toNat).levels = [] →
     ∃ t, exec (x.2 c d a m) s = .next t ∧
       VecWrote (s.issued c .ew) t d.toNat (s.vreg a.toNat) (s.fitter (s.vreg d.toNat).ty (s.vreg a.toNat).ty.kind)
         ((s.active m.toNat).map fun i => (i, (x.1.apply (s.vreg a.toNat).ty.kind (s.vreg d.toNat).ty.width
           (s.vreg a.toNat).ty.width ((s.vreg a.toNat).num i).1).more ((s.vreg a.toNat).num i).2)) 0) ∧
   (∀ c d a m (s : State), VecReady s c .ew [d.toNat, a.toNat] [d.toNat, a.toNat] →
     (s.vreg a.toNat).tag = (s.vreg d.toNat).tag → s.stackLimits d.toNat (s.vreg a.toNat).levels = [] →
     ∃ t, exec (.vmv c d a m) s = .next t ∧ VecFrame (s.issued c .ew) t d.toNat (s.vreg a.toNat) [] ∧
       t.h.fcsr = s.h.fcsr ∧ ((s.vreg d.toNat).ty.isQ = false → ∀ i, t.el d.toNat i =
         if i < s.g ∧ s.maskBit m.toNat i = true then s.el a.toNat i else s.el d.toNat i)) ∧
   (∀ c d m (s : State), VecReady s c .ew [d.toNat] [d.toNat] → ∃ t, exec (.viota c d m) s = .next t ∧
     VecWrote (s.issued c .ew) t d.toNat VReg.reset (s.fitter (s.vreg d.toNat).ty .integer)
       ((s.active m.toNat).map fun i => (i, .val (.ofInt i) 0)) 0) ∧
   (∀ c d a m (s : State), VecReady s c .ew [d.toNat] [d.toNat] → ∃ t, exec (.vbc c d a m) s = .next t ∧
     VecFrame (s.issued c .ew) t d.toNat VReg.reset [] ∧ ((s.vreg d.toNat).ty.isQ = false → ∀ i, t.el d.toNat i =
       if i < s.g ∧ s.maskBit m.toNat i = true then (s.rd a).toNat % 2 ^ (s.vreg d.toNat).ty.width else s.el d.toNat i))) ∧
  (∀ c d a m (s : State), VecReady s c .ew [d.toNat, a.toNat] [d.toNat, a.toNat] → (s.vreg d.toNat).ty.isQ = true →
     s.stackLimits d.toNat (s.vreg a.toNat).levels = [] → ∃ t, exec (.vrscale c d a m) s = .next t ∧
       VecWrote (s.issued c .ew) t d.toNat (s.vreg a.toNat) (s.fitter (s.vreg d.toNat).ty (s.vreg a.toNat).ty.kind)
         ((activeBlocks (s.active m.toNat)).flatMap fun b => (List.range 64).map fun e =>
           (64 * b + e, ansOf (if 64 * b + e ∈ s.active m.toNat then (s.vreg a.toNat).num (64 * b + e)
             else (s.vreg d.toNat).num (64 * b + e)))) 0)

/-! ## Moves, masks and segment stacks -/

/-- R185 to R187, R49: slides, gathers, pushes, block permutations and reversals complete; VD keeps its tag and takes VA's
stack, or depth 0, and nothing else changes. At depth 0, between equal tags that are not block-scaled, each element
comes from the position that the rule names, and of two sources pushed to one position the higher wins. The model's
choices: No element of a block-scaled move is stated, so nothing here rests on how its tail is written (log 54). -/
def Obligations.MovesGoWhereTheySay : Prop :=
  ∀ c d a b e m (s : State), DepthOk (s.vreg a.toNat) e → (s.byBlocks d.toNat a.toNat = true → e = 0) →
    let desc := s.moveDesc a.toNat e
    let plain := e = 0 ∧ (s.vreg a.toNat).tag = (s.vreg d.toNat).tag ∧ (s.vreg a.toNat).ty.isQ = false
    let n := (s.rd b).toNat
    let x i := (s.indexOf d.toNat a.toNat b.toNat i)
    let on i := i < s.g ∧ s.maskBit m.toNat i = true
    (VecReady s c .xl [d.toNat, a.toNat] [d.toNat, a.toNat] → s.stackLimits d.toNat (s.vreg a.toNat).levels = [] →
      (∃ t, exec (.vslideUp c d a b e m) s = .next t ∧ VecFrame (s.issued c .xl) t d.toNat (s.vreg a.toNat) [] ∧
        (plain → ∀ i, t.el d.toNat i = if on i ∧ n ≤ i then s.el a.toNat (i - n) else s.el d.toNat i)) ∧
      (∃ t, exec (.vslideDn c d a b e m) s = .next t ∧ VecFrame (s.issued c .xl) t d.toNat (s.vreg a.toNat) [] ∧
        (plain → ∀ i, t.el d.toNat i = if on i ∧ i + n < s.g then s.el a.toNat (i + n) else s.el d.toNat i))) ∧
    (VecReady s c .xl [d.toNat, a.toNat] [d.toNat, a.toNat] → s.stackLimits d.toNat desc.levels = [] →
      ∃ t, exec (.vrev c d a e m) s = .next t ∧ VecFrame (s.issued c .xl) t d.toNat desc [] ∧
        (plain → ∀ i, t.el d.toNat i = if on i then s.el a.toNat (s.g - 1 - i) else s.el d.toNat i)) ∧
    (VecReady s c .xl [d.toNat, a.toNat, b.toNat] [d.toNat, a.toNat, b.toNat] → (s.vreg b.toNat).ty.isInt = true →
      s.stackLimits d.toNat desc.levels = [] →
      (∃ t, exec (.vgatherr c d a b e m) s = .next t ∧ VecFrame (s.issued c .xl) t d.toNat desc [] ∧
        (plain → ∀ i, (on i → 0 ≤ x i → x i < s.g → t.el d.toNat i = s.el a.toNat (x i).toNat) ∧
          (on i → x i < 0 ∨ s.g ≤ x i → (t.vreg d.toNat).ty.isInt = true → t.el d.toNat i = 0) ∧
          (¬on i → t.el d.toNat i = s.el d.toNat i))) ∧
      (∃ t, exec (.vpushl c d a b e m) s = .next t ∧ VecFrame (s.issued c .xl) t d.toNat desc [] ∧
        (plain → ∀ p : Nat, (∀ i, on i → x i = (p : Int) → p < s.g → (∀ j, i < j → on j → x j ≠ (p : Int)) → t.el d.toNat p = s.el a.toNat i) ∧
          (s.g ≤ p ∨ (∀ i, on i → x i ≠ (p : Int)) → t.el d.toNat p = s.el d.toNat p)))) ∧
    (VecReady s c .xl [d.toNat, a.toNat, b.toNat] [d.toNat, a.toNat, b.toNat] → (s.vreg b.toNat).ty.isInt = true →
      ∃ t, exec (.vpermb c d a b m) s = .next t ∧ VecFrame (s.issued c .xl) t d.toNat VReg.reset [] ∧
        (plain → ∀ j, ∀ k < 64,
          let y := ((s.vreg b.toNat).num (64 * j)).1.toInt
          t.el d.toNat (64 * j + k) = if 64 * j + k < s.g ∧ s.maskBit m.toNat (64 * j) = true ∧ 0 ≤ y ∧ 64 * y + k < s.g
            then s.el a.toNat (64 * y.toNat + k) else s.el d.toNat (64 * j + k)))

/-- R184, R173: the mask operations act bit by bit below G and leave the bits from G on; m0 reads as all ones and a write
to it is discarded. VMSK_COUNT gives the number of set bits below G and VMSK_FIRST the lowest, or -1. -/
def Obligations.MaskOperations : Prop :=
  ∀ c (s : State), VecReady s c .ew [] [] →
    (∀ d a b, ∀ x ∈ [(Instr.vmskAnd c d a b, fun p q : Bool => p && q), (.vmskOr c d a b, fun p q => p || q),
        (.vmskXor c d a b, fun p q => p ^^ q), (.vmskAndn c d a b, fun p q => p && !q), (.vmskNot c d a, fun p _ => !p)],
      ∃ t, exec x.1 s = .next t ∧ MaskFrame (s.issued c .ew) t d.toNat 0 ∧ t.h.fcsr = s.h.fcsr ∧
        (d ≠ 0 → ∀ i, t.maskBit d.toNat i =
          if i < s.g then x.2 (s.maskBit a.toNat i) (s.maskBit b.toNat i) else s.maskBit d.toNat i)) ∧
    (∀ d a, ∃ t, exec (.vmskCount c d a) s = .next t ∧ VecTouched (s.issued c .ew) t [] [d] [] ∧ t.h.fcsr = s.h.fcsr ∧
      (d ≠ 0 → (t.rd d).toNat = ((List.range s.g).map fun i => (s.maskBit (a.extractLsb' 3 3).toNat i).toNat).sum % 2 ^ 64) ∧
      (d = 0 → t.rd d = 0)) ∧
    (∀ d a, ∃ t, exec (.vmskFirst c d a) s = .next t ∧ VecTouched (s.issued c .ew) t [] [d] [] ∧ t.h.fcsr = s.h.fcsr ∧
      (d = 0 → t.rd d = 0) ∧
      (d ≠ 0 → (∀ i < s.g, s.maskBit (a.extractLsb' 3 3).toNat i = true →
          (∀ j < i, s.maskBit (a.extractLsb' 3 3).toNat j = false) → t.rd d = BitVec.ofNat 64 i) ∧
        ((∀ i < s.g, s.maskBit (a.extractLsb' 3 3).toNat i = false) → t.rd d = BitVec.ofInt 64 (-1))))

/-- R188 to R190, R39: SPUSH, SPOP, SDEPTH, SGETL, VFLAT and SOPEN within their limits: the level pushed holds VA's first
lengths, the level popped is written to VD and counted, removing a level keeps what its parent covers, and the open
bits are given and taken. -/
def Obligations.SegmentStackOperations : Prop :=
  ∀ c d a b e (s : State),
    let v := s.vreg a.toNat
    let w := s.vreg d.toNat
    let k := (s.rd b).toNat
    let new := (List.range k).map fun j => s.el a.toNat j % 2 ^ 32
    (VecReady s c .ew [d.toNat, a.toNat] [d.toNat, a.toNat] → v.ty.isWide = true → w.depth < 8 →
      k ≤ s.capacity a.toNat → k ≤ s.capacity d.toNat → new.sum = (if w.depth = 0 then s.g else (s.levelOf w 1).length) →
      s.tooLong d.toNat (new :: w.levels) = false →
      ∃ t, exec (.spush c d a b) s = .next t ∧ VecTouched (s.issued c .ew) t [d.toNat] [] [] ∧
        t.vreg d.toNat = { w with levels := new :: w.levels } ∧ t.h.fcsr = s.h.fcsr) ∧
    (VecReady s c .ew [d.toNat, a.toNat] [d.toNat, a.toNat] → d ≠ a → w.ty.isWide = true → 0 < v.depth →
      ∃ t, exec (.spop c d a b) s = .next t ∧ VecTouched (s.issued c .ew) t [d.toNat, a.toNat] [b] [] ∧
        t.vreg a.toNat = { v with levels := v.levels.tail } ∧ (t.vreg d.toNat).levels = [] ∧
        (b ≠ 0 → t.rd b = BitVec.ofNat 64 (s.levelOf v 1).length) ∧
        (∀ j (h : j < (s.levelOf v 1).length), j < s.g → (s.levelOf v 1)[j] < 2 ^ 31 →
          t.el d.toNat j = (s.levelOf v 1)[j])) ∧
    (VecReady s c .ew [a.toNat] [a.toNat] → ∃ t, exec (.sdepth c d a) s = .next t ∧
      VecTouched (s.issued c .ew) t [] [d] [] ∧ t.rd d = (if d = 0 then 0 else BitVec.ofNat 64 v.depth) ∧
      t.h.fcsr = s.h.fcsr) ∧
    (VecReady s c .ew [d.toNat, a.toNat] [d.toNat, a.toNat] → w.ty.isWide = true → DepthOk v e →
      let l := s.levelOf v (if e = 7 then v.depth else e.toNat)
      ∃ t, exec (.sgetl c d a b e) s = .next t ∧ VecTouched (s.issued c .ew) t [d.toNat] [b] [] ∧
        (t.vreg d.toNat).levels = [] ∧ (b ≠ 0 → t.rd b = BitVec.ofNat 64 l.length) ∧
        (∀ j (h : j < l.length), j < s.g → l[j] < 2 ^ 31 → t.el d.toNat j = l[j]) ∧
        (∀ j, l.length ≤ j ∨ s.g ≤ j → t.el d.toNat j = s.el d.toNat j)) ∧
    (VecReady s c .ew [d.toNat, a.toNat] [d.toNat, a.toNat] → v.tag = w.tag → DepthOk v e → e ≠ 0 →
      (e = 7 → v.depth ≠ 0) → ∀ l, l = dropLevel ((if e = 7 then v.depth else e.toNat) - 1) v.levels →
      s.stackLimits d.toNat l = [] →
      ∃ t, exec (.vflat c d a e) s = .next t ∧ VecFrame (s.issued c .ew) t d.toNat { v with levels := l } [] ∧
        t.h.fcsr = s.h.fcsr ∧ l.length + 1 = v.depth ∧
        (∀ i, t.el d.toNat i = if i < s.g then s.el a.toNat i else s.el d.toNat i)) ∧
    (VecReady s c .ew [d.toNat] [d.toNat] → ∃ t, exec (.sopen c d a b) s = .next t ∧
      VecTouched (s.issued c .ew) t [d.toNat] [a] [] ∧ t.h.fcsr = s.h.fcsr ∧
      (a ≠ 0 → (t.rd a).toNat = w.headOpen.toNat + 2 * w.tailOpen.toNat) ∧
      t.vreg d.toNat = if (s.rd b).getLsbD 2 then w
        else { w with headOpen := (s.rd b).getLsbD 0, tailOpen := (s.rd b).getLsbD 1 })

/-! ## Reductions, scans and restructuring -/

/-- R191, R64, R66, R38: a reduction completes, writes one element for each segment and the carry-out. At depth 0, without
a carry-in and between equal signed or unsigned integer tags, element 0 and the carry-out hold the sum modulo 2^w, the
least or the greatest active value, or the bitwise and or or of the active elements; the other elements stay. R193,
R65, R192: scans and VIDXMAX complete. At depth 0, without a carry-in and between equal integer tags, an inclusive sum
scan gives each active element the sum of the active ones up to it, an exclusive one that of those before it, and a
maximum scan the greatest up to it; VIDXMAX gives the first position of the greatest active value, or -1. The model's
choices: The kinds that a tree's nodes compute in, where operand and result tags differ, are read by inference (log
28) and are no part of the values stated. -/
def Obligations.ReductionsAndScans : Prop :=
  (∀ c d a b e m (s : State), VecReady s c .xl [d.toNat, a.toNat] [d.toNat, a.toNat] → DepthOk (s.vreg a.toNat) e →
     (s.vreg d.toNat).ty.isQ = false →
     let dep := if e = 7 then (s.vreg a.toNat).depth else e.toNat
     let desc := State.redDesc (s.vreg a.toNat) dep
     s.manySegs (s.vreg a.toNat) dep ++ s.stackLimits d.toNat desc.levels = [] →
     (∀ x ∈ redForms, (x.1.bitwise = true → kindOf (s.vreg a.toNat).ty (s.vreg d.toNat).ty = .integer) →
       ∃ t, exec (x.2 c d a b e m) s = .next t ∧ VecFrame (s.issued c .xl) t d.toNat desc [b]) ∧
     (∀ sg w pl, e = 0 → 0 < w → (s.vreg d.toNat).ty = .int sg w pl → (s.vreg a.toNat).ty = .int sg w pl → s.sat = false →
       (s.vreg a.toNat).headOpen = false →
       let gives (i : Instr) (p : Nat → Prop) : Prop := ∃ t v, exec i s = .next t ∧ p v ∧ v < 2 ^ w ∧
         (t.rd b = if b = 0 then 0 else toScalar (.int sg w pl) v) ∧
         (∀ k, t.el d.toNat k = if k = 0 ∧ 0 < s.g then v else s.el d.toNat k)
       let on i := i < s.g ∧ s.maskBit m.toNat i = true
       let val i := intValue sg w (s.el a.toNat i)
       gives (.vredAdd c d a b e m) (fun v => v = ((s.active m.toNat).map (s.el a.toNat)).sum % 2 ^ w) ∧
       gives (.vredMin c d a b e m) (fun v => ∀ i, on i → intValue sg w v ≤ val i ∧
         ∃ j, on j ∧ v = s.el a.toNat j) ∧
       gives (.vredMax c d a b e m) (fun v => ∀ i, on i → val i ≤ intValue sg w v ∧
         ∃ j, on j ∧ v = s.el a.toNat j) ∧
       gives (.vredbAnd c d a b e m) (fun v => ∀ k < w, v.testBit k = true ↔ ∀ i, on i → (s.el a.toNat i).testBit k = true) ∧
       gives (.vredbOr c d a b e m) (fun v => ∀ k < w, v.testBit k = true ↔ ∃ i, on i ∧ (s.el a.toNat i).testBit k = true))) ∧
  (∀ c d a b e m (s : State), VecReady s c .xl [d.toNat, a.toNat] [d.toNat, a.toNat] → DepthOk (s.vreg a.toNat) e →
     (s.vreg d.toNat).ty.isQ = false →
     let v := s.vreg a.toNat
     let dep := if e = 7 then v.depth else e.toNat
     let desc := State.redDesc v dep
     let on i := i < s.g ∧ s.maskBit m.toNat i = true
     let upTo k := ((s.active m.toNat).filter (· ≤ k)).map (s.el a.toNat)
     let before k := ((s.active m.toNat).filter (· < k)).map (s.el a.toNat)
     (s.manySegs v dep ++ s.stackLimits d.toNat v.levels = [] →
       (∀ x ∈ scanForms, ∃ t, exec (x.2.2 c d a b e m) s = .next t ∧ VecFrame (s.issued c .xl) t d.toNat v [b]) ∧
       (∀ sg w pl, e = 0 → 0 < w → (s.vreg d.toNat).ty = .int sg w pl → v.ty = .int sg w pl → s.sat = false →
         v.headOpen = false →
         (∃ t, exec (.vscanAddInc c d a b e m) s = .next t ∧
           (∀ k, (on k → t.el d.toNat k = (upTo k).sum % 2 ^ w) ∧ (¬on k → t.el d.toNat k = s.el d.toNat k))) ∧
         (∃ t, exec (.vscanAddExc c d a b e m) s = .next t ∧
           (∀ k, (on k → t.el d.toNat k = (before k).sum % 2 ^ w) ∧ (¬on k → t.el d.toNat k = s.el d.toNat k))) ∧
         (∃ t, exec (.vscanMaxInc c d a b e m) s = .next t ∧
           (∀ k, (on k → t.el d.toNat k ∈ upTo k ∧ ∀ y ∈ upTo k, intValue sg w y ≤ intValue sg w (t.el d.toNat k)) ∧
             (¬on k → t.el d.toNat k = s.el d.toNat k))))) ∧
     (s.manySegs v dep ++ s.stackLimits d.toNat desc.levels = [] → ∀ w, (s.vreg d.toNat).ty = .int true w false →
       (∃ t n, exec (.vidxmax c d a b e m) s = .next t ∧
         VecFrame { s.issued c .xl with seq := n } t d.toNat desc [b] ∧ (v.ty.isQ = false → n = s.seq)) ∧
       (∀ sg x pl, e = 0 → 0 < x → v.ty = .int sg x pl → v.headOpen = false → 0 < s.g →
         ∃ t, exec (.vidxmax c d a b e m) s = .next t ∧
           (s.active m.toNat = [] → t.el d.toNat 0 = 2 ^ w - 1) ∧
           (∀ i, on i → (∀ j, on j → intValue sg x (s.el a.toNat j) ≤ intValue sg x (s.el a.toNat i)) →
             (∀ j < i, on j → intValue sg x (s.el a.toNat j) < intValue sg x (s.el a.toNat i)) →
             t.el d.toNat 0 = i % 2 ^ w ∧ (b ≠ 0 → t.rd b = toScalar v.ty (s.el a.toNat i))))))

/-- R194 to R198: VPACK, VDIST, VSPLIT, VMERGEK and VCONFL complete within their limits and give what their rules say: the
active elements segment by segment with their counts, an entry for each segment, the children in order, the keys in
rank order, the nearest earlier element of equal value. -/
def Obligations.RestructuringResults : Prop :=
  ∀ c d a b e g m (s : State),
    let v := s.vreg a.toNat
    let w := s.vreg d.toNat
    let kept := s.activeSegs v m.toNat
    (VecReady s c .xl [d.toNat, a.toNat] [d.toNat, a.toNat] → v.tag = w.tag → v.ty.isQ = false →
      ∀ l, l = setDeepest v.levels (kept.map List.length) → s.stackLimits d.toNat l = [] →
      ∃ t, exec (.vpack c d a m) s = .next t ∧ VecFrame (s.issued c .xl) t d.toNat { v with levels := l } [] ∧
        PackedFrom s t d.toNat a.toNat kept.flatten) ∧
    (VecReady s c .xl [d.toNat, a.toNat, b.toNat] [d.toNat, a.toNat, b.toNat] → DepthOk (s.vreg b.toNat) e →
      let dep := if e = 7 then (s.vreg b.toNat).depth else e.toNat
      s.manySegs (s.vreg b.toNat) dep ++ s.stackLimits d.toNat (s.vreg b.toNat).levels = [] →
      ∃ t, exec (.vdist c d a b e m) s = .next t ∧ VecFrame (s.issued c .xl) t d.toNat (s.vreg b.toNat) [] ∧
        (v.tag = w.tag → v.ty.isInt = true → ∀ i,
          let on := i < s.g ∧ s.maskBit m.toNat i = true
          (on → ∀ j x, segAt ((s.vreg b.toNat).segs s.g dep) i = some (j, x) → t.el d.toNat i = s.el a.toNat j) ∧
          (¬on ∨ segAt ((s.vreg b.toNat).segs s.g dep) i = none → t.el d.toNat i = s.el d.toNat i))) ∧
    (∀ l, SplitReady s c d.toNat a.toNat ((v.segs s.g v.depth).map (s.maskKids m.toNat)) l →
      ∃ t, exec (.vsplitMask c d a m) s = .next t ∧ VecFrame (s.issued c .xl) t d.toNat { v with levels := l } [] ∧
        PackedFrom s t d.toNat a.toNat ((v.segs s.g v.depth).flatMap (s.maskKids m.toNat)).flatten) ∧
    (∀ l kids, kids = (v.segs s.g v.depth).map (fun x => (threeKids v ((List.range x.2).map (x.1 + ·))).1) →
      SplitReady s c d.toNat a.toNat kids l →
      ∃ t, exec (.vsplitThree c d a) s = .next t ∧ VecFrame (s.issued c .xl) t d.toNat { v with levels := l } [] ∧
        PackedFrom s t d.toNat a.toNat kids.flatten.flatten) ∧
    (VecReady s c .xl [d.toNat, a.toNat] [d.toNat, a.toNat] → e = 7 ∨ e.toNat = v.depth →
      ∀ l, l = setDeepest v.levels (kept.map fun x => min (s.rd b).toNat x.length) → s.stackLimits d.toNat l = [] →
      ∃ t, exec (.vmergek c d a b e m) s = .next t ∧ VecFrame (s.issued c .xl) t d.toNat { v with levels := l } [] ∧
        (∀ x sg y pl, w.ty = .int true x false → v.depth = 0 → v.ty = .int sg y pl →
          ∃ p : List Nat, p.length = min (s.rd b).toNat (s.active m.toNat).length ∧ p.Nodup ∧
            (∀ i ∈ p, i ∈ s.active m.toNat) ∧
            p.Pairwise (fun i j => intValue sg y (s.el a.toNat j) < intValue sg y (s.el a.toNat i) ∨
              (s.el a.toNat j = s.el a.toNat i ∧ i < j)) ∧
            (∀ i ∈ p, ∀ j ∈ s.active m.toNat, j ∉ p → intValue sg y (s.el a.toNat j) ≤ intValue sg y (s.el a.toNat i)) ∧
            (∀ k (h : k < p.length), t.el d.toNat k = p[k] % 2 ^ x) ∧
            (∀ k, p.length ≤ k → t.el d.toNat k = s.el d.toNat k))) ∧
    (VecReady s c .xl [d.toNat, a.toNat] [d.toNat, a.toNat] → v.ty.isInt = true → ∀ x, w.ty = .int true x false →
      ∃ t, exec (.vconfl c d a g m) s = .next t ∧ VecTouched (s.issued c .xl) t [d.toNat] [] [g.toNat] ∧
        t.h.fcsr = s.h.fcsr ∧ (t.vreg d.toNat).levels = [] ∧
        (∀ i,
          let on i := i < s.g ∧ s.maskBit m.toNat i = true
          (on i → (∀ j < i, on j → s.el a.toNat j ≠ s.el a.toNat i) →
            t.el d.toNat i = 2 ^ x - 1 ∧ (g ≠ 0 → t.maskBit g.toNat i = true)) ∧
          (on i → ∀ j < i, on j → s.el a.toNat j = s.el a.toNat i →
            (∀ k, j < k → k < i → on k → s.el a.toNat k ≠ s.el a.toNat i) →
            t.el d.toNat i = j % 2 ^ x ∧ (g ≠ 0 → t.maskBit g.toNat i = false)) ∧
          (¬on i → t.el d.toNat i = s.el d.toNat i ∧ t.maskBit g.toNat i = s.maskBit g.toNat i)))

/-- R226 to R228, R232 to R238: MMAC completes and updates its C registers alone; for integer tags an element gains the
sum of the products modulo 2^32. The SFU's functions and VRAND complete on the active elements. The model's choices:
Which of two faithful neighbours a function gives is a free choice (log 12). -/
def Obligations.MatrixAndFunctionResults : Prop :=
  (∀ c d a b e m (s : State), s.runnable = true → s.h.xfers = [] → c = true ∨ Path.mx.no ∉ s.h.convoy →
    (∀ r ∈ s.macRegs d.toNat a.toNat b.toNat (e.toNat + 1), r < s.nreg) →
    (s.badMac d.toNat a.toNat b.toNat (e.toNat + 1)).reg = false →
    (s.badMac d.toNat a.toNat b.toNat (e.toNat + 1)).tag = false →
    s.shortMac d.toNat a.toNat b.toNat (e.toNat + 1) = false →
    ∃ t, exec (.mmac c d a b e m) s = .next t ∧
      VecTouched (s.issued c .mx) t (s.macC d.toNat (e.toNat + 1)) [] [] ∧
      (∀ r, (t.vreg r).levels = (s.vreg r).levels ∧ (t.vreg r).headOpen = (s.vreg r).headOpen ∧
        (t.vreg r).tailOpen = (s.vreg r).tailOpen) ∧
      ((s.vreg a.toNat).ty.isInt = true → t.h.fcsr = s.h.fcsr ∧ ∀ k ≤ e.toNat, ∀ i < s.h.vlr, ∀ j,
        let r := d.toNat + k * s.h.vlr + i
        t.el r j = if j < s.h.vlc ∧ s.maskBit m.toNat j = true
          then wrapInt 32 ((BitVec.ofNat 32 (s.el r j)).toInt + s.macDot a.toNat b.toNat k i j) else s.el r j)) ∧
  (∀ x ∈ sfuForms, ∀ c d a (s : State), VecReady s c .sf [d.toNat, a.toNat] [d.toNat, a.toNat] →
    x.2.1 (s.vreg d.toNat).ty = true → ∀ f, (s.vreg a.toNat).ty = .fp f →
    s.stackLimits d.toNat (s.vreg a.toNat).levels = [] → ∃ t, exec (x.2.2 c d a) s = .next t ∧
      VecWrote (s.issued c .sf) t d.toNat (s.vreg a.toNat) (s.fitter (s.vreg d.toNat).ty (.float f))
        ((s.active s.dm).map fun i => (i, sfuAns x.1 f (s.vreg a.toNat).tag (s.vreg d.toNat).tag (s.vreg d.toNat).ty
          (s.el a.toNat i) ((s.vreg a.toNat).num i))) 0) ∧
  (∀ c d a (s : State), VecReady s c .sf [d.toNat] [d.toNat] → a ≠ 63 → (s.vreg d.toNat).ty ≠ .p8 →
    (s.vreg d.toNat).ty.isQ = false → ∃ t, exec (.vrand c d a) s = .next t ∧
      VecFrame (s.issued c .sf) t d.toNat VReg.reset [] ∧ t.h.fcsr = s.h.fcsr ∧
      (∀ sg w pl, (s.vreg d.toNat).ty = .int sg w pl → ∀ i, t.el d.toNat i =
        if i < s.g ∧ s.maskBit s.dm i = true then (randBits (s.rd a) (s.rd (a + 1)) i).toNat % 2 ^ w else s.el d.toNat i))

/-! ## Vector memory -/

/-- R199 to R204, R77: a VLD whose slot, elements and pages are good completes in every mode: the active units land in VD
by the layout of its tag, inactive elements stay, VD has depth 0, and no memory changes. Through a gone weak slot VD
stays, the default mask loses the active bits, and HSTAT.GONE is set. R199 to R202: a VST whose slot, elements and
pages are good completes in every mode: the active units' bytes are stored, no other byte and no register changes. The
model's choices: That ESTART is used where the instruction resumes and is cleared after it is the model's reading (log
9), and that a resumed VLD or VST makes its checks from ESTART on only is its choice (log 53); a MODE 5 through a gone
slot is left out. -/
def Obligations.VectorLoadsAndStores : Prop :=
  (∀ c d h a x o (s : State), o.toNat ≤ 5 →
     VecReady s c .ld (State.memRegs d.toNat x.toNat o.toNat) (State.memRegs d.toNat x.toNat o.toNat) →
     (s.badMem d.toNat x.toNat o.toNat).tag = false →
     let v := s.issued c .ld
     let l := v.fromStart (v.units (s.vreg d.toNat).ty o.toNat a x)
     (o ≠ 5 → ∀ u found, Found v u h .vld o.toNat l found →
       ∃ t, exec (.vld c d h a x o) s = .next t ∧ Translated v u ∧ VecLoaded v u t d.toNat o.toNat found) ∧
     (o ≠ 5 → ∀ u, v.reach h .vld true l = (.gone, u) → ∃ t, exec (.vld c d h a x o) s = .next t ∧ Translated v u ∧
       t.h = { v.h.moved with m := t.h.m, gone := true, checks := u.h.checks } ∧ t = { u with h := t.h } ∧
       (∀ m, m ≠ s.dm ∨ m = 0 → t.h.m.get 0 m = s.h.m.get 0 m) ∧
       (s.dm ≠ 0 → ∀ i, t.maskBit s.dm i = (s.maskBit s.dm i && decide (s.g ≤ i)))) ∧
     (o = 5 → ∀ b bytes u0 p l u found m u', let z := (s.vreg d.toNat).ty.unitBytes
       v.readSpb (encode (.vld c d h a x o)) 0 h (s.rd a).toInt z = (.ok b bytes, u0) →
       u0.reachBy b.slot .vld true (fun w e => w.fromStart (((w.active w.dm).filter (· < b.elems z)).map fun k =>
         { idx := k, off := b.offset e (w.blockSize e) z k, len := z })) = (.ok p, l, u) →
       (p.inMode 5).elems l [] u = (found, none, m, u') → (∀ y ∈ found, u'.badIn y.2 = []) →
       ∃ t, exec (.vld c d h a x o) s = .next t ∧ Translated v u' ∧ VecLoaded v u' t d.toNat 5 found)) ∧
  (∀ c d h a x o (s : State), o.toNat ≤ 4 →
     VecReady s c .st (State.memRegs d.toNat x.toNat o.toNat) (State.memRegs d.toNat x.toNat o.toNat) →
     (s.badMem d.toNat x.toNat o.toNat).tag = false →
     let v := s.issued c .st
     ∀ u found, Found v u h .store o.toNat (v.fromStart (v.units (s.vreg d.toNat).ty o.toNat a x)) found →
       ∃ t, exec (.vst c d h a x o) s = .next t ∧ Translated v u ∧ VecStored v u t d.toNat o.toNat found)

/-- R205, R206, R113, R114: VAMO and VCAS complete on elements that do not overlap, whichever order is drawn: VD receives
the old values, each location the function of its old value and its operand, or VCAS's new value where the old one is
the expected one. Where AND clears no KEEP bit, nothing else changes. R207, R42: VWAIT completes at once where every
active element is satisfied, and otherwise parks past itself with one watch for each, met where its condition holds
already; it changes no memory. The model's choices: The order of unordered elements is a free choice (log 13), and
that ESTART is used where the instruction resumes is its reading (log 9). -/
def Obligations.VectorAtomicsAndWaits : Prop :=
  ((∀ x ∈ vamoForms, ∀ c d h i o q r sc (s : State), VecReady s c .aw [d.toNat, i.toNat] [d.toNat, i.toNat] →
     (s.badAmo x.1 d.toNat i.toNat).tag = false → ∀ u found, let v := s.issued c .aw
     let n := (s.vreg d.toNat).ty.width / 8
     let new (e old : Nat) : Nat := vamoNew x.1 (s.vreg d.toNat).ty.signed (8 * n) old (s.el d.toNat e)
     Found v u h .atomic 2 (v.indexed d.toNat i.toNat) found → (found.flatMap (bytesOf ·.2)).Nodup →
     (x.1 = .and → ∀ y ∈ found,
       bits (leNat (u.raw y.2)) 44 1 ≤ bits (new y.1.idx (leNat (u.raw y.2))) 44 1 ∨ n = 4) →
     ∃ t, exec (x.2 c d h i o q r sc) s = .next t ∧ Translated v u ∧ AtomicsDone v u t d.toNat n new found ∧
       (x.1 ≠ .addsat → t.h.fcsr = s.h.fcsr)) ∧
   (∀ c d h i q r sc (s : State), VecReady s c .aw [d.toNat, d.toNat + 1, i.toNat] [d.toNat, d.toNat + 1, i.toNat] →
     (s.badCas d.toNat i.toNat).tag = false → ∀ u found, let v := s.issued c .aw
     Found v u h .atomic 2 (v.indexed d.toNat i.toNat) found → (found.flatMap (bytesOf ·.2)).Nodup →
     ∃ t, exec (.vcas c d h i q r sc) s = .next t ∧ Translated v u ∧
       AtomicsDone v u t d.toNat ((s.vreg d.toNat).ty.width / 8)
         (fun e old => if old = s.el d.toNat e then s.el (d.toNat + 1) e else old) found ∧ t.h.fcsr = s.h.fcsr)) ∧
  (∀ c d h i o sc (s : State), VecReady s c .aw [d.toNat, i.toNat] [d.toNat, i.toNat] →
     (s.vreg d.toNat).ty.isWide = true → (s.vreg i.toNat).ty.isWide = true → ∀ u found, let v := s.issued c .aw
     let holds (y : Elem × List Piece) : Bool := (waitCond o).holds (s.vreg d.toNat).ty.signed (s.vreg d.toNat).ty.width
       (leNat (u.raw y.2)) (if o = 0 ∨ o = 7 then 0 else s.el d.toNat y.1.idx)
     Found v u h .wait 2 (v.indexed d.toNat i.toNat) found →
     Translated v u ∧
     ((∀ y ∈ found, holds y = true) → exec (.vwait c d h i o sc) s = .next { u with h := { v.h.moved with checks := u.h.checks } }) ∧
     ((∃ y ∈ found, holds y = false) → ∃ w, w.map (fun (x : Watch) => (x.locs, x.met)) = found.map (fun y => (bytesOf y.2, holds y)) ∧
       exec (.vwait c d h i o sc) s = .next { u with h := { v.h.moved with checks := u.h.checks, park := some (.vwait w) } }))

/-! ## Handles, blocks and experts -/

/-- R69, R70, R75, R77 to R79, R211, R212: HBIND, HUP, HDOWN, HWEAK, HREL, HCHK and HINFO complete; what they bind, what a
slot then holds, and the hold counts of its entry. The model's choices: That the hart's lookups of handle entries meet
no access table (log 37), that a drop waits for transfers (log 10), and that HDOWN keeps the slot's expert and its
bind count (log 67) are the model's choices. -/
def Obligations.HandleInstructions : Prop :=
  ∀ c d a h (s : State), Ready s →
    let w := s.noteCv c
    (∀ b, s.slot h = some b → ScalarRuns (.hweak c d h) s c d
      (BitVec.ofNat 64 (b.gen.toNat * 2 ^ 48 + 2 ^ 24 + b.index.toNat)) 0) ∧
    (s.slot h = none → ScalarRuns (.hchk c d h) s c d 0 0) ∧
    (∀ b, s.slot h = some b → ∃ t, exec (.hchk c d h) s = .next t ∧
      ScalarDone (s.entryMet b) t c d (if b.isGone (s.entryOf b) then 0 else 1) 0 (s.h.pc + 4)) ∧
    (s.slot h = none → exec (.hrel c h) s = .next (s.goes c (s.h.pc + 4))) ∧
    (∀ b u, s.slot h = some b → Performed w u (Eng.release b) () →
      exec (.hrel c h) s = .next { u with h := { u.h.onward with slots := u.h.slots.set none h.toNat none } } ∧
      (b.hold = true → b.weak = false → b.expert = none → LiveFor s b → 1 < (s.entryOf b).scount →
        Recounted s u (b.space.entryAt b.index) ((s.entryOf b).scount - 1) (s.entryOf b).wcount)) ∧
    (∀ b, s.slot h = some b → b.weak = false → ScalarRuns (.hup c d h) s c d 1 0) ∧
    (∀ b u ok, s.slot h = some b → b.weak = true → Performed w u (Eng.raiseHold b) ok →
      ∃ t, exec (.hup c d h) s = .next t ∧ ok = !b.isGone (s.entryOf b) ∧
        t.slot h = some (if ok then { b with weak := false } else { b with gone := true }) ∧
        t.rd d = (if d = 0 ∨ ok = false then 0 else 1) ∧ (∀ r, r ≠ d → t.rd r = s.rd r) ∧
        t = { u with h := { u.h.onward with s := t.h.s, slots := t.h.slots } } ∧
        (LiveFor s b → 0 < (s.entryOf b).wcount →
          Recounted s t (b.space.entryAt b.index) ((s.entryOf b).scount + 1) ((s.entryOf b).wcount - 1))) ∧
    (∀ b, s.slot h = some b → b.weak = true → exec (.hdown c h) s = .next (s.goes c (s.h.pc + 4))) ∧
    (∀ b u, s.slot h = some b → b.weak = false → Performed w u (Eng.lowerHold b) () →
      exec (.hdown c h) s = .next { u with h := { u.h.onward with
        slots := u.h.slots.set none h.toNat (some { b with weak := true }) } } ∧
      (LiveFor s b → 1 < (s.entryOf b).scount →
        Recounted s u (b.space.entryAt b.index) ((s.entryOf b).scount - 1) ((s.entryOf b).wcount + 1))) ∧
    (∀ b u, malformed s.h.space (s.rd a) = false →
      b = s.bindingOf (valWeak (s.rd a)) (valGen (s.rd a)) (valIndex (s.rd a)) none → LiveFor s b →
      Performed w u (Eng.rebind b (s.slot h)) () →
      exec (.hbind c a h) s = .next { u with h := { u.h.onward with slots := u.h.slots.set none h.toNat (some b) } } ∧
      (s.slot h = none → Recounted s u (b.space.entryAt b.index)
        ((s.entryOf b).scount + if b.weak then 0 else 1) ((s.entryOf b).wcount + if b.weak then 1 else 0))) ∧
    (∀ b e u, (s.rd a).toNat ≤ 5 → s.slot h = some b → w.view b = (e, u) →
      (b.isGone e = false ∨ (s.rd a).toNat = 5 →
        ∃ t, exec (.hinfo c d a h) s = .next t ∧ Translated w u ∧ AccessDone s t c d (infoWord b e (s.rd a).toNat) 0 ∧
          (∀ l, t.byteAt l = s.byteAt l)) ∧
      (b.isGone e = true → (s.rd a).toNat ≠ 5 → ∃ t, exec (.hinfo c d a h) s = .next t ∧ t.rd d = 0 ∧ t.h.gone = true ∧
        t = { u with h := { u.h.onward with s := t.h.s, gone := true } }))

/-- R210, R213 to R215, R80, R84, R323: HNEW, BALLOC, BFREE, BFORK, BCOW, BMAP, BTLEN and BREL complete: the object made
and the slot that holds it, the lowest free block, -1 where nothing is free, and the table operations performed. The
model's choices: Where a table goes in the arena is a free choice (log 15), and BFORK without table space answers -1
by inference (log 37). -/
def Obligations.BlockInstructions : Prop :=
  ∀ c d a b h g (s : State), Ready s →
    let w := s.noteCv c
    let v := s.rd a
    let q := s.pool s.partNo v.toNat
    (∀ u r op, badAttributes s v = false →
      op = Eng.makePaged s.h.space (bits v.toNat 3 2) (bits v.toNat 0 3) (bits v.toNat 16 16 + 1) (bits v.toNat 8 6)
        (bits v.toNat 32 5) 0 ((bits v.toNat 16 16 + 1) * (s.pool s.partNo (bits v.toNat 8 6)).bs)
        (List.replicate (bits v.toNat 16 16 + 1) emptyBlock) →
      Performed w u (Eng.madeFor s.h.space (s.slot h) op) r →
      ∃ t, exec (.hnew c d a h) s = .next t ∧ (∀ e, e ≠ d → t.rd e = s.rd e) ∧
        t = { u with h := { u.h.onward with s := t.h.s, slots := t.h.slots } } ∧
        (r = none → t.slot h = u.slot h ∧ t.rd d = if d = 0 then 0 else BitVec.ofInt 64 (-1)) ∧
        (∀ i gen, r = some (i, gen) → t.slot h = some (s.bindingOf false gen i none) ∧
          t.rd d = (if d = 0 then 0 else BitVec.ofNat 64 (gen.toNat * 2 ^ 48 + i.toNat)) ∧
          (s.slot h = none → let e := t.entry (s.h.space.entryAt i)
            e.state = 1 ∧ e.scount = 1 ∧ e.wcount = 0 ∧ e.paged = true ∧ e.blk = true ∧ e.gen = gen ∧
            e.prio = bits v.toNat 0 3 ∧ e.policy = bits v.toNat 3 2 ∧
            e.length = (bits v.toNat 16 16 + 1) * (s.pool s.partNo (bits v.toNat 8 6)).bs))) ∧
    (∀ u r, v.toNat ≤ 63 → q.en = true → Performed w u (Eng.takeBlock v.toNat) r →
      ∃ t, exec (.balloc c d a) s = .next t ∧ (∀ e, e ≠ d → t.rd e = s.rd e) ∧
        t = { u with h := { u.h.onward with s := t.h.s }, parts := t.parts } ∧
        (r = none → (∀ n < q.nblk, s.physNat (q.cnt + 4 * n) 4 ≠ 0) ∧ t.rd d = if d = 0 then 0 else BitVec.ofInt 64 (-1)) ∧
        (∀ n, r = some n → n < q.nblk ∧ s.physNat (q.cnt + 4 * n) 4 = 0 ∧
          (∀ i < n, s.physNat (q.cnt + 4 * i) 4 ≠ 0) ∧ t.rd d = (if d = 0 then 0 else BitVec.ofNat 64 n) ∧
          (t.part s.partNo).balloc.get none (ballocKey v.toNat n) = some s.h.space.asid ∧
          (q.addr + 16 ≤ q.cnt + 4 * n ∨ q.cnt + 4 * n + 4 ≤ q.addr →
            s.badIn [(.phys (q.cnt + 4 * n), 4)] = [] → t.physNat (q.cnt + 4 * n) 4 = 1))) ∧
    (∀ u, badFree s v.toNat (s.rd b).toNat = false → Performed w u (Eng.decCount v.toNat (s.rd b).toNat) () →
      ∃ t, exec (.bfree c a b) s = .next t ∧ t = { u with h := u.h.onward, parts := t.parts } ∧
        (t.part s.partNo).balloc.get none (ballocKey v.toNat (s.rd b).toNat) = none ∧
        (q.addr + 16 ≤ q.cnt + 4 * (s.rd b).toNat ∨ q.cnt + 4 * (s.rd b).toNat + 4 ≤ q.addr →
          t.physNat (q.cnt + 4 * (s.rd b).toNat) 4 + 1 = s.physNat (q.cnt + 4 * (s.rd b).toNat) 4)) ∧
    (∀ x e t0, PagedSlot s h x e t0 → ∀ u r,
      Performed w u (Eng.madeFor s.h.space (s.slot g) (Eng.ofTable e t0 (Eng.forkTable s.h.space e t0))) r →
      (s.forkFull (s.pool s.partNo t0.pool) (s.blocksOf t0) = true → r = none ∧ OnlyChecks w u) ∧
      ∃ t, exec (.bfork c d h g) s = .next t ∧ (∀ k, k ≠ d → t.rd k = s.rd k) ∧
        t = { u with h := { u.h.onward with s := t.h.s, slots := t.h.slots } } ∧
        (r = none → t.rd d = if d = 0 then 0 else BitVec.ofInt 64 (-1)) ∧
        (∀ i gen, r = some (i, gen) → t.slot g = some (s.bindingOf false gen i none) ∧
          t.rd d = if d = 0 then 0 else BitVec.ofNat 64 (gen.toNat * 2 ^ 48 + i.toNat))) ∧
    (∀ x e t0, PagedSlot s h x e t0 →
      (∀ u r, v.toNat < t0.entries → Performed w u (Eng.ofTable e t0 (Eng.cow t0 v.toNat)) r →
        (s.mapped t0 v.toNat = none → r = 0 ∧ OnlyChecks w u) ∧
        ∃ t, exec (.bcow c d a h) s = .next t ∧ Answers s u t d (BitVec.ofInt 64 r)) ∧
      (∀ u, v.toNat < t0.entries → (s.rd b).toNat < (s.pool s.partNo t0.pool).nblk →
        s.physNat ((s.pool s.partNo t0.pool).cnt + 4 * (s.rd b).toNat) 4 ≠ 0 →
        Performed w u (Eng.ofTable e t0 (Eng.mapBlock t0 v.toNat (s.rd b).toNat)) () →
        exec (.bmap c h a b) s = .next { u with h := u.h.onward }) ∧
      (∀ u n, v = BitVec.allOnes 64 → Performed w u (Eng.ofTable e t0 (Eng.fill t0 none)) n →
        n = t0.fill ∧ OnlyChecks w u ∧ ∃ t, exec (.btlen c d a h) s = .next t ∧ Answers s u t d (BitVec.ofNat 64 t0.fill)) ∧
      (∀ u n, v.toNat ≤ t0.entries * ((s.pool s.partNo t0.pool).bs / 2 ^ t0.rowlog) → v ≠ BitVec.allOnes 64 →
        Performed w u (Eng.ofTable e t0 (Eng.fill t0 (some v.toNat))) n →
        ∃ t, exec (.btlen c d a h) s = .next t ∧ Answers s u t d (BitVec.ofNat 64 t0.fill) ∧
          (s.badIn [(.phys (t0.addr + 8), 4)] = [] → t.physNat (t0.addr + 8) 4 = v.toNat % 2 ^ 32)) ∧
      (∀ u, Performed w u (Eng.ofTable e t0 (Eng.emptyTable t0)) () → exec (.brel c h) s = .next { u with h := u.h.onward }))

/-- R86 to R90, R216 to R219: EXBIND binds a resident expert and parks tokens for an absent one, EXPOLL takes the set that
is ready first or answers -1, EXREL gives a binding up, EXPIN and EXSTAT answer with the expert's state. The model's
choices: That EXPOLL looks at the tokens of its own address space is the model's reading (log 33). -/
def Obligations.ExpertInstructions : Prop :=
  ∀ c d a b m h (s : State), Ready s →
    let w := s.noteCv c
    let e := (s.rd a).toNat
    let sp := s.h.space
    let x := s.expert (sp.expertAt e)
    let bind := s.bindingOf false (valGen x.handle) (valIndex x.handle) (some e)
    let tokens := s.newTokens e m.toNat
    let at1 (t u : State) : Prop := ∀ k, k ≠ d → t.rd k = u.rd k
    (∀ u sat, e < sp.ertSize → 2 ≤ x.state → PerigeeDoes w u (Eng.exbindHit x bind (s.slot h)) sat →
      ∃ t, exec (.exbind c d a m h) s = .next t ∧ t.slot h = some bind ∧ t.rd d = (if d = 0 then 0 else 1) ∧ at1 t u ∧
        t.h.fcsr = (u.h.fcsr ||| if sat then 32 else 0) ∧
        t = { u with h := { u.h.onward with s := t.h.s, slots := t.h.slots, fcsr := t.h.fcsr } }) ∧
    (∀ u sat, e < sp.ertSize → x.state < 2 → (tokens = [] ∨ (s.clu s.clNo).tokens.length + tokens.length ≤ 4096) →
      PerigeeDoes w u (Eng.exbindMiss sp e x) sat →
      ∃ t, exec (.exbind c d a m h) s = .next t ∧ t.rd d = 0 ∧ at1 t u ∧
        (t.clu s.clNo).tokens = (u.clu s.clNo).tokens ++ tokens ∧ (∀ k, k ≠ s.clNo → t.clu k = u.clu k) ∧
        t.h.fcsr = (u.h.fcsr ||| if sat then 32 else 0) ∧
        t = { u with h := { u.h.onward with s := t.h.s, fcsr := t.h.fcsr }, clusters := t.clusters }) ∧
    (s.rd a = BitVec.allOnes 64 ∨ e < sp.ertSize → ∀ l, l = s.readySet (if s.rd a = BitVec.allOnes 64 then none else some e) →
      (l = [] → ScalarRuns (.expoll c d a m h) s c d (BitVec.ofInt 64 (-1)) 0) ∧
      (∀ k r u v, l = k :: r → PerigeeDoes w u (Eng.takeReady sp k.expert (s.slot h)) v →
        ∃ t, exec (.expoll c d a m h) s = .next t ∧ t.rd d = (if d = 0 then 0 else BitVec.ofNat 64 k.expert) ∧ at1 t u ∧
          t.slot h = some (s.bindingOf false (valGen v) (valIndex v) (some k.expert)) ∧
          (m ≠ 0 → ∀ i, t.maskBit m.toNat i = decide (i ∈ l.map (·.elem))) ∧
          (∀ y, y ∈ (t.clu s.clNo).tokens ↔ y ∈ (u.clu s.clNo).tokens ∧ y ∉ l) ∧
          t = { u with h := { u.h.onward with s := t.h.s, slots := t.h.slots, m := t.h.m }, clusters := t.clusters })) ∧
    (∀ y u, s.slot h = some y → y.expert.isSome = true → Performed w u (Eng.release y) () →
      exec (.exrel c h) s = .next { u with h := { u.h.onward with slots := u.h.slots.set none h.toNat none } }) ∧
    (e < sp.ertSize → (s.rd b).toNat ≤ 1 →
      (∀ u n, PerigeeDoes w u (Eng.pinExpert sp e (s.rd b = 1)) n → ∃ t, exec (.expin c d a b) s = .next t ∧
        t.rd d = (if d = 0 then 0 else BitVec.ofNat 64 n) ∧ at1 t u ∧ t = { u with h := { u.h.onward with s := t.h.s } }) ∧
      (∀ u v, PerigeeDoes w u (Eng.expertWord sp e (s.rd b = 1)) v → ∃ t, exec (.exstat c d a b) s = .next t ∧
        v = BitVec.ofNat 64 (x.state + x.bcount * 2 ^ 16 + x.binds * 2 ^ 32 + x.misses * 2 ^ 48) ∧
        t.rd d = (if d = 0 then 0 else v) ∧ at1 t u ∧ t = { u with h := { u.h.onward with s := t.h.s } } ∧
        (s.rd b = 0 → ∀ l, t.byteAt l = s.byteAt l)))

/-! ## Engine transfers -/

/-- R220 to R225, R112: a copy within the package whose ends are good moves the bytes its source held before it to its
destination, whether or not the ends overlap; a fill writes its pattern; a push to a peer is put in flight with the
source's bytes; VPREF changes nothing. No other byte changes. The model's choices: That VPREF sets not even an
accessed bit is the model's reading (log 31), and that of the engine instructions a push alone starts behind earlier
pushes, eight at most, is its choice (log 10). -/
def Obligations.EngineTransfers : Prop :=
  ∀ c (s : State), s.h.resuming = false →
    let v := s.issued c .en
    (∀ g a o, EngineReady s c → exec (.vpref c g a o) s = .next { v with h := v.h.onward }) ∧
    (∀ h d a p l u u' m found, EngineReady s c → v.checks h .store (fun w e =>
        Side.elems { slot := h, stream := none, off := (s.rd d).toInt } s.g w e) = (.ok p, l, u) →
      p.elems l [] u = (found, none, m, u') → u'.bad = [] →
      ∃ t, exec (.xfill c h d a) s = .next t ∧ Translated v u' ∧ t.h = v.h.moved ∧
        (∀ x, x ∉ bytesAt found → t.byteAt x = u'.byteAt x) ∧
        ((bytesAt found).Nodup → ∀ y ∈ found, ∀ x ∈ bytesOf y.2, t.byteAt x =
          BitVec.ofNat 8 ((s.rd a).toNat >>> (8 * ((alignBase p.ent + y.1.off.toNat) % 8))))) ∧
    (∀ h g d a o x y m u, EngineReady s c → BothEnds v u (encode (.xcopy c h g d a o)) .copyTo (o.getLsbD 0) (o.getLsbD 1) h g d a m x y →
      m.src.ent.space ≠ 3 → m.dst.ent.space ≠ 3 →
      ∀ both w, both = m.shared s.clNo →
      ((m.linear = true ∨ both = []) ∧ w = u ∨ (m.linear = false ∧ both ≠ [] ∧ s.h.restart = Restart.none ∧
        ∃ k, Performed u w (Eng.arenaTake ((both.length + 255) / 256 * 256)) (some k))) →
      ∀ order, order = (fun l : List Elem => if m.descends s.clNo then l.reverse else l) →
      ∀ xs ys u1 u2 m1 m2, m.src.elems (order m.sl) [] w = (xs, none, m1, u1) →
        m.dst.elems (order m.dl) [] u1 = (ys, none, m2, u2) → xs.length = ys.length → u2.bad = [] →
        ∃ t, exec (.xcopy c h g d a o) s = .next t ∧ Translated v u ∧ t.h = v.h.moved ∧
          t = { u2 with h := t.h, mem := t.mem, clusters := t.clusters, parts := t.parts } ∧
          (∀ z, z ∉ bytesAt ys → t.byteAt z = u2.byteAt z) ∧
          ((bytesAt ys).Nodup → (bytesAt ys).map t.byteAt = (bytesAt xs).map u2.byteAt)) ∧
    (∀ h g d a o x y m u f uf, s.runnable = true → (c = true ∨ Path.en.no ∉ s.h.convoy) → s.h.xfers.length < 8 →
      (∀ y ∈ s.h.xfers, y.push = true ∧ y.refused = none ∧ y.tag ≠ s.h.restart.tag.getD (BitVec.ofNat 32 s.pkg.nextTag)) →
      o ≠ 1 ∨ d ≠ 63 ∧ (s.rd (d + 1)).extractLsb' 4 4 = 0 →
      BothEnds v u (encode (.xpush c h g d a o)) .pushTo true true h g d a m x y → m.src.ent.space ≠ 3 →
      (if o = 1 then ∃ k, f = some k ∧ u.pushFlag (s.rd (d + 1)) m.dst.ent.peer = (.ok k, uf) else f = none ∧ uf = u) →
      ∀ up, uf.peerOpen m.dst.ent y.slot Want.store = (none, up) →
      ∀ from_ m1 u1, m.src.elems m.sl [] up = (from_, none, m1, u1) → u1.bad = [] →
        ∃ t r, exec (.xpush c h g d a o) s = .next t ∧ t.h = { v.h.moved with xfers := s.h.xfers ++ [r] } ∧ r.push = true ∧
          r.peer = m.dst.ent.peer ∧ r.peerh = m.dst.ent.peerh ∧ r.total = from_.length ∧ r.moved = 0 ∧ r.flag = f ∧
          r.payload = (bytesAt from_).map u1.byteAt ∧ t.pkg.nextTag = s.pkg.nextTag + 1 ∧
          (∀ z, t.byteAt z = u1.byteAt z))

/-! ## Events between instructions -/

/-- R298, R22, R24, R27, R42, R171: standby switches and quantum expiries move slots to waiting harts; a parked VWAIT,
HWAIT, WFI or VSETVLG wakes when its condition holds and receives what it waited for. An event that is not due changes
nothing. The model's choices: That an event that is not due changes nothing (log 41), and that the head of the queue
takes the lowest-numbered slot that suffices it (log 48), are the model's choices. -/
def Obligations.HartsAreScheduled : Prop :=
  ∀ s : State,
    (∀ cl, (s.switchable cl.toNat = [] → exec (.standbySwitch cl) s = .next s) ∧
      (s.switchable cl.toNat ≠ [] → ∃ t, ∃ k ∈ s.switchable cl.toNat, exec (.standbySwitch cl) s = .next t ∧ Rescheduled s t ∧
        (k ∉ (s.clu cl.toNat).ready → (t.hart k).life = .standby) ∧
        HeadRuns s (s.modHart k fun h => { h with life := .standby }) t cl.toNat)) ∧
    (∀ k, (s.quantumOver k.toNat = false → exec (.quantumExpiry k) s = .next s) ∧
      (s.quantumOver k.toNat = true → ∃ t, exec (.quantumExpiry k) s = .next t ∧ Rescheduled s t ∧
        (k.toNat ∉ (s.clu (k.toNat / 16)).ready → HeadRuns s (s.modHart k.toNat fun h => { h with life := .standby }) t (k.toNat / 16)))) ∧
    (∀ k, (s.waitMet k.toNat = true → ∃ t, exec (.vwaitWake k) s = .next t ∧ Woken s t k.toNat) ∧
      (s.waitMet k.toNat = false → exec (.vwaitWake k) s = .next s)) ∧
    (∀ k, (∀ hid, (s.hart k.toNat).park = some (.hwait hid) → s.waitOver (k.toNat / 16) hid = true →
        ∃ t, exec (.hwaitWake k) s = .next t ∧ Woken s t k.toNat) ∧
      (s.hwaitMet k.toNat = false → exec (.hwaitWake k) s = .next s)) ∧
    (∀ k, ((s.hart k.toNat).park = some .wfi → ∃ t, exec (.wfiWake k) s = .next t ∧ Woken s t k.toNat) ∧
      ((s.hart k.toNat).park ≠ some .wfi → exec (.wfiWake k) s = .next s)) ∧
    (∀ k sd rows cols since, (s.hart k.toNat).park = some (.grant sd rows cols since) →
      let given (t : State) : Prop := (t.hart k.toNat).park = none ∧ (t.hart k.toNat).granted = true ∧
        (sd ≠ 0 → sd ≠ 63 → (t.hart k.toNat).s.get 0 sd.toNat = BitVec.ofNat 64 (t.hart k.toNat).vlr ∧
          (t.hart k.toNat).s.get 0 (sd.toNat + 1) = BitVec.ofNat 64 (t.hart k.toNat).vlc) ∧
        (∀ x, t.byteAt x = s.byteAt x)
      (s.grantFor k.toNat true = none → exec (.vsetvlgWake k) s = .next s) ∧
      (s.grantFor k.toNat true ≠ none → ∃ t, exec (.vsetvlgWake k) s = .next t ∧ given t) ∧
      (s.grantLate k.toNat = false → exec (.vsetvlgTimeout k) s = .next s) ∧
      (s.grantLate k.toNat = true → ∃ t, exec (.vsetvlgTimeout k) s = .next t ∧ given t))

/-- R282 to R284, R318, R343, R369 to R371, R299, R11: interrupts, traps and machine checks enter their handlers; a
pre-empted hart goes to Saved with its frame, a resumed one stands at its frame's pc, an ended one is free; an image's
handles lose KEEP once no hart is left. The model's choices: The order in which pending traps are taken and that a
pre-emption waits for machine checks (log 35, log 36), that an entry ends the convoy (log 47), and that
IMAGE_KEEP_CLEAR with harts left changes nothing (log 41) are the model's choices. -/
def Obligations.TrapsAndPreemption : Prop :=
  (∀ (s : State) k code val l, s.interruptible k.toNat = true → let v := s.switchTo k.toNat
    v.h.intr = (code, val) :: l → v.h.stvec ≠ 0 →
    ∀ u r, (v.mod fun h => { h with intr := l }).writeFrame 1 v.h.sframe v.h.pc v.h.startOf = (.ok u, r) →
      ∃ t : State, exec (.interruptTaken k) s = .next (t.switchTo s.cur) ∧ SupEntered u t true false (BitVec.ofNat 8 code) val ∧
        t.h.intr = l) ∧
  (∀ (s : State) vec code val, s.runnable = true → userCode code = true → s.h.xfers = [] →
    exec (.userTrap vec code val) s = .next (s.userTrap vec code val s.h.pc s.h.startOf) ∧
    (s.h.sup = false → s.h.utvec ≠ 0 → s.h.ucause.getLsbD 63 = false → ∀ u r,
      s.writeFrame 0 s.h.uframe s.h.pc s.h.startOf = (.ok u, r) →
      ∃ t, exec (.userTrap vec code val) s = .next t ∧ UserEntered u t vec code val)) ∧
  (∀ (s : State) vec val x, s.runnable = true → s.refusedXfer val = some x →
    exec (.userTrap vec 16 val) s = .next (s.deliverRefusal x vec val)) ∧
  (∀ (s : State) int code val, s.runnable = true → (int = true → s.h.sup = false) → s.h.stvec ≠ 0 →
    (s.h.sup = true → ∃ t, exec (.trapToSupervisor int code val) s = .next t ∧
      SupEntered { s with h := { s.h with frameFault := none } } t int true code val) ∧
    (s.h.sup = false → ∀ u r, (s.mod fun h => { h with frameFault := none }).writeFrame 1 s.h.sframe s.h.pc s.h.startOf =
      (.ok u, r) → ∃ t, exec (.trapToSupervisor int code val) s = .next t ∧ SupEntered u t int false code val)) ∧
  (∀ (s : State) k source addr elem, s.ready k.toNat = true → (s.hart k.toNat).stvec ≠ 0 →
    ∃ t : State, exec (.machineCheck k source addr elem) s = .next (t.switchTo s.cur) ∧
      (∃ r l, (t.part (k.toNat / 384)).log = r :: l ∧ r.source = source ∧ r.kind = 1 ∧ r.extra = elem ∧
        r.value = addr.zeroExtend 64) ∧
      (t.part (k.toNat / 384)).logHead = (s.part (k.toNat / 384)).logHead + 1 ∧
      ((s.hart k.toNat).sup = true → t.h.scause = BitVec.ofNat 64 (2 ^ 62 + 13) ∧ t.h.sval = source ++ addr ∧
        t.h.pc = (s.hart k.toNat).stvec ∧ 
        t.h.checks = (s.hart k.toNat).checks.eraseP fun x => x.1 && x.2.1 = source && x.2.2.1 = addr && x.2.2.2.1 = elem)) ∧
  (∀ (s : State) k, s.stands k.toNat = true → let v := s.switchTo k.toNat
    (v.h.sup = true ∨ v.h.checks ≠ [] → exec (.preemptToSaved k) s =
      .next (s.modHart k.toNat fun h => { h with savePending := true })) ∧
    (v.h.sup = false → v.h.checks = [] →
      (∀ u r, v.writeFrame 3 v.h.sframe v.h.pc v.h.startOf = (.ok u, r) → FrameMade v u 3 v.h.pc ∧
        ∃ t, exec (.preemptToSaved k) s = .next t ∧ (t.hart k.toNat).life = .saved ∧ (t.hart k.toNat).xfers = [] ∧
          t.pkg = u.pkg ∧ (∀ x, t.byteAt x = u.byteAt x)) ∧
      (∀ page u, v.writeFrame 3 v.h.sframe v.h.pc v.h.startOf = (.error page, u) →
        ∃ t, exec (.preemptToSaved k) s = .next t ∧ (t.hart k.toNat).frameFault = some page ∧
          (t.hart k.toNat).life = v.h.life))) ∧
  (∀ (s : State) k, (s.hart k.toNat).life = .saved → let v := s.switchTo k.toNat
    (∀ f u, v.readFrame [3] false v.h.sframe = (.good f, u) → ∃ t, exec (.partcfgResume k) s = .next t ∧
      (t.hart k.toNat).pc = f.pc ∧ ((t.hart k.toNat).life = .active ∨ (t.hart k.toNat).life = .standby) ∧
      (∀ x, t.byteAt x = u.byteAt x)) ∧
    (∀ u, v.readFrame [3] false v.h.sframe = (.bad, u) → ∃ t, exec (.partcfgResume k) s = .next t ∧
      (t.hart k.toNat).life = .saved) ∧
    (∃ t, exec (.endSaved k) s = .next t ∧ (t.hart k.toNat).life = .free ∧ (t.hart k.toNat).hgen = (s.hart k.toNat).hgen)) ∧
  (∀ (s : State) k, (s.hart k.toNat).life ≠ .saved →
    exec (.partcfgResume k) s = .next s ∧ exec (.endSaved k) s = .next s) ∧
  (∀ (s : State) p, (s.liveIn p.toNat ≠ [] → exec (.imageKeepClear p) s = .next s) ∧
    (s.liveIn p.toNat = [] → ∃ t, exec (.imageKeepClear p) s = .next t ∧ (t.part p.toNat).image = [] ∧
      (∀ k, t.hart k = { s.hart k with slots := (t.hart k).slots }) ∧ t.clusters = s.clusters))

/-! ## Power, boot and security -/

/-- R294, R296, R297, R374: a power window moves the duty by the cap, a group that no grant holds may lose its clock or
its power, an over-temperature holds the duty at 4 until it ends, and a thermal trip stops the clocks with every
partition off. The model's choices: When lane groups lose clock and power is an input (log 1); that THERMTRIP leaves
BOOTSTAT as it is and puts every partition off is its choice (log 19). -/
def Obligations.PowerAndHeat : Prop :=
  ∀ s : State,
    (∀ p watts, let x := s.part p.toNat
      let cap := bits x.pcap.toNat 0 16
      ∃ t, exec (.powerWindow p watts) s = .next t ∧ t = s.modPart p.toNat (fun y => { y with duty := (t.part p.toNat).duty }) ∧
        (t.part p.toNat).duty = if x.hot then 4 else if x.pcap.getLsbD 16 = false then 16
          else if cap < watts.toNat then max 4 (x.duty - 1)
          else if 100 * watts.toNat < 95 * cap then min 16 (x.duty + 1) else x.duty) ∧
    (∀ cl g, s.groupHeld cl.toNat g.toNat = true →
      exec (.laneClockGate cl g) s = .next s ∧ exec (.lanePowerGate cl g) s = .next s) ∧
    (∀ cl g, s.groupHeld cl.toNat g.toNat = false →
      (∃ t, exec (.laneClockGate cl g) s = .next t ∧ (t.clu cl.toNat).gates.get .on g.toNat =
        (if (s.clu cl.toNat).gates.get .on g.toNat = .powerGated then .powerGated else .clockGated) ∧
        t = { s with clusters := t.clusters } ∧ ∀ c, t.clu c = { s.clu c with gates := (t.clu c).gates }) ∧
      (∃ t, exec (.lanePowerGate cl g) s = .next t ∧ (t.clu cl.toNat).gates.get .on g.toNat = .powerGated ∧
        t = { s with clusters := t.clusters } ∧ ∀ c, t.clu c = { s.clu c with gates := (t.clu c).gates })) ∧
    (∀ p, exec (.thermalThrottle p) s = .next (s.modPart p.toNat fun x => { x with hot := true, duty := 4 }) ∧
      exec (.thermalRecover p) s = .next (s.modPart p.toNat fun x =>
        { x with hot := false, duty := if x.pcap.getLsbD 16 = false then 16 else x.duty })) ∧
    (∃ t, exec .thermtrip s = .next t ∧ t.pkg.clocks = false ∧ t.pkg.thermtrip = true ∧ (∀ p < 8, (t.part p).state = 0 ∧ (t.part p).requests = []) ∧
      t.pkg.bootstat = s.pkg.bootstat)

/-- R355 to R357: rails rise in order, PERST# released with every rail in range presents PF0 at BOOTSTAT 1, and a rail
that leaves its range or is removed in order resets the package: registers, device memory and links as at package
reset, the fuses, host memory and the tier kept. The model's choices: What the removal of one rail does to what is
kept is partly the model's (log 19). -/
def Obligations.RailsAndReset : Prop :=
  ∀ s : State,
    (∀ rail, rail.toNat ≤ 10 → (∀ r < rail.toNat, s.inRange r = true) → ∃ t, exec (.railRaise rail) s = .next t ∧
      t.railUp rail.toNat = true ∧ (∀ r, r ≠ rail.toNat → t.railUp r = s.railUp r) ∧
      t = { s with pkg := { s.pkg with rails := t.pkg.rails, retention := t.pkg.retention } }) ∧
    (∀ rail, 10 < rail.toNat ∨ (∃ r < rail.toNat, s.inRange r = false) → exec (.railRaise rail) s = .next s) ∧
    (s.pkg.perst = true → (∀ r ≤ 10, s.inRange r = true) → ∃ t, exec .perstRelease s = .next t ∧ t.pkg.bootstat = 1 ∧
      t.pkg.perst = false ∧ t = { s with pkg := t.pkg }) ∧
    (s.pkg.perst = false ∨ (∃ r ≤ 10, s.inRange r = false) → exec .perstRelease s = .next s) ∧
    (∀ rail i, i = Instr.railOutOfRange rail ∨ (i = .railRemove rail ∧ (∀ q ≤ 10, rail.toNat < q → s.railUp q = false) ∧
        (s.off (rail.toNat - 3) = false ∨ rail.toNat < 3 ∨ s.pkg.clocks = false ∨ s.pkg.retention.get false rail.toNat = true)) →
      s.railUp rail.toNat = true → ∃ t, exec i s = .next t ∧ t.railUp rail.toNat = false ∧ t.h = State.reset.h ∧
        t.harts = State.reset.harts ∧ t.clusters = State.reset.clusters ∧ t.parts = State.reset.parts ∧
        t.pkg.bootstat = State.reset.pkg.bootstat ∧ t.pkg.ports = State.reset.pkg.ports ∧ t.pkg.acl = State.reset.pkg.acl ∧
        t.pkg.frames = [] ∧ t.pkg.minsvn = s.pkg.minsvn ∧ t.pkg.raises = s.pkg.raises ∧
        (∀ a < 2 ^ 54, t.byteAt (.phys a) = State.reset.byteAt (.phys a)) ∧
        (∀ a, 2 ^ 54 ≤ a → t.byteAt (.phys a) = s.byteAt (.phys a))) ∧
    (∀ rail, s.railUp rail.toNat = false → exec (.railOutOfRange rail) s = .next s ∧ exec (.railRemove rail) s = .next s) ∧
    (∀ rail, 3 ≤ rail.toNat → s.railUp rail.toNat = true → s.pkg.clocks = true → s.off (rail.toNat - 3) = true →
      s.pkg.retention.get false rail.toNat = false → ∃ t, exec (.railRemove rail) s = .next t ∧
        t = { s with pkg := { s.pkg with retention := t.pkg.retention } } ∧ t.pkg.retention.get false rail.toNat = true)

/-- R360, R358: the ROM refuses an image of a bad size with 8, one it cannot read with 12 and one that fails a check with
that check's code; a good one is run at BOOTSTAT 3, its SVN kept and MFW extended by its digest. R361, R365: the
security version and the report. R367, R371: a scrub logs every uncorrectable error it finds, once, for no hart. The
model's choices: How the ROM reads the image is partly the model's (log 21); which errors lie in the LLC is free, and
of several partitions that hold a stack the first logs (log 22). -/
def Obligations.BootCommands : Prop :=
  ∀ s : State, s.pkg.clocks = true →
    (s.pkg.bootstat ≠ 0 → s.pkg.bootstat ≠ 2 →
      let n := s.pkg.imgsize.toNat
      let keys := (List.range 4).filterMap Config.fusedKey
      (n < 512 ∨ 2 ^ 21 < n → exec .loadImage s = .next { s with pkg := { s.pkg with bootstat := 8 } }) ∧
      (512 ≤ n → n ≤ 2 ^ 21 → s.hostBytes s.pkg.imgaddr.toNat n = none →
        exec .loadImage s = .next { s with pkg := { s.pkg with bootstat := 12 } }) ∧
      (512 ≤ n → n ≤ 2 ^ 21 → ∀ img, s.hostBytes s.pkg.imgaddr.toNat n = some img →
        (∀ e, imageFault 0 keys s.pkg.minsvn.toNat img = some e → ∃ t, exec .loadImage s = .next t ∧ t.pkg.bootstat = e ∧
          t.pkg.mfw = s.pkg.mfw ∧ t.pkg.svn = s.pkg.svn) ∧
        (imageFault 0 keys s.pkg.minsvn.toNat img = none → ∃ t, exec .loadImage s = .next t ∧ t.pkg.bootstat = 3 ∧
          t.pkg.mfw = Shake.shake256 (s.pkg.mfw ++ digest img) 64 ∧
          t.pkg.svn = BitVec.ofNat 32 (leNat ((img.drop 16).take 4)) ∧ t.pkg.minsvn = s.pkg.minsvn))) ∧
    (s.pkg.bootstat = 3 ∨ s.pkg.bootstat = 4 →
      (s.pkg.minsvn < s.pkg.svn → s.pkg.raises < 64 → ∃ t, exec .commitSecurityVersion s = .next t ∧
        t.pkg.minsvn = s.pkg.svn ∧ t.pkg.raises = s.pkg.raises + 1 ∧ t.pkg.svn = s.pkg.svn) ∧
      (¬s.pkg.minsvn < s.pkg.svn ∨ 64 ≤ s.pkg.raises → exec .commitSecurityVersion s = .next s)) ∧
    (s.pkg.bootstat ≠ 0 → s.pkg.bootstat ≠ 2 → s.bad = [] → s.report.length = 896 → ∃ t, exec .attest s = .next t ∧
      t.raw [(.phys (2 ^ 54 + s.pkg.attaddr.toNat % 2 ^ 53), 896)] = s.report ∧
      (∀ a, a < 2 ^ 54 + s.pkg.attaddr.toNat % 2 ^ 53 ∨ 2 ^ 54 + s.pkg.attaddr.toNat % 2 ^ 53 + 896 ≤ a →
        t.byteAt (.phys a) = s.byteAt (.phys a)) ∧ t = { s with mem := t.mem }) ∧
    (∀ stack, ∀ x ∈ [(0, (6 : BitVec 8), Instr.dramScrub stack), (4, 4, .llcScrub stack)],
      ∃ t, exec x.2.2 s = .next t ∧ t.bad = s.bad ∧ (∀ l, t.byteAt l = s.byteAt l) ∧
        (∀ p, (∀ q, q < p → (s.part q).hbmStacks.getLsbD stack.toNat = false) → p < 8 →
          (s.part p).hbmStacks.getLsbD stack.toNat = true →
          let n := (s.badOf stack.toNat (· = x.1)).length
          (t.part p).logHead = (s.part p).logHead + n ∧
          ∀ r ∈ (t.part p).log.take n, r.kind = 1 ∧ r.source = x.2.1 ∧ r.hid = 0xFFFFFFFF))

/-! ## Heap records, messages and page-ins -/

/-- R302 to R307, R335, R336: records from the host are applied or dropped with their reason; a flag that is met makes a
request eligible; a message reaches the hart it names, and takes the place of one not yet delivered, or is counted as
lost. The model's choices: That the engine's heap accesses meet no access table (log 32), and that HEAP_CANCEL of a
record whose OP is not 1 and HEAP_RETIRE of one whose OP is not 2 change nothing (log 41), are the model's choices. -/
def Obligations.HeapRecordsAndMessages : Prop :=
  ∀ s : State,
    (∀ p size off r m, s.presented = false → exec (.heapInsert p size off r) s = .next s ∧
      exec (.heapCancel p r) s = .next s ∧ exec (.heapRetire p r) s = .next s ∧ exec (.hostMessage p m) s = .next s) ∧
    (∀ p size off r, s.presented = true → ((size ≠ 64 ∨ off.toNat % 64 ≠ 0) → ∃ t, exec (.heapInsert p size off r) s = .next t ∧ Dropped s t p.toNat 1) ∧
      (size = 64 → off.toNat % 64 = 0 → (s.part p.toNat).state ≠ 2 →
        ∃ t, exec (.heapInsert p size off r) s = .next t ∧ Dropped s t p.toNat 8)) ∧
    (∀ p off r, s.presented = true → off.toNat % 64 = 0 → (s.part p.toNat).state = 2 →
      let v := s.within p.toNat
      let x := Record.ofBits r
      (2 < x.op → ∃ t, exec (.heapInsert p 64 off r) s = .next t ∧ Dropped s t p.toNat 2) ∧
      (x.op = 0 → ∀ n, v.insertFault x = some n → ∃ t, exec (.heapInsert p 64 off r) s = .next t ∧ Dropped s t p.toNat n) ∧
      (x.op = 0 → v.insertFault x = none → ∃ t, exec (.heapInsert p 64 off r) s = .next t ∧
        (t.part p.toNat).accepted = (s.part p.toNat).accepted + 1 ∧
        (t.part p.toNat).rejected = (s.part p.toNat).rejected ∧
        (∃ y ∈ (t.part p.toNat).requests, y.index = x.index ∧ y.deadline = x.deadline ∧ y.cost = x.cost ∧
          y.order = (s.part p.toNat).inserted ∧ y.cancel = false ∧ (y.state = 1 ∨ y.state = 2) ∧
          (x.flagen.toNat % 2 = 0 → y.state = 2)) ∧
        (∀ y ∈ (s.part p.toNat).requests, y.index ≠ x.index → y ∈ (t.part p.toNat).requests)) ∧
      (∀ i, i = Instr.heapCancel p r ∧ x.op = 1 ∨ i = .heapRetire p r ∧ x.op = 2 →
        (∀ n, v.controlFault x = some n → ∃ t, exec i s = .next t ∧ Dropped s t p.toNat n) ∧
        (v.controlFault x = none → ∃ t, exec i s = .next t ∧
          (t.part p.toNat).accepted = (s.part p.toNat).accepted + 1 ∧
          (∀ q, v.request x.index = some q → ∃ y ∈ (t.part p.toNat).requests, y.index = x.index ∧
            y.state = (if x.op = 1 then (if q.state = 1 ∨ q.state = 2 then 4 else q.state)
              else if q.state = 3 ∨ q.state = 4 then 5 else q.state) ∧
            y.cancel = (q.cancel || decide (x.op = 1 ∧ q.state = 3)))))) ∧
    (∀ p r, (Record.ofBits r).op ≠ 1 → exec (.heapCancel p r) s = .next s) ∧
    (∀ p r, (Record.ofBits r).op ≠ 2 → exec (.heapRetire p r) s = .next s) ∧
    (∀ p i x, (s.within p.toNat).request i = some x → x.state = 1 → x.met = true →
      ∃ t, exec (.requestEligible p i) s = .next t ∧ ∃ y ∈ (t.part p.toNat).requests, y.index = i ∧ y.state = 2) ∧
    (∀ p m, s.presented = true → let k := 384 * p.toNat + 16 * (m.extractLsb' 24 5).toNat + (m.extractLsb' 0 4).toNat
      let hit := (m.extractLsb' 24 5).toNat < 24 ∧ (s.hart k).life ≠ .free ∧ s.hidOf k = m.extractLsb' 0 20
      let x : Nat × Word := (1, m.extractLsb' 64 64)
      (hit → (s.hart k).intr.all (fun y => y.1 ≠ 1) = true → exec (.hostMessage p m) s =
        .next (s.modHart k fun h => { h with intr := h.intr ++ [x] })) ∧
      (hit → (s.hart k).intr.any (fun y => y.1 = 1) = true → ∃ t, exec (.hostMessage p m) s = .next t ∧
        (t.part p.toNat).msglost = (s.part p.toNat).msglost + 1 ∧
        (t.hart k).intr = (s.hart k).intr.map fun y => if y.1 = 1 then x else y) ∧
      (¬hit → exec (.hostMessage p m) s = .next (s.modPart p.toNat fun y => { y with msglost := y.msglost + 1 })))

/-- R325, R327, R328: the page-in at a port's head takes its entry and its blocks, lands once it has them all, is retried
once when its tier read fails and then given up; reclaim destroys the first candidate. Without one, nothing changes.
The model's choices: What a failed page-in leaves is partly the model's (log 34); that an event of a page-in or of
reclaim that is not due changes nothing is its choice (log 41). -/
def Obligations.PageInsAndReclaim : Prop :=
  ∀ s : State,
    (∀ port : BitVec 3, s.headPageIn port.toNat = none → exec (.pageInAllocate port) s = .next s ∧
      exec (.pageInLand port) s = .next s ∧ exec (.tierReadFail port) s = .next s) ∧
    (∀ port : BitVec 3, ∀ q, s.headPageIn port.toNat = some q →
      (s.pageInReady q = true → exec (.pageInAllocate port) s = .next s) ∧
      (s.pageInReady q = false → exec (.pageInLand port) s = .next s ∧ exec (.tierReadFail port) s = .next s) ∧
      (s.pageInReady q = false → ∀ r u, Eng.perigee s q.part (State.allocatePageIn q) = (some r, u) →
        ∃ t, exec (.pageInAllocate port) s = .next t ∧ t.headPageIn port.toNat = some r ∧ t = { u with pkg := t.pkg }) ∧
      (s.pageInReady q = true → q.retried = false → ∃ t, exec (.tierReadFail port) s = .next t ∧
        t.headPageIn port.toNat = some { q with retried := true } ∧ t = { s with pkg := t.pkg }) ∧
      (s.pageInReady q = true → q.retried = true → ∃ t, exec (.tierReadFail port) s = .next t ∧
        (∀ k ∈ s.tokenHarts q.part q.expert q.space.asid,
          (2, State.failedExpert q.expert q.space.asid) ∈ (t.hart k).intr) ∧
        (∀ c ∈ s.clustersFor q.part q.space.asid, ∀ y ∈ (t.clu c).tokens, ¬(y.space.asid = q.space.asid ∧ y.expert = q.expert))) ∧
      (s.pageInReady q = true → ∀ i a l u, q.alloc = some (i, a, l) →
        Eng.perigee s q.part (State.landPageIn q (s.tokenHarts q.part q.expert q.space.asid).length i a l.length) =
          (some (), u) → ∃ t, exec (.pageInLand port) s = .next t ∧ t = { u with pkg := t.pkg, clusters := t.clusters } ∧
        (s.pkg.pageq.get [] port.toNat = q :: t.pkg.pageq.get [] port.toNat) ∧
        (∀ c ∈ s.clustersFor q.part q.space.asid, ∀ y ∈ (t.clu c).tokens, y.space.asid = q.space.asid → y.expert = q.expert →
          y.ready = some s.cycles))) ∧
    (∀ p pool, s.nextCandidate p.toNat pool.toNat = none → exec (.reclaimDestroy p pool) s = .next s) ∧
    (∀ p pool sp i, s.nextCandidate p.toNat pool.toNat = some (sp, i) → sp.htSize ≤ 2 ^ 24 → ∃ t, exec (.reclaimDestroy p pool) s = .next t ∧
      (s.entry (sp.entryAt i)).state = 1 ∧ (s.entry (sp.entryAt i)).keep = false ∧ (s.entry (sp.entryAt i)).scount = 0 ∧
      t = Eng.quiet s p.toNat (Eng.destroy sp i))

/-! ## The host -/

/-- R334, R338, R350, R351, R356: a host access of device memory or of the tier that the tables allow reads or writes its
bytes and no others; one they deny, one outside memory or outside one decoder's range and a read that meets an error
do neither. An access-table entry reads as written, once PF0 is presented. R352, R356, R358: once PF0 is presented the
plain registers of the boot mailbox take what the host writes; a partition's descriptor takes it before the partition
runs, bit p of TPORTS staying set, and only there; a function other than a link's first one, and an offset of no
register, change nothing. The model's choices: How a host access ends that is denied or meets an error is the model's
record of it (log 39); that a descriptor write is ignored while the package is not in service is its reading (log 18). -/
def Obligations.HostAccessesAndRegisters : Prop :=
  (∀ (s : State) (fn : BitVec 5),
     let inDram (a : Nat) : Prop := ∃ x < 16, targetOf a = some x
     (∀ addr : BitVec 56, HostReaches s fn.toNat addr.toNat
       (fun n => inDram addr.toNat ∧ inDram (addr.toNat + n - 1)) fun w data => .hostMemAccess fn w addr data) ∧
     (∀ (addr : BitVec 56) w data, ¬inDram addr.toNat ∨ ¬inDram (addr.toNat + data.length - 1) →
       exec (.hostMemAccess fn w addr data) s = .next { s with pkg := { s.pkg with hostStatus := 1 } }) ∧
     (∀ (addr : BitVec 64) a, s.hdmTarget (fn.toNat / 9) addr.toNat = some a →
       HostReaches s fn.toNat a (fun n => s.hdmTarget (fn.toNat / 9) (addr.toNat + n - 1) = some (a + n - 1))
         fun w data => .hostTierAccess fn w addr data) ∧
     (∀ (addr : BitVec 64) w data, (∀ a, s.hdmTarget (fn.toNat / 9) addr.toNat = some a →
         s.hdmTarget (fn.toNat / 9) (addr.toNat + data.length - 1) ≠ some (a + data.length - 1)) →
       exec (.hostTierAccess fn w addr data) s = .next { s with pkg := { s.pkg with hostStatus := 1 } }) ∧
     (∀ (off : BitVec 32) w0 w1 t m e, off.toNat = 0x1000000 + t * 0x20000 + m * 128 + e * 16 → t < 154 → m < 1024 → e < 8 →
       assigned m = true → s.presented = true → ∃ u, exec (.accessTableWrite off true w0 w1) s = .next u ∧
         (let x := u.pkg.acl.get Access.reset (aclKey t m e)
          x.v = w0.getLsbD 0 ∧ x.r = w0.getLsbD 1 ∧ x.w = w0.getLsbD 2 ∧ x.a = w0.getLsbD 3 ∧
          (t < 24 ∨ 152 ≤ t → x.lo = bits w0.toNat 16 40 ∧ x.hi = bits w1.toNat 16 40) ∧
          (24 ≤ t → t < 152 → x.lo = bits w0.toNat 16 16 ∧ x.hi = bits w1.toNat 16 16)) ∧
         (∀ k, k ≠ aclKey t m e → u.pkg.acl.get Access.reset k = s.pkg.acl.get Access.reset k) ∧
         u = { s with pkg := { s.pkg with acl := u.pkg.acl } }) ∧
     (∀ (off : BitVec 32) wide w0 w1, s.presented = false ∨ off.toNat < 0x1000000 ∨ 154 ≤ (off.toNat - 0x1000000) / 0x20000 ∨
         assigned ((off.toNat - 0x1000000) / 128 % 1024) = false ∨ off.toNat % 8 ≠ 0 →
       exec (.accessTableWrite off wide w0 w1) s = .next s)) ∧
  (∀ (s : State) (fn : BitVec 5), fn.toNat % 9 = 0 → (s.presented = true →
     (∀ val : BitVec 256, let w := val.extractLsb' 0 64
       let writes (off : BitVec 32) (f : Package → Package) : Prop := ∃ t, exec (.hostRegisterWrite fn off 8 val) s = .next t ∧
         t = { s with pkg := { f s.pkg with ownerkeys := t.pkg.ownerkeys } } ∧
         ∀ i, t.pkg.ownerkeys.get (zeroes 32) i = s.pkg.ownerkeys.get (zeroes 32) i
       writes 0x10 (fun x => { x with imgaddr := w }) ∧ writes 0x18 (fun x => { x with imgsize := w }) ∧
       writes 0x20 (fun x => { x with attaddr := w }) ∧ writes 0x28 (fun x => { x with attmask := w })) ∧
     (∀ (p : Nat) (off : BitVec 32) val, p < 8 → off.toNat = 0x10000 + 0x1000 * p → s.inService = true →
       (s.part p).state ≤ 1 → ∃ t, exec (.hostRegisterWrite fn off 8 val) s = .next t ∧
         (t.part p).hbmStacks = val.extractLsb' 0 16 ∧ (t.part p).asidlo = val.extractLsb' 16 14 ∧
         (t.part p).asidhi = val.extractLsb' 32 14 ∧
         (t.part p).tports = (val.extractLsb' 48 8 ||| BitVec.ofNat 8 (2 ^ p)) ∧
         (t.part p).pools = (s.part p).pools ∧ (t.part p).state = (s.part p).state ∧
         (∀ q, q ≠ p → t.part q = s.part q) ∧ (∀ x, t.byteAt x = s.byteAt x)) ∧
     (∀ (p : Nat) (off : BitVec 32) val, p < 8 → off.toNat = 0x10000 + 0x1000 * p →
       s.inService = false ∨ 1 < (s.part p).state → exec (.hostRegisterWrite fn off 8 val) s = .next s)) ∧
     (s.presented = false → ∀ off size val, exec (.hostRegisterWrite fn off size val) s = .next s) ∧
     (∀ (off : BitVec 32) size val, 0x18000 ≤ off.toNat → exec (.hostRegisterWrite fn off size val) s = .next s) ∧
     (∀ (fm : BitVec 5) off size val, fm.toNat % 9 ≠ 0 → exec (.hostRegisterWrite fm off size val) s = .next s))

/-- R353, R354, R362, R346: the partition commands. One that is not allowed, or given while another runs, answers refused;
each otherwise ends with its STATE and done, or, without a spare, with no spare; quiesce goes on until every hart is
Saved, a lane repair until its bank is copied. The model's choices: The duration in RESULT is free, and commands are
read as log 18 says; one spare cluster, two spare lanes after a cluster repair, and that a lane repair ends with the
last of the partition's bank copies are log 20's. A reset while another command runs is left out. -/
def Obligations.PartitionCommands : Prop :=
  ∀ (s : State) (p : BitVec 3), let n := p.toNat
    (s.inService = false → ∀ cl lane i l, CommandForm p cl lane i l → exec i s = .next s) ∧
    (s.inService = true → ∀ cl lane i l, CommandForm p cl lane i l → (s.part n).state ∉ l ∨ s.busy n = true →
      ∃ t, exec i s = .next t ∧ Answered t n 2 ∧ (t.part n).state = (s.part n).state ∧ (∀ k, t.hart k = s.hart k)) ∧
    (s.inService = true → s.busy n = false →
      ((s.part n).state = 2 → ∃ t, exec (.quiesce p) s = .next t ∧
        (s.toSave n = [] → Answered t n 1 ∧ (t.part n).state = 3) ∧
        (s.toSave n ≠ [] → Answered t n 1 ∧ (t.part n).state = 3 ∧ t.toSave n = [] ∨
          Answered t n 0 ∧ (t.part n).quiescing = true ∧ (t.part n).state = 2)) ∧
      ((s.part n).state = 3 → ∃ t, exec (.partitionResume p) s = .next t ∧ Answered t n 1 ∧ (t.part n).state = 2) ∧
      ((s.part n).state ≠ 0 ∨ s.coreUp n = true → ∃ t, exec (.partitionReset p) s = .next t ∧ Answered t n 1 ∧
        (t.part n).state = 1 ∧ (t.part n).requests = [] ∧ (t.part n).epoch = (s.part n).epoch + 1 ∧
        (t.part n).pcap = Part.reset.pcap ∧ (t.part n).lsbudget = Part.reset.lsbudget) ∧
      ((s.part n).state = 1 ∨ (s.part n).state = 3 → ∃ t, exec (.powerOff p) s = .next t ∧ Answered t n 1 ∧
        (t.part n).state = 0 ∧ (t.part n).requests = [] ∧ (t.part n).epoch = (s.part n).epoch + 1) ∧
      ((s.part n).state = 1 → let v := s.modPart n fun x => { x with cmd := 4 }
        let keys := ((List.range 8).map fun i => s.pkg.ownerkeys.get (zeroes 32) i).filter (· ≠ zeroes 32)
        (v.hostBytes s.pkg.imgaddr.toNat s.pkg.imgsize.toNat = none → ∃ t, exec (.partitionLoad p) s = .next t ∧
          Answered t n 2 ∧ (t.part n).state = 1) ∧
        (∀ img, v.hostBytes s.pkg.imgaddr.toNat s.pkg.imgsize.toNat = some img → (imageFault 1 keys 0 img).isSome = true →
          ∃ t, exec (.partitionLoad p) s = .next t ∧ Answered t n 2 ∧ (t.part n).state = 1) ∧
        (∀ img o u, v.hostBytes s.pkg.imgaddr.toNat s.pkg.imgsize.toNat = some img → imageFault 1 keys 0 img = none →
          Obj.parse (img.drop 512) = some o → v.startImage n o = some u → ∃ t, exec (.partitionLoad p) s = .next t ∧
          Answered t n 1 ∧ (t.part n).state = 2 ∧
          (t.part n).mpart = Shake.shake256 ((u.part n).mpart ++ digest img) 64)) ∧
      ((s.part n).state = 2 ∨ (s.part n).state = 3 → ∀ cl : BitVec 5, cl.toNat < 24 →
        (∀ lane, (s.clu (24 * n + cl.toNat)).spares ≠ 0 → ∃ t, exec (.repairLane p cl lane) s = .next t ∧ Answered t n 0 ∧
          t.busy n = true ∧ (lane.toNat, s.cycles + 8192) ∈ (t.clu (24 * n + cl.toNat)).copying ∧
          (t.clu (24 * n + cl.toNat)).spares + 1 = (s.clu (24 * n + cl.toNat)).spares ∧
          (t.clu (24 * n + cl.toNat)).remapped = (s.clu (24 * n + cl.toNat)).remapped ++ [lane.toNat]) ∧
        (∀ lane, (s.clu (24 * n + cl.toNat)).spares = 0 → ∃ t, exec (.repairLane p cl lane) s = .next t ∧ Answered t n 3) ∧
        ((∃ c < 24, (s.clu (24 * n + c)).onSpare = true) → ∃ t, exec (.repairCluster p cl) s = .next t ∧ Answered t n 3) ∧
        ((∀ c < 24, (s.clu (24 * n + c)).onSpare = false) → ∃ t, exec (.repairCluster p cl) s = .next t ∧
          (Answered t n 1 ∧ (t.clu (24 * n + cl.toNat)).onSpare = true ∧ (t.clu (24 * n + cl.toNat)).spares = 2 ∨
            Answered t n 0 ∧ (t.part n).repairing.isSome = true)))) ∧
    (s.copying n ≠ [] → (∀ c ∈ s.copying n, ∀ x ∈ (s.clu c).copying, x.2 ≤ s.cycles) →
      Answered (s.settle n) n 1 ∧ (s.settle n).copying n = [])

/-! ## The fabric -/

/-- R340, R341, R344, R346: what a port does with a flit: nothing while it is down, a nak for one whose CRC is wrong and
for a gap, an ack for one seen before; one taken releases what it acknowledges. A reset flit of a new EPOCH discards
what its sender had begun and refuses what goes to it; a copy of it and a flit of an old EPOCH change no transfer. A
failed port goes down, a peer out of reach is given up. The model's choices: The numbering of flits from 1 and what a
flit's payload carries are partly the model's (log 17); which EPOCHs are new, and which are old, is its choice (log
55), and so is that PORT_DOWN, PEER_UNREACHABLE and PERMIT_WINDOW change nothing where they are not due (log 41). -/
def Obligations.PortsAndFlits : Prop :=
  ∀ (s : State) (q : BitVec 7) (b : BitVec 2048), let n := q.toNat
    let p := n / 16
    (∀ f ok, Flit.parse b = (f, ok) →
      ((s.port n).up = false ∨ (s.part p).state = 0 → exec (.ackFlit q b) s = .next s ∧ exec (.nakFlit q b) s = .next s ∧
        exec (.permitGrantFlit q b) s = .next s ∧ exec (.refusalFlit q b) s = .next s) ∧
      ((s.port n).up = true → (s.part p).state ≠ 0 → ok = false → exec (.ackFlit q b) s = .next (s.answer p n .nak f.src) ∧
        exec (.permitReturnFlit q b) s = .next (s.answer p n .nak f.src) ∧
        exec (.resetFlit q b) s = .next (s.answer p n .nak f.src)) ∧
      ((s.port n).up = true → (s.part p).state ≠ 0 → ok = true → f.type = 5 →
        let d := (f.seq - (s.port n).lastIn).toNat
        (d = 0 ∨ 2048 ≤ d → exec (.permitGrantFlit q b) s = .next ((s.acked n f.ack).answer p n .ack f.src)) ∧
        (1 < d → d < 2048 → exec (.permitGrantFlit q b) s = .next ((s.acked n f.ack).answer p n .nak f.src)))) ∧
    (∀ f i ps, Arrives s n b .ack f i ps → ∃ t, exec (.ackFlit q b) s = .next t ∧
      (t.port n).replay = (s.port n).replay.filter (fun x => 2048 ≤ (f.ack - (Flit.parse x).1.seq).toNat) ∧
      (t.port n).link = (s.port n).link ∧ (∀ k, t.hart k = s.hart k) ∧ (∀ x, t.byteAt x = s.byteAt x)) ∧
    (∀ f i ps, Arrives s n b .nak f i ps → ∃ t, exec (.nakFlit q b) s = .next t ∧
      (t.port n).replay = (s.port n).replay.filter (fun x => 2048 ≤ (f.ack - (Flit.parse x).1.seq).toNat) ∧
      (t.port n).link = (t.port n).replay.reverse ++ (s.port n).link ∧ (∀ k, t.hart k = s.hart k)) ∧
    (∀ f i ps, Arrives s n b .grant f i ps → ∃ t, exec (.permitGrantFlit q b) s = .next t ∧
      (t.peer p f.src.toNat).window = (f.payload.headD 0).toNat ∧ (t.port n).lastIn = f.seq ∧ (∀ k, t.hart k = s.hart k)) ∧
    (∀ f i ps, Arrives s n b .permit f i ps → ∃ t, exec (.permitReturnFlit q b) s = .next t ∧ (t.port n).lastIn = f.seq ∧
      XfersMapped s t p (fun y => y.push && y.tag = f.tag && y.peer = f.src)
        (fun y => { y with permits := y.permits.filter (· ≠ f.k / 65536) })) ∧
    (∀ f i ps, Arrives s n b .refusal f i ps → ∃ t, exec (.refusalFlit q b) s = .next t ∧
      (∀ k, k / 384 = p → (s.hart k).life ≠ .free → ∀ y ∈ (t.hart k).xfers, y.tag = f.tag → y.peer = f.src →
        y.refused = some ((f.payload.headD 0).toNat, y.slot))) ∧
    (∀ f i ps, Comes s n b .reset f i ps → ∃ t, exec (.resetFlit q b) s = .next t ∧ (t.port n).lastIn = f.seq ∧
      (∀ x, t.byteAt x = s.byteAt x) ∧
      if (s.peer p f.src.toNat).epoch = some f.epoch ∨ f.epoch ∈ (s.peer p f.src.toNat).old then
        (∀ k, t.hart k = s.hart k) ∧ (t.part p).receives = (s.part p).receives
      else
        (t.peer p f.src.toNat).epoch = some f.epoch ∧ (∀ r ∈ (t.part p).receives, r.src ≠ f.src) ∧
        (∀ k, k / 384 = p → (s.hart k).life ≠ .free → ∀ y ∈ (t.hart k).xfers,
          (y.peer = f.src → y.refused = some (4, y.slot) ∧ y.permits = []) ∧
          (∀ sl g, y.peer ≠ f.src → y.relay = some (sl, f.src, g) → y.refused = some (4, sl)))) ∧
    (∀ f i ps reply flagged asid h total stream off spb, Comes s n b .data f i ps →
      (s.peer p f.src.toNat).epoch ≠ some f.epoch → f.epoch ∈ (s.peer p f.src.toNat).old →
      ∃ t, exec (.dataFlit q b reply flagged asid h total stream off spb) s = .next t ∧ (∀ k, t.hart k = s.hart k) ∧
        (t.part p).receives = (s.part p).receives ∧ (∀ x, t.byteAt x = s.byteAt x)) ∧
    (s.portFailed n = true → ∃ t, exec (.portDown q) s = .next t ∧ (t.port n).up = false ∧ (∀ k, t.hart k = s.hart k) ∧
      (∀ x, t.byteAt x = s.byteAt x)) ∧
    (s.portFailed n = false → exec (.portDown q) s = .next s) ∧
    (∀ (d : BitVec 3) (slot : BitVec 8) ps, s.peerSlot d.toNat slot.toNat = some ps → s.cutOff d.toNat slot.toNat = true →
      ∃ t, exec (.peerUnreachable d slot) s = .next t ∧ (t.peer d.toNat ps.peer.toNat).unreachable = true ∧
        (∀ k, k / 384 = d.toNat → (s.hart k).life ≠ .free → ∀ y ∈ (t.hart k).xfers, y.peer = ps.peer →
          y.refused = some (4, y.slot))) ∧
    (∀ (d : BitVec 3) slot, s.cutOff d.toNat slot.toNat = false → exec (.peerUnreachable d slot) s = .next s) ∧
    (∀ d : BitVec 3, (s.windowOver d.toNat = true → ∃ t, exec (.permitWindow d) s = .next t ∧
        (t.part d.toNat).grantAt = s.time d.toNat / 1000 ∧ (∀ k, t.hart k = s.hart k) ∧ (∀ x, t.byteAt x = s.byteAt x)) ∧
      (s.windowOver d.toNat = false → exec (.permitWindow d) s = .next s))

/-- R120, R220, R222, R343: a data flit of a push, with the bytes held back before it, is checked and performed where its
object admits it, but for the bytes that are held back now, which no place receives; all of them are performed with
the last. A flit that answers a read lands in the reader's destination in the same way. A flag flit adds one to its
counter once every byte of its push has been performed, and waits before that. A transfer that is done leaves its
hart. The model's choices: That bytes of an aligned 8-byte piece that has not all come are held back, and until when,
is the model's choice (log 64); the flits of a remote read are partly its own (log 17, log 31). -/
def Obligations.TransfersArrive : Prop :=
  (∀ (s : State) (k : BitVec 12) tag, ∃ t, exec (.engineTransferComplete k tag) s = .next t ∧
    (∀ x, x ∈ (t.hart k.toNat).xfers ↔
      x ∈ (s.hart k.toNat).xfers ∧ ¬(x.tag = tag ∧ s.xferDone (k.toNat / 384) x = true)) ∧
    (∀ j, j ≠ k.toNat → t.hart j = s.hart j) ∧ t = { s with h := t.h, harts := t.harts }) ∧
  (∀ (s : State) (q : BitVec 7) b flagged asid h total stream off spb f i ps u, Arrives s q.toNat b .data f i ps →
    s.receive q.toNat b .data = (some (f, i, ps), u) →
    let p := q.toNat / 16
    let v := u.within p
    let place : Side := { slot := 0, stream := if stream then some (Spb.ofBytes (leBytes 32 (BitVec.toNat spb))) else none,
                          off := BitVec.toInt off }
    let n := f.payload.length
    let r := v.receipt p f.src f.tag
    let pool := r.held ++ State.numbered f.k f.payload
    r.refused = false → r.flag = none → (r.done.any fun x => x.1 = f.k) = false →
    f.k + n ≤ total → ∀ l w, v.remoteRuns i asid h .copyTo Want.store (fun x e =>
        let all := place.elems (pool.foldl (fun a y => max a (y.1 + 1)) 0) x e
        pool.filterMap fun y => all[y.1]?) = (.ok l, w) → w.bad = [] →
      let r' := { r with done := r.done ++ [(f.k, n)] }
      let ps := pool.zip (bytesOf l)
      let lands (y : (Nat × Byte) × Loc) : Bool := State.pushLands r' total y.1.1 y.2
      ∃ t, exec (.dataFlit q b false flagged asid h total stream off spb) s = .next t ∧
        (∀ x, x ∉ (ps.filter lands).map (·.2) → t.byteAt x = w.byteAt x) ∧
        (((ps.filter lands).map (·.2)).Nodup → ∀ y ∈ ps, lands y = true → t.byteAt y.2 = y.1.2) ∧
        (∃ z ∈ (t.part p).receives, z.src = f.src ∧ z.tag = f.tag ∧ (f.k, n) ∈ z.done ∧
          z.held = (ps.filter fun y => !lands y).map (·.1)) ∧
        (n + (r.done.map (·.2)).sum = total → ∀ y ∈ ps, lands y = true)) ∧
  (∀ (s : State) (q : BitVec 7) b flagged asid h total stream off spb f i ps u x, Arrives s q.toNat b .data f i ps →
    s.receive q.toNat b .data = (some (f, i, ps), u) → s.bad = [] → s.partNo = q.toNat / 16 → s.h.xfers = [x] →
    s.h.life = .active → x.push = false → x.stale = false → x.tag = f.tag → x.peer = f.src → x.got = [] →
    x.refused = none → x.relay = none → x.held = [] → x.start ≤ f.k →
    (∀ y ∈ bytesOf x.dest, (∃ a, y = .phys a) ∨ ∃ c a, y = .scratch c a) →
    (∀ k, k / 384 = q.toNat / 16 → k ≠ s.cur → ∀ y ∈ (s.hart k).xfers, y.tag ≠ f.tag) →
    let n := f.payload.length
    let ps := (State.numbered f.k f.payload).zip (bytesOf (x.at_ f.k n))
    let lands (y : (Nat × Byte) × Loc) : Bool := x.moved + n = x.total ||
      State.landsAt (fun m => f.k ≤ m && m < f.k + n) x.start x.total y.1.1 y.2
    ∃ t, exec (.dataFlit q b true flagged asid h total stream off spb) s = .next t ∧
      (∀ y, y ∉ (ps.filter lands).map (·.2) → t.byteAt y = s.byteAt y) ∧
      (((ps.filter lands).map (·.2)).Nodup → ∀ y ∈ ps, lands y = true → t.byteAt y.2 = y.1.2) ∧
      t.h.xfers = [{ x with got := [(f.k, n)], moved := x.moved + n,
                            held := (ps.filter fun y => !lands y).map (·.1) }]) ∧
  (∀ (s : State) (q : BitVec 7) b asid h off f i ps u, Arrives s q.toNat b .flag f i ps →
    s.receive q.toNat b .flag = (some (f, i, ps), u) →
    let p := q.toNat / 16
    let v := u.within p
    let r := v.receipt p f.src f.tag
    r.refused = false → r.complete = false →
    ((r.done.map (·.2)).sum ≠ f.k → ∃ t, exec (.flagFlit q b asid h off) s = .next t ∧
      (∀ x, t.byteAt x = s.byteAt x) ∧ { r with flag := some (f.k, asid, h, off) } ∈ (t.part p).receives) ∧
    ((r.done.map (·.2)).sum = f.k →
    ∀ l w, v.remoteRuns i asid h .atomic Want.atomic_ (fun _ _ => [{ idx := 0, off := (off : BitVec 64).toNat, len := 8 }]) =
      (.ok l, w) → w.bad = [] → (bytesOf l).Nodup → (bytesOf l).length = 8 →
      ∃ t, exec (.flagFlit q b asid h off) s = .next t ∧
        leNat (t.raw l) = (leNat (w.raw l) + 1) % 2 ^ 64 ∧ (∀ x, x ∉ bytesOf l → t.byteAt x = w.byteAt x)))

/-! ## Decoding, the step and the invariant -/

/-- R123 to R137: decoding the word of any well-formed instruction gives that instruction back, every operand at every
value its field admits. -/
def Obligations.DecodeEncode : Prop :=
  ∀ i : Instr, i.wf = true → decodeBytes (wordBytes (encode i)) = .ok i

/-- R123 to R138: a word that decodes stands for a well-formed instruction, and it is that instruction's word: no two
words decode to one instruction, and no bit of a word is ignored. -/
def Obligations.EncodeDecode : Prop :=
  ∀ (w : BitVec 32) (i : Instr), decodeBytes (wordBytes w) = .ok i → i.wf = true ∧ encode i = w

/-- R134, R139, R140: words of the spec's own tables, field by field, and words that are no instruction. -/
def Obligations.DecodeWords : Prop :=
  decode 0b1_010010_000100_000010_010_0000_000011#32 = .ok (.vsetvl true 4 2 3) ∧
  decode 0b0_111010_000001_0001_000111_000000_000#32 = .ok (.vld false 1 1 7 0 0) ∧
  decode 0b0_111100_000101_0010_000110_111_0_0_1_001#32 = .ok (.vamoSwap false 5 2 6 0 0 1 1) ∧
  decode 0b0_110111_010000_000000_001000_000_00_00#32 = .ok (.mmac false 16 0 8 0 0) ∧
  decode 0b1_000001_000001_000001_000010_0000000#32 = .ok (.add true 1 1 2) ∧
  decode 0b1_101100_001001_00_001000_11_000001_000#32 = .ok (.vaddk true 9 0 8 3 1) ∧
  decode 0#32 = .err .enc ∧ decode 0x80000000#32 = .err .enc

/-- R10, R123, R138: where no input waits and nothing is due, or where it is the instruction's turn and nothing before it
is on its way, a step fetches at the pc and runs the instruction that the word there, little-endian, decodes to, at
the state the fetch leaves, and then settles the step; where the fetch fails or the word is no instruction, it takes
that exception. What the current hart must take first is taken instead, and an input whose free moment has come goes
before both, where the machine takes it. The model's choices: When an input is taken is a free choice of the model,
and an event that is due may come before the instruction (log 1, log 5); that every failing fetch, a denial by an
access table included, gives code 4 is its reading (log 25). -/
def Obligations.StepRunsDecoded : Prop :=
  (∀ (s u t : State) i, s.inbox = [] → s.forced = none → s.due = [] → s.canIssue = true → s.fetch = (.instr i, u) →
    exec i u = .next t → step s = .next t.tick) ∧
  (∀ (s u v t : State) i, s.inbox = [] → s.turn = (.issue, u) → u.fetch = (.instr i, v) → v.h.queue = [] → v.regErrors = [] →
    (∀ k, (v.hart k).stores = []) → v.mustWait (encode i) = false → exec i v = .next t → step s = .next t.tick) ∧
  (∀ (s u t : State) x, s.inbox = [] → s.forced = none → s.due = [] → s.canIssue = true → s.fetch = (.trap x, u) →
    u.raise x = .next t → step s = .next t.tick) ∧
  (∀ (s u : State) l, s.xlateRun s.h.space s.user .either Want.fetch 5 s.h.pc.toNat 4 = (.ok l, u) → u.badIn l = [] →
    let w := BitVec.ofNat 32 (leNat (u.raw l))
    (∀ i, decodeBytes (wordBytes w) = .ok i → s.fetch = (.instr i, u)) ∧
    (∀ e, decodeBytes (wordBytes w) = .err e → s.fetch = (.trap (illTrap (u.encSub e) w), u))) ∧
  (∀ (s u : State) x, s.xlateRun s.h.space s.user .either Want.fetch 5 s.h.pc.toNat 4 = (.error x, u) →
    s.fetch = (.trap { code := 4, val := u.h.pc, vec := false, estart := u.h.startOf }, u)) ∧
  (∀ (s t : State) e, s.inbox = [] → s.forced = some e → e.run s = .next t → step s = .next t.tick) ∧
  (∀ (s t : State) i l, s.inbox = i :: l → (s.pick 2).1 = 0 →
    State.takes { (s.pick 2).2 with inbox := l } i = true →
    exec i { (s.pick 2).2 with inbox := l } = .next t → step s = .next t.tick)

/-- R94, R285, R294, R354, R361, R371: every step keeps the machine sound. Physical memory and the scratchpads stay in
canonical form; each partition keeps a duty of 4 to 16, WATTS of at least 200, RATE from 1 to 512, a QUANTUM that is
not 0 and at most 63 records; and MINSVN is raised at most 64 times. The model's choices: That memory has a canonical
form is the model's (log 3). -/
def Obligations.StepKeepsSound : Prop :=
  ∀ s t : State, s.Sound → step s = .next t → t.Sound

/-- R11, R21, R25, R160, R161, R285, R318, R349, R352, R357, R358, R361, R363: the machine is sound at reset, and every
register whose reset value the spec states has it: the registers of a context, the gang registers, the spare lanes,
the registers and the descriptor of a partition, the boot mailbox and the measurement registers. (The values that the
log names in place of the spec's are no part of this.) The model's choices: The value of MINSVN at reset is the
model's (log 4). -/
def Obligations.ResetIsSound : Prop :=
  State.reset.Sound ∧
  (∀ k, let h := State.reset.hart k
    h.stvec = 0 ∧ h.sframe = 0 ∧ h.scause = 0 ∧ h.sval = 0 ∧ h.vtype = 0 ∧ h.vlr = 0 ∧ h.vlc = 0 ∧ h.fcsr = 0 ∧
    h.exsplit = 16 ∧ h.ucause = 0 ∧ h.gone = false ∧ h.gang = 0 ∧ h.hgen = 0 ∧
    h.space = Space.reset 0 ∧ (∀ r, h.s.get 0 r = 0 ∧ h.c.get 0 r = 0 ∧ h.v.get VReg.reset r = VReg.reset)) ∧
  (∀ c, (State.reset.clu c).pw = 0 ∧ (State.reset.clu c).spares = 2 ∧
    ∀ g, (State.reset.gangOf c g).word = 0) ∧
  (∀ p, let x := State.reset.part p
    x.pcap.getLsbD 16 = true ∧ bits x.pcap.toNat 0 16 = 1250 ∧ bits x.tierrate.toNat 0 10 = 64 ∧ x.lsbudget = 0 ∧
    bits x.partcfg.toNat 16 16 = 64 ∧ bits x.partcfg.toNat 12 4 = 10 ∧ x.state = 0 ∧ x.hbmStacks = 0 ∧ x.pools = 0 ∧
    x.asidlo = 0 ∧ x.asidhi = 0 ∧ x.tports = 0 ∧ x.arenaBase = 0 ∧ x.arenaSize = 0 ∧ x.save = 0 ∧ x.peersBase = 0 ∧
    x.cmd = 0 ∧ x.result = 0 ∧ x.mpart = zeroes 64) ∧
  State.reset.pkg.bootstat = 0 ∧ State.reset.pkg.mfw = zeroes 64 ∧ State.reset.pkg.mcfg = zeroes 64 ∧
  State.reset.pkg.acl = []

/-- R361: committing raises MINSVN to the SVN of the running firmware where that is higher, once per raise and at most 64
times, and otherwise changes nothing of it; and no step, whatever it performs, lowers MINSVN or raises it in another
way. -/
def Obligations.SecurityVersionOnlyRises : Prop :=
  (∀ s : State, s.pkg.clocks = true → s.pkg.bootstat = 3 ∨ s.pkg.bootstat = 4 →
    (s.pkg.minsvn < s.pkg.svn → s.pkg.raises < 64 → ∃ t, exec .commitSecurityVersion s = .next t ∧
      t.pkg.minsvn = s.pkg.svn ∧ t.pkg.raises = s.pkg.raises + 1) ∧
    (¬s.pkg.minsvn < s.pkg.svn ∨ 64 ≤ s.pkg.raises → ∃ t, exec .commitSecurityVersion s = .next t ∧
      t.pkg.minsvn = s.pkg.minsvn ∧ t.pkg.raises = s.pkg.raises)) ∧
  (∀ s t : State, step s = .next t → s.pkg.minsvn ≤ t.pkg.minsvn ∧
    (t.pkg.minsvn = s.pkg.minsvn ∧ t.pkg.raises = s.pkg.raises ∨
      t.pkg.minsvn = s.pkg.svn ∧ t.pkg.raises = s.pkg.raises + 1 ∧ s.pkg.raises < 64))
end

