-- ==== Sys2Proof/Laws/Flit.lean ====
section
/-!
SUPPORT. Little-endian bytes and flits: reading back the bytes of a number, and that a flit's 256 bytes parse to its own
fields with their CRC right; what a port that takes a flit answers.
-/

namespace Sys2Proof.Machine

@[simp] theorem length_leBytes (n x : Nat) : (leBytes n x).length = n := by
  induction n generalizing x with
  | zero => rfl
  | succ n ih => simp [leBytes, ih]

/-- The number of some bytes is below 256 to their number. -/
theorem leNat_lt (l : List Byte) : leNat l < 2 ^ (8 * l.length) := by
  induction l with
  | nil => exact Nat.one_pos
  | cons b l ih =>
    have h := b.isLt
    rw [leNat, List.length_cons, show 8 * (l.length + 1) = 8 * l.length + 8 by omega, Nat.pow_add]
    omega

/-- Writing a number in bytes and reading them gives its low bits. -/
theorem leNat_leBytes (n x : Nat) : leNat (leBytes n x) = x % 2 ^ (8 * n) := by
  induction n generalizing x with
  | zero => simp [leBytes, leNat, Nat.mod_one]
  | succ n ih =>
    rw [leBytes, leNat, ih, BitVec.toNat_ofNat, show 8 * (n + 1) = 8 + 8 * n by omega, Nat.pow_add, Nat.mod_mul]

/-- Reading bytes as a number and writing it gives the bytes. -/
theorem leBytes_leNat (l : List Byte) : leBytes l.length (leNat l) = l := by
  induction l with
  | nil => rfl
  | cons b l ih =>
    have h := b.isLt
    rw [List.length_cons, leNat, leBytes, show (b.toNat + 256 * leNat l) / 256 = leNat l by omega, ih]
    congr 1
    apply BitVec.eq_of_toNat_eq
    rw [BitVec.toNat_ofNat]
    omega

/-- One byte of CRC-32C keeps the register within 32 bits. -/
theorem crcByte_lt {c : Nat} (h : c < 2 ^ 32) (b : Byte) : Shake.crcByte c b < 2 ^ 32 := by
  have step : ∀ (l : List Nat) (c : Nat), c < 2 ^ 32 →
      l.foldl (fun c _ => if c % 2 = 1 then (c / 2) ^^^ 0x82F63B78 else c / 2) c < 2 ^ 32 := by
    intro l
    induction l with
    | nil => exact fun c h => h
    | cons x l ih =>
      intro c h
      rw [List.foldl_cons]
      refine ih _ ?_
      split
      · exact Nat.xor_lt_two_pow (by omega) (by decide)
      · omega
  have := b.isLt
  exact step _ _ (Nat.xor_lt_two_pow h (by omega))

theorem crc32c_lt (l : List Byte) : Shake.crc32c l < 2 ^ 32 := by
  have step : ∀ (l : List Byte) (c : Nat), c < 2 ^ 32 → l.foldl Shake.crcByte c < 2 ^ 32 := by
    intro l
    induction l with
    | nil => exact fun c h => h
    | cons x l ih => exact fun c h => ih _ (crcByte_lt h x)
  exact Nat.xor_lt_two_pow (step l _ (by decide)) (by decide)

/-- A flit's bytes but for the CRC. -/
theorem length_body {f : Flit} (h : f.payload.length ≤ 228) : f.body.length = 252 := by
  simp [Flit.body]
  omega

/-- The 256 bytes of a flit, back from the number they make. -/
theorem bytes_bits2048 {f : Flit} (h : f.payload.length ≤ 228) :
    leBytes 256 f.bits2048.toNat = f.body ++ leBytes 4 (Shake.crc32c f.body) := by
  have hl : (f.body ++ leBytes 4 (Shake.crc32c f.body)).length = 256 := by simp [length_body h]
  have hb := leNat_lt (f.body ++ leBytes 4 (Shake.crc32c f.body))
  rw [hl] at hb
  rw [Flit.bits2048, BitVec.toNat_ofNat, Nat.mod_eq_of_lt hb]
  have h2 := leBytes_leNat (f.body ++ leBytes 4 (Shake.crc32c f.body))
  rwa [hl] at h2

/-- R339: the bytes of a flit whose TYPE, K and payload fit their fields give its fields, and its CRC is right. -/
theorem parse_bits2048 {f : Flit} (ht : f.type < 256) (hk : f.k < 2 ^ 48) (hp : f.payload.length ≤ 224) :
    Flit.parse f.bits2048 = (f, true) := by
  obtain ⟨type, seq, epoch, ack, src, dst, tag, k, payload⟩ := f
  simp only at ht hk hp
  have hb := length_body (f := ⟨type, seq, epoch, ack, src, dst, tag, k, payload⟩) (by simp only; omega)
  have two (x : Nat) : leNat [BitVec.ofNat 8 x, BitVec.ofNat 8 (x / 256)] = x % 65536 := leNat_leBytes 2 x
  have six (x : Nat) := leNat_leBytes 6 x
  have four (x : Nat) := leNat_leBytes 4 x
  simp only [leBytes] at six four
  unfold Flit.parse
  rw [bytes_bits2048 (by simp only; omega)]
  have hc : ((Flit.body ⟨type, seq, epoch, ack, src, dst, tag, k, payload⟩ ++ leBytes 4
      (Shake.crc32c (Flit.body ⟨type, seq, epoch, ack, src, dst, tag, k, payload⟩))).drop 252).take 4 =
      leBytes 4 (Shake.crc32c (Flit.body ⟨type, seq, epoch, ack, src, dst, tag, k, payload⟩)) := by
    rw [List.drop_append_of_le_length (by omega), List.drop_eq_nil_of_le (by omega), List.nil_append]
    exact List.take_of_length_le (by simp)
  have hd : (Flit.body ⟨type, seq, epoch, ack, src, dst, tag, k, payload⟩ ++ leBytes 4
      (Shake.crc32c (Flit.body ⟨type, seq, epoch, ack, src, dst, tag, k, payload⟩))).take 252 =
      Flit.body ⟨type, seq, epoch, ack, src, dst, tag, k, payload⟩ := by
    rw [List.take_append_of_le_length (by omega), List.take_of_length_le (by omega)]
  simp only [hc, hd, leNat_leBytes, Nat.mod_eq_of_lt (crc32c_lt _), Nat.reduceMul, beq_self_eq_true]
  simp only [Flit.body, leBytes, List.cons_append, List.nil_append, List.append_assoc, List.drop_succ_cons, List.drop_zero,
    List.take_succ_cons, List.take_zero, two, six, four]
  have hs := seq.isLt
  have he := epoch.isLt
  have e1 : leNat [BitVec.ofNat 8 type] = type := by
    rw [leNat, leNat, BitVec.toNat_ofNat]
    omega
  rw [e1]
  refine Prod.ext ?_ rfl
  have ha := ack.isLt
  have hs2 := src.isLt
  have hd2 := dst.isLt
  have ht2 := tag.isLt
  simp only [Flit.mk.injEq, true_and]
  refine ⟨?_, ?_, ?_, ?_, ?_, ?_, ?_, ?_⟩
  · apply BitVec.eq_of_toNat_eq; rw [BitVec.toNat_ofNat]; omega
  · apply BitVec.eq_of_toNat_eq; rw [BitVec.toNat_ofNat]; omega
  · apply BitVec.eq_of_toNat_eq; rw [BitVec.toNat_ofNat]; omega
  · apply BitVec.eq_of_toNat_eq; rw [BitVec.toNat_ofNat]; omega
  · apply BitVec.eq_of_toNat_eq; rw [BitVec.toNat_ofNat]; omega
  · apply BitVec.eq_of_toNat_eq; rw [BitVec.toNat_ofNat]; omega
  · omega
  · rw [show min 224 (payload.length % 65536) = payload.length by omega]
    exact List.take_left ..

/-- What ports hold is no part of the peer-slot map. -/
theorem slotOfPeer_modPort (s : State) (q p : Nat) (g : Port → Port) (x : BitVec 16) :
    (s.modPort q g).slotOfPeer p x = s.slotOfPeer p x := rfl
theorem slotOfPeer_answer (s : State) (q p r : Nat) (t : FlitType) (d x : BitVec 16) :
    (s.answer p q t d).slotOfPeer r x = s.slotOfPeer r x := slotOfPeer_modPort ..
theorem peer_modPort (s : State) (q p i : Nat) (g : Port → Port) : (s.modPort q g).peer p i = s.peer p i := rfl
theorem peer_answer (s : State) (q p r i : Nat) (t : FlitType) (d : BitVec 16) :
    (s.answer p q t d).peer r i = s.peer r i := peer_modPort ..

/-- A flit of its sender's current EPOCH changes nothing by it (R346). -/
theorem noteEpoch_current {s : State} {p : Nat} {peer : BitVec 16} {t : FlitType} {e : BitVec 4}
    (h : (s.peer p peer.toNat).epoch = some e) : s.noteEpoch p peer t e = (true, s) := by
  unfold State.noteEpoch
  simp only [h, if_true]

/-- R340, R341, R346: a port that takes a flit answers with the flit, its sender's slot, and the machine in which the flit is
noted and, where it is numbered, acknowledged. -/
theorem receive_of_arrives {s : State} {q : Nat} {b : BitVec 2048} {t : FlitType} {f : Flit} {i : Nat} {ps : PeerSlot}
    (a : Arrives s q b t f i ps) : s.receive q b t = (some (f, i, ps),
      if t ≠ .ack ∧ t ≠ .nak then
        ((s.acked q f.ack).modPort q fun x => { x with lastIn := f.seq }).answer (q / 16) q .ack f.src
      else s.acked q f.ack) := by
  obtain ⟨⟨up, on, intact, type, next, dest, slot⟩, epoch⟩ := a
  unfold State.receive
  simp only [intact, up, on, type, dest, or_false, Bool.not_true, Bool.false_eq_true, if_false, not_true, ne_eq]
  by_cases h : t = .ack ∨ t = .nak
  · have h1 : ¬(¬t = .ack ∧ ¬t = .nak) := by
      rintro ⟨h1, h2⟩
      cases h with
      | inl h => exact h1 h
      | inr h => exact h2 h
    simp only [h1, false_and, if_false]
    have e1 : (s.acked q f.ack).slotOfPeer (q / 16) f.src = some (i, ps) := slot
    have e2 : (s.acked q f.ack).noteEpoch (q / 16) f.src t f.epoch = (true, s.acked q f.ack) :=
      noteEpoch_current epoch
    rw [e1]
    simp only [e2]
  · have h1 : ¬t = .ack ∧ ¬t = .nak := ⟨fun e => h (.inl e), fun e => h (.inr e)⟩
    have n := next h1.1 h1.2
    have d : (f.seq - (s.port q).lastIn).toNat = 1 := by
      rw [n, BitVec.add_comm, BitVec.add_sub_cancel]
      rfl
    rw [d]
    simp only [h1, not_false_eq_true, and_self, if_true, not_true, and_false, if_false, Nat.reduceLeDiff,
      Nat.reduceEqDiff, or_self]
    generalize hu : ((s.acked q f.ack).modPort q fun x => { x with lastIn := f.seq }).answer (q / 16) q .ack f.src = u
    have e1 : u.slotOfPeer (q / 16) f.src = some (i, ps) := by
      rw [← hu, slotOfPeer_answer, slotOfPeer_modPort]; exact (slotOfPeer_modPort ..).trans slot
    have e2 : u.noteEpoch (q / 16) f.src t f.epoch = (true, u) :=
      noteEpoch_current (by
        rw [← hu, peer_answer, peer_modPort]; exact (congrArg Peer.epoch (peer_modPort ..)).trans epoch)
    rw [e1]
    simp only [e2]

end Sys2Proof.Machine
end

