-- ==== Sys2Proof/Laws/Table.lean ====
section
/-!
SUPPORT. Laws of sparse data: what a read sees after a write, and that every operation keeps the canonical form.
-/

namespace Sys2Proof.Table

variable {α : Type}

/-! ## Reads after writes -/

theorem get_ins (d : α) (t : Table α) (i j : Nat) (v : α) : get d (ins t i v) j = if i = j then v else get d t j := by
  induction t with
  | nil => rfl
  | cons p t ih => obtain ⟨k, x⟩ := p; grind [ins, get]

theorem get_filter_ne (d : α) (t : Table α) (i j : Nat) :
    get d (t.filter fun p => p.1 ≠ i) j = if i = j then d else get d t j := by
  induction t with
  | nil => simp [get]
  | cons p t ih => obtain ⟨k, x⟩ := p; grind [get]

/-- A read after a write of one key: the value written there, and every other key as before. -/
theorem get_set [DecidableEq α] (d : α) (t : Table α) (i j : Nat) (v : α) :
    get d (set d t i v) j = if i = j then v else get d t j := by
  unfold set; split
  · rw [get_filter_ne]; grind
  · exact get_ins d t i j v

@[simp] theorem get_set_same [DecidableEq α] (d : α) (t : Table α) (i : Nat) (v : α) : get d (set d t i v) i = v := by
  simp [get_set]

theorem get_set_other [DecidableEq α] (d : α) (t : Table α) {i j : Nat} (v : α) (h : i ≠ j) :
    get d (set d t i v) j = get d t j := by
  simp [get_set, h]

theorem get_append_none (d : α) (t u : Table α) (i : Nat) (h : ∀ p ∈ t, p.1 ≠ i) : get d (t ++ u) i = get d u i := by
  induction t with
  | nil => rfl
  | cons p t ih =>
    obtain ⟨k, x⟩ := p
    have hk : k ≠ i := h (k, x) (by simp)
    simp [get, hk, ih fun q hq => h q (by simp [hq])]

theorem get_absent (d : α) (t : Table α) (i : Nat) (h : ∀ p ∈ t, p.1 ≠ i) : get d t i = d := by
  induction t with
  | nil => rfl
  | cons p t ih =>
    obtain ⟨k, x⟩ := p
    have hk : k ≠ i := h (k, x) (by simp)
    simp [get, hk, ih fun q hq => h q (by simp [hq])]

theorem get_append_absent (d : α) (t u : Table α) (i : Nat) (h : ∀ p ∈ u, p.1 ≠ i) : get d (t ++ u) i = get d t i := by
  induction t with
  | nil => exact get_absent d u i h
  | cons p t ih => obtain ⟨k, x⟩ := p; grind [get]

theorem get_filter_keep (d : α) (t : Table α) (f : Nat → Bool) (i : Nat) (h : f i = true) :
    get d (t.filter fun p => f p.1) i = get d t i := by
  induction t with
  | nil => rfl
  | cons p t ih => obtain ⟨k, x⟩ := p; grind [get]

theorem get_slice (d : α) (t : Table α) (lo hi i : Nat) (h : lo ≤ i) (h' : i < hi) :
    get d (slice t lo hi) i = get d t i := by
  induction t with
  | nil => rfl
  | cons p t ih => obtain ⟨k, x⟩ := p; grind [get, slice]

/-- A run reads what its keys hold. -/
theorem getRun_eq (d : α) (t : Table α) (a n : Nat) : getRun d t a n = (List.range n).map fun i => get d t (a + i) := by
  unfold getRun
  refine List.map_congr_left fun i hi => get_slice d t a (a + n) (a + i) ?_ ?_ <;> simp at hi <;> omega

theorem mem_run [DecidableEq α] (d : α) (l : List α) : ∀ (a : Nat) (p : Nat × α), p ∈ run d a l →
    a ≤ p.1 ∧ p.1 < a + l.length ∧ p.2 ≠ d := by
  induction l with
  | nil => intro a p h; simp [run] at h
  | cons v l ih => intro a p h; grind [run]

theorem get_run [DecidableEq α] (d : α) (l : List α) : ∀ (a i : Nat), get d (run d a l) (a + i) = l.getD i d := by
  induction l with
  | nil => intro a i; simp [run, get]
  | cons v l ih =>
    intro a i
    cases i with
    | zero =>
      simp only [run]; split
      · rename_i h
        rw [get_absent]
        · simp [h]
        · intro p hp; have := (mem_run d l (a + 1) p hp).1; omega
      · simp [get]
    | succ i =>
      have := ih (a + 1) i
      simp only [run]; split
      · rw [show a + (i + 1) = a + 1 + i by omega, this]; simp
      · simp only [get]; rw [if_neg (by omega), show a + (i + 1) = a + 1 + i by omega, this]; simp

/-- A read outside a run written sees what it saw. -/
theorem get_putRun_other [DecidableEq α] (d : α) (t : Table α) (a i : Nat) (l : List α) (h : i < a ∨ a + l.length ≤ i) :
    get d (putRun d t a l) i = get d t i := by
  unfold putRun
  rcases h with h | h
  · rw [get_append_absent, get_filter_keep (f := fun k => decide (k < a))]
    · simpa using h
    · intro p hp
      rcases List.mem_append.1 hp with hp | hp
      · have := (mem_run d l a p hp).1; omega
      · have := (List.mem_filter.1 hp).2; simp at this; omega
  · rw [get_append_none, get_append_none, get_filter_keep (f := fun k => decide (a + l.length ≤ k))]
    · simpa using h
    · intro p hp; have := (mem_run d l a p hp).2.1; omega
    · intro p hp; have := (List.mem_filter.1 hp).2; simp at this; omega

/-- A read inside a run written sees the value written. -/
theorem get_putRun_same [DecidableEq α] (d : α) (t : Table α) (a i : Nat) (l : List α) (h : i < l.length) :
    get d (putRun d t a l) (a + i) = l[i] := by
  unfold putRun
  rw [get_append_none, get_append_absent, get_run]
  · simp [h]
  · intro p hp; have := (List.mem_filter.1 hp).2; simp at this; omega
  · intro p hp; have := (List.mem_filter.1 hp).2; simp at this; omega

/-! ## The canonical form -/

/-- The canonical form, entry by entry and pair by pair. -/
theorem wf_iff [DecidableEq α] (d : α) (t : Table α) :
    wf d t = true ↔ (∀ p ∈ t, p.2 ≠ d) ∧ t.Pairwise fun p q => p.1 < q.1 := by
  induction t with
  | nil => simp [wf]
  | cons p t ih =>
    obtain ⟨k, v⟩ := p
    cases t with
    | nil => simp [wf]
    | cons q t =>
      obtain ⟨k', v'⟩ := q
      simp only [wf, Bool.and_eq_true, decide_eq_true_eq, ih, List.pairwise_cons, List.mem_cons, forall_eq_or_imp]
      grind

theorem wf_filter [DecidableEq α] (d : α) (t : Table α) (f : Nat × α → Bool) (h : wf d t = true) :
    wf d (t.filter f) = true := by
  rw [wf_iff] at h ⊢
  exact ⟨fun p hp => h.1 p (List.mem_filter.1 hp).1, h.2.filter f⟩

theorem mem_ins (t : Table α) (i : Nat) (v : α) (p : Nat × α) (h : p ∈ ins t i v) : p = (i, v) ∨ p ∈ t := by
  induction t with
  | nil => simpa [ins] using h
  | cons q t ih => obtain ⟨k, x⟩ := q; grind [ins]

theorem wf_ins [DecidableEq α] (d : α) (t : Table α) (i : Nat) (v : α) (hv : v ≠ d) (h : wf d t = true) :
    wf d (ins t i v) = true := by
  induction t with
  | nil => simpa [ins, wf] using hv
  | cons q t ih =>
    obtain ⟨k, x⟩ := q
    rw [wf_iff] at h ⊢
    have hm := mem_ins t i v
    have hw : wf d t = true := (wf_iff d t).2 ⟨fun p hp => h.1 p (by simp [hp]), (List.pairwise_cons.1 h.2).2⟩
    have := (wf_iff d _).1 (ih hw)
    simp only [List.pairwise_cons] at h
    simp only [ins]
    split
    · refine ⟨by grind, List.pairwise_cons.2 ⟨?_, List.pairwise_cons.2 h.2⟩⟩
      grind
    · split <;> exact ⟨by grind, List.pairwise_cons.2 ⟨by grind, by grind⟩⟩

/-- Writing a key keeps the canonical form. -/
theorem wf_set [DecidableEq α] (d : α) (t : Table α) (i : Nat) (v : α) (h : wf d t = true) : wf d (set d t i v) = true := by
  unfold set; split
  · exact wf_filter d t _ h
  · rename_i hv; exact wf_ins d t i v hv h

theorem pairwise_run [DecidableEq α] (d : α) (l : List α) : ∀ a, (run d a l).Pairwise fun p q => p.1 < q.1 := by
  induction l with
  | nil => intro a; simp [run]
  | cons v l ih =>
    intro a
    simp only [run]; split
    · exact ih (a + 1)
    · refine List.pairwise_cons.2 ⟨fun p hp => ?_, ih (a + 1)⟩
      have := (mem_run d l (a + 1) p hp).1; simp; omega

/-- Writing a run keeps the canonical form. -/
theorem wf_putRun [DecidableEq α] (d : α) (t : Table α) (a : Nat) (l : List α) (h : wf d t = true) :
    wf d (putRun d t a l) = true := by
  rw [wf_iff] at h ⊢
  unfold putRun
  refine ⟨fun p hp => ?_, ?_⟩
  · have := mem_run d l a p
    have := h.1 p
    simp only [List.mem_append, List.mem_filter] at hp
    grind
  · rw [List.pairwise_append, List.pairwise_append]
    refine ⟨h.2.filter _, ⟨pairwise_run d l a, h.2.filter _, fun p hp q hq => ?_⟩, fun p hp q hq => ?_⟩
    · have := (mem_run d l a p hp).2.1; have := (List.mem_filter.1 hq).2; simp at this; omega
    · have hp := (List.mem_filter.1 hp).2; simp at hp
      rcases List.mem_append.1 hq with hq | hq
      · have := (mem_run d l a q hq).1; omega
      · have := (List.mem_filter.1 hq).2; simp at this; omega

end Sys2Proof.Table
end

