-- ==== Sys2Proof/Laws/Keeps.lean ====
section
/-!
SUPPORT. `Keeps s t`: what no operation of the machine but a few named ones undoes. The memory and the scratchpads stay in
canonical form, the partitions sound, the fuses and the clock as they are. Each operation has one lemma `keeps_<name>`,
stated so that lemmas chain.
-/

namespace Sys2Proof.Machine

set_option Elab.async false

theorem Cluster.sound_iff (x : Cluster) : x.Sound ↔ Memory.wf x.scratch = true ∧ x.spares ≤ 2 :=
  ⟨fun h => ⟨h.1, h.2⟩, fun h => ⟨h.1, h.2⟩⟩

theorem Part.sound_iff (x : Part) : x.Sound ↔ (4 ≤ x.duty ∧ x.duty ≤ 16) ∧ 200 ≤ bits x.pcap.toNat 0 16 ∧
    (1 ≤ bits x.tierrate.toNat 0 10 ∧ bits x.tierrate.toNat 0 10 ≤ 512) ∧ bits x.partcfg.toNat 16 16 ≠ 0 ∧
    x.log.length ≤ 63 :=
  ⟨fun h => ⟨h.1, h.2, h.3, h.4, h.5⟩, fun h => ⟨h.1, h.2.1, h.2.2.1, h.2.2.2.1, h.2.2.2.2⟩⟩

/-- What most operations leave. -/
structure Keeps (s t : State) : Prop where
  mem : Memory.wf s.mem = true → Memory.wf t.mem = true
  clusters : (∀ c, (s.clu c).Sound) → ∀ c, (t.clu c).Sound
  parts : (∀ p, (s.part p).Sound) → ∀ p, (t.part p).Sound
  fuses : t.pkg.minsvn = s.pkg.minsvn ∧ t.pkg.raises = s.pkg.raises
  cycles : t.cycles = s.cycles

/-- An outcome's next state, if it has one, keeps. -/
def KeepsOut (s : State) : Out → Prop
  | .next t => Keeps s t
  | .fault _ => True
  | .refused _ => True

/-- However a resume ends, it keeps. -/
def KeepsRes (s : State) : Resumed → Prop
  | .ok t => Keeps s t
  | .failed _ t => Keeps s t

/-- An engine's operation keeps. -/
def KeepsE {α : Type} (m : Eng α) : Prop := ∀ s0 x, Keeps s0 x.s → Keeps s0 (m.run x).2.s

theorem Keeps.refl (s : State) : Keeps s s := ⟨id, id, id, ⟨rfl, rfl⟩, rfl⟩

theorem Keeps.trans {s t u : State} (h : Keeps s t) (k : Keeps t u) : Keeps s u :=
  ⟨k.mem ∘ h.mem, k.clusters ∘ h.clusters, k.parts ∘ h.parts,
    ⟨k.fuses.1.trans h.fuses.1, k.fuses.2.trans h.fuses.2⟩, k.cycles.trans h.cycles⟩

/-- A state that differs in none of what `Keeps` speaks of. -/
theorem Keeps.same {s0 s t : State} (h : Keeps s0 s) (hm : t.mem = s.mem) (hc : t.clusters = s.clusters)
    (hp : t.parts = s.parts) (hf : t.pkg.minsvn = s.pkg.minsvn ∧ t.pkg.raises = s.pkg.raises)
    (hy : t.cycles = s.cycles) : Keeps s0 t :=
  h.trans ⟨fun x => hm ▸ x, fun x c => by simpa [State.clu, hc] using x c, fun x p => by simpa [State.part, hp] using x p,
    hf, hy⟩

theorem keepsOut_next {s t : State} (h : Keeps s t) : KeepsOut s (.next t) := h
theorem keepsOut_fault {s : State} (r : Fault) : KeepsOut s (.fault r) := trivial
theorem keepsOut_refused {s : State} (r : Refusal) : KeepsOut s (.refused r) := trivial

/-! ## The operations of Base -/

variable {s0 s : State}

theorem keeps_mod (h : Keeps s0 s) (f : Hart → Hart) : Keeps s0 (s.mod f) := h.same rfl rfl rfl ⟨rfl, rfl⟩ rfl

/-- A state with other registers, other package records or other counters. -/
theorem keeps_mk (h : Keeps s0 s) (cur : Nat) (x : Hart) (harts : Table Hart) (pkg : Package) (bad : List Loc)
    (caught : Table Nat) (inbox : List Instr) (sched : List Nat) (seq : Nat)
    (hf : pkg.minsvn = s.pkg.minsvn ∧ pkg.raises = s.pkg.raises) :
    Keeps s0 { cur := cur, h := x, harts := harts, clusters := s.clusters, parts := s.parts, pkg := pkg, mem := s.mem,
               bad := bad, caught := caught, inbox := inbox, sched := sched, seq := seq, cycles := s.cycles } :=
  h.same rfl rfl rfl hf rfl

theorem keeps_setHart (h : Keeps s0 s) (k : Nat) (x : Hart) : Keeps s0 (s.setHart k x) := by
  unfold State.setHart; split <;> exact h.same rfl rfl rfl ⟨rfl, rfl⟩ rfl

theorem keeps_modHart (h : Keeps s0 s) (k : Nat) (f : Hart → Hart) : Keeps s0 (s.modHart k f) := keeps_setHart h k _

theorem keeps_modClu (h : Keeps s0 s) (k : Nat) (f : Cluster → Cluster) (hf : ∀ x : Cluster, x.Sound → (f x).Sound) :
    Keeps s0 (s.modClu k f) := by
  refine h.trans ⟨id, fun x c => ?_, id, ⟨rfl, rfl⟩, rfl⟩
  have : (s.modClu k f).clu c = if k = c then f (s.clu k) else s.clu c := Table.get_set ..
  rw [this]; split
  · exact hf _ (x k)
  · exact x c

theorem keeps_modPart (h : Keeps s0 s) (k : Nat) (f : Part → Part) (hf : ∀ x : Part, x.Sound → (f x).Sound) :
    Keeps s0 (s.modPart k f) := by
  refine h.trans ⟨id, id, fun x c => ?_, ⟨rfl, rfl⟩, rfl⟩
  have : (s.modPart k f).part c = if k = c then f (s.part k) else s.part c := Table.get_set ..
  rw [this]; split
  · exact hf _ (x k)
  · exact x c

theorem keeps_pick (h : Keeps s0 s) (n : Nat) : Keeps s0 (s.pick n).2 := by
  unfold State.pick; split
  · exact h
  · exact h.same rfl rfl rfl ⟨rfl, rfl⟩ rfl

theorem keeps_putRaw (h : Keeps s0 s) (l : Loc) (b : List Byte) : Keeps s0 (s.putRaw l b) := by
  cases l with
  | phys a => exact h.trans ⟨fun x => Table.wf_putRun _ _ _ _ x, id, id, ⟨rfl, rfl⟩, rfl⟩
  | scratch c a => 
    exact keeps_modClu h c (fun x => { x with scratch := Table.putRun Config.blankByte x.scratch a b })
      (fun x hx => ⟨Table.wf_putRun _ _ _ _ hx.1, hx.2⟩)
  | reg => exact h

/-- A list of effects, each of which keeps. -/
theorem keeps_foldl {α : Type} (l : List α) (f : State → α → State) (hf : ∀ t a, Keeps s0 t → Keeps s0 (f t a)) :
    ∀ {s : State}, Keeps s0 s → Keeps s0 (l.foldl f s) := by
  induction l with
  | nil => exact id
  | cons a l ih => exact fun h => ih (hf _ a h)

/-- A fold that carries a value beside the state. -/
theorem keeps_foldl_snd {α β : Type} (l : List α) (f : β × State → α → β × State)
    (hf : ∀ t a, Keeps s0 t.2 → Keeps s0 (f t a).2) :
    ∀ {p : β × State}, Keeps s0 p.2 → Keeps s0 (l.foldl f p).2 := by
  induction l with
  | nil => exact id
  | cons a l ih => exact fun h => ih (hf _ a h)

/-! ## Engine operations -/

theorem keepsE_pure {α : Type} (a : α) : KeepsE (pure a : Eng α) := fun _ _ h => h

theorem keepsE_bind {α β : Type} {m : Eng α} {f : α → Eng β} (hm : KeepsE m) (hf : ∀ a, KeepsE (f a)) :
    KeepsE (m >>= f) := fun s0 x h => hf _ s0 _ (hm s0 x h)

theorem keepsE_get : KeepsE (get : Eng EngState) := fun _ _ h => h

theorem keepsE_modify (f : EngState → EngState) (hf : ∀ s0 x, Keeps s0 x.s → Keeps s0 (f x).s) :
    KeepsE (modify f : Eng Unit) := fun s0 x h => hf s0 x h

/-- What reads the engine's state and goes on from it. -/
theorem keepsE_get_bind {β : Type} {f : EngState → Eng β} (hf : ∀ s0 x, Keeps s0 x.s → Keeps s0 ((f x).run x).2.s) :
    KeepsE ((get : Eng EngState) >>= f) := fun s0 x h => hf s0 x h

theorem keepsE_forIn {α β : Type} (l : List α) (f : α → β → Eng (ForInStep β)) (hf : ∀ a b, KeepsE (f a b)) :
    ∀ b, KeepsE (forIn l b f) := by
  induction l with
  | nil => intro b; simpa using keepsE_pure b
  | cons a l ih =>
    intro b
    rw [List.forIn_cons]
    exact keepsE_bind (hf a b) fun r => match r with
      | .done b => keepsE_pure b
      | .yield b => ih b

theorem keepsE_forM {α : Type} (l : List α) (f : α → Eng PUnit) (hf : ∀ a, KeepsE (f a)) : KeepsE (l.forM f) := by
  induction l with
  | nil => exact keepsE_pure _
  | cons a l ih => exact keepsE_bind (hf a) fun _ => ih

theorem keeps_quiet {m : Eng Unit} (h : Keeps s0 s) (p : Nat) (hm : KeepsE m) : Keeps s0 (Eng.quiet s p m) := by
  unfold Eng.quiet
  have := hm s0 { s := s, p := p, master := 0x100, denied := none, met := [], forHart := false } h
  grind

theorem keeps_meet (hk : Keeps s0 s) (l : Loc) (elem : Nat) : Keeps s0 (State.meet s l elem) := by
  unfold State.meet
  grind [keeps_mk, keeps_mod]

theorem keeps_note (hk : Keeps s0 s) (m : Option Nat) (l : Loc) : Keeps s0 (State.note s m l) := by
  unfold State.note
  grind [keeps_mod]

theorem keeps_meetAll (hk : Keeps s0 s) (l : List Piece) : Keeps s0 (s.meetAll l) :=
  keeps_foldl _ _ (fun _ _ ht => keeps_note ht _ _) hk

theorem keeps_settled {x : EngState} (h : Keeps s0 x.s) : Keeps s0 (Eng.settled x) := by
  unfold Eng.settled
  split
  · exact keeps_foldl _ _ (fun _ _ ht => keeps_note ht _ _) h
  · exact h

theorem keeps_bpe {α : Type} {m : Eng α} (h : Keeps s0 s) (hm : KeepsE m) : Keeps s0 (Eng.bpe s m).2 := by
  unfold Eng.bpe
  have := hm s0 { s := s, p := s.partNo, master := 0x100, denied := none, met := [], forHart := true } h
  grind [keeps_mod, keeps_settled]

theorem keeps_perigee {α : Type} {m : Eng α} (h : Keeps s0 s) (p : Nat) (hm : KeepsE m) :
    Keeps s0 (Eng.perigee s p m).2 := by
  unfold Eng.perigee
  have := hm s0 { s := s, p := p, master := 0x110, denied := none, met := [], forHart := false } h
  grind [keeps_settled]

end Sys2Proof.Machine
end

