-- ==== Sys2Proof/Laws/KeepsCore.lean ====
section
/-!
SUPPORT. The operations that every family shares keep (`Keeps`).
-/

namespace Sys2Proof.Machine

set_option Elab.async false

variable {s0 s : State}

theorem keeps_wr (hk : Keeps s0 s) (r : BitVec 6) (v : Word) : Keeps s0 (State.wr s r v) := by
  unfold State.wr
  grind [keeps_mk, keeps_mod]

theorem keeps_wrInt (hk : Keeps s0 s) (r : BitVec 6) (v : Int) : Keeps s0 (State.wrInt s r v) := by
  unfold State.wrInt
  grind [keeps_wr]

theorem keeps_jump (hk : Keeps s0 s) (a : Word) : Keeps s0 (State.jump s a) := by
  unfold State.jump
  grind [keeps_mk, keeps_mod]

theorem keeps_adv (hk : Keeps s0 s) : Keeps s0 (State.adv s) := by
  unfold State.adv
  grind [keeps_jump]

theorem keeps_endConvoy (hk : Keeps s0 s) : Keeps s0 (State.endConvoy s) := by
  unfold State.endConvoy
  grind [keeps_mk, keeps_mod]

theorem keeps_noteCv (hk : Keeps s0 s) (c : Bool) : Keeps s0 (State.noteCv s c) := by
  unfold State.noteCv
  grind [keeps_endConvoy]

theorem keeps_wait (hk : Keeps s0 s) : KeepsOut s0 (State.wait s) := by
  unfold State.wait
  grind [KeepsOut]

theorem keeps_onHart (hk : Keeps s0 s) (c : Bool) (f : State → Out) (hf : ∀ t, Keeps s0 t → KeepsOut s0 (f t)) : KeepsOut s0 (State.onHart s c f) := by
  unfold State.onHart
  grind [KeepsOut, keeps_noteCv]

theorem keeps_scalar (hk : Keeps s0 s) (c : Bool) (f : State → State) (hf : ∀ t, Keeps s0 t → Keeps s0 (f t)) : KeepsOut s0 (State.scalar s c f) := by
  unfold State.scalar
  grind [KeepsOut, keeps_adv, keeps_onHart]

theorem keeps_putAll (l : List Piece) : ∀ {s : State} (_ : Keeps s0 s) (b : List Byte), Keeps s0 (State.putAll s l b) := by
  induction l with
  | nil => intro s h b; exact h
  | cons p l ih => intro s h b; exact ih (keeps_putRaw h _ _) _

theorem keeps_load (hk : Keeps s0 s) (l : List Piece) (elem : Nat) : Keeps s0 (State.load s l elem).2 := by
  unfold State.load
  grind [keeps_meet]

theorem keeps_putExcept (skip : List Loc) (l : List (Loc × Byte)) : ∀ {s : State} (_ : Keeps s0 s), Keeps s0 (State.putExcept s skip l) := by
  induction l with
  | nil => intro s h; exact h
  | cons p l ih => intro s h; unfold State.putExcept; exact ih (by grind [keeps_putRaw])

theorem keeps_repair (hk : Keeps s0 s) (l : List Loc) : Keeps s0 (State.repair s l) := by
  unfold State.repair
  grind [keeps_mk]

theorem keeps_keep (hk : Keeps s0 s) (l : List Piece) (b : List Byte) : Keeps s0 (State.keep s l b) := by
  unfold State.keep
  split
  · exact keeps_putAll l hk b
  · exact keeps_putExcept _ _ (keeps_repair hk _)

theorem keeps_store (h : Keeps s0 s) (l : List Piece) (b : List Byte) (elem : Nat) : Keeps s0 (State.store s l b elem) := by
  unfold State.store
  split
  · exact keeps_putAll l h b
  · exact keeps_foldl _ _ (fun t a ht => keeps_meet ht _ _) (keeps_keep h _ _)

theorem keeps_putPhys (hk : Keeps s0 s) (a n v : Nat) : Keeps s0 (State.putPhys s a n v) := keeps_keep hk _ _

theorem keeps_copyTaint (hk : Keeps s0 s) (src dst : List Piece) : Keeps s0 (State.copyTaint s src dst) := by
  unfold State.copyTaint
  grind [keeps_mk, keeps_store]

theorem keeps_engineCopy (hk : Keeps s0 s) (src dst : List Piece) : Keeps s0 (State.engineCopy s src dst) := by
  unfold State.engineCopy
  grind [keeps_foldl, keeps_foldl_snd, keeps_meet, keeps_copyTaint]

theorem keeps_noHart (hk : Keeps s0 s) (f : State → State) (hf : ∀ t, Keeps s0 t → Keeps s0 (f t)) : Keeps s0 (State.noHart s f) := by
  unfold State.noHart
  grind [keeps_mk, keeps_mod]

theorem keeps_touchPte (hk : Keeps s0 s) (x : TlbEntry) (w : Want) : Keeps s0 (State.touchPte s x w) := by
  unfold State.touchPte
  grind [keeps_putRaw]

/-- Partitions changed one after another. -/
theorem keeps_eachPart (hk : Keeps s0 s) (l : List Nat) (f : Part → Part) (hf : ∀ x : Part, x.Sound → (f x).Sound) :
    Keeps s0 (l.foldl (fun s p => s.modPart p f) s) :=
  keeps_foldl _ _ (fun _ _ ht => keeps_modPart ht _ _ hf) hk

theorem keeps_seq (h : Keeps s0 s) (n : Nat) : Keeps s0 { s with seq := n } := h.same rfl rfl rfl ⟨rfl, rfl⟩ rfl

theorem keeps_cacheWalk (hk : Keeps s0 s) (x : Walked) (w : Want) (va : Nat) : Keeps s0 (State.cacheWalk s x w va) := by
  unfold State.cacheWalk
  refine keeps_seq (keeps_foldl _ _ (fun u p ht => ?_) hk) _
  exact keeps_modPart ht _ _ fun _ hx => ⟨hx.1, hx.2, hx.3, hx.4, hx.5⟩

theorem keeps_meetWalk (hk : Keeps s0 s) (x : Walked) : Keeps s0 (State.meetWalk s x) :=
  keeps_meetAll hk _

theorem keeps_translate (hk : Keeps s0 s) (sp : Space) (user : Bool) (w : Want) (va : Nat) : Keeps s0 (State.translate s sp user w va).2 := by
  unfold State.translate
  grind [keeps_pick, keeps_meetWalk, keeps_touchPte, keeps_cacheWalk]

theorem keeps_xlate (hk : Keeps s0 s) (sp : Space) (user : Bool) (tr : TierRule) (w : Want) (va : Nat) : Keeps s0 (State.xlate s sp user tr w va).2 := by
  unfold State.xlate
  grind [keeps_translate]

theorem keeps_xlateRun (sp : Space) (user : Bool) (tr : TierRule) (w : Want) (n : Nat) :
    ∀ {s : State} (_ : Keeps s0 s) (va k : Nat), Keeps s0 (State.xlateRun s sp user tr w n va k).2 := by
  induction n with
  | zero => intros; unfold State.xlateRun; grind
  | succ n ih => intros; unfold State.xlateRun; grind [keeps_xlate]

theorem keeps_guard (a n : Nat) (w : Want) : KeepsE (Eng.guard a n w) :=
  keepsE_modify _ fun s0 x h => by grind

theorem keeps_read (a n : Nat) : KeepsE (Eng.read a n) :=
  keepsE_bind (keeps_guard _ _ _) fun _ => keepsE_bind keepsE_get fun _ => keepsE_pure _

theorem keeps_write (a n v : Nat) : KeepsE (Eng.write a n v) :=
  keepsE_bind (keeps_guard _ _ _) fun _ => keepsE_modify _ fun _ _ h => keeps_putPhys h _ _ _

theorem keeps_state : KeepsE (Eng.state) := keepsE_bind keepsE_get fun _ => keepsE_pure _

theorem keeps_onState (f : State → State) (hf : ∀ s0 t, Keeps s0 t → Keeps s0 (f t)) : KeepsE (Eng.onState f) :=
  keepsE_modify _ fun s0 x h => hf s0 x.s h

theorem keeps_part : KeepsE (Eng.part) := keepsE_bind keepsE_get fun _ => keepsE_pure _

theorem keeps_onPart (f : Part → Part) (hf : ∀ x, x.Sound → (f x).Sound) : KeepsE (Eng.onPart f) :=
  keepsE_modify _ fun _ _ h => keeps_modPart h _ _ hf

theorem keeps_pool (n : Nat) : KeepsE (Eng.pool n) := by
  unfold Eng.pool
  grind [keepsE_pure, keepsE_bind, keepsE_get, keeps_guard]

theorem keeps_count (q : Pool) (b : Nat) : KeepsE (Eng.count q b) := by
  unfold Eng.count
  grind [keepsE_pure, keepsE_bind, keepsE_forIn, keepsE_get, keeps_read]

theorem keeps_watermark (n : Nat) : KeepsE (Eng.watermark n) := by
  unfold Eng.watermark
  grind [keeps_mk, Part.sound_iff, keepsE_pure, keepsE_bind, keepsE_forIn, keepsE_get, keeps_onPart, keeps_pool]

theorem keeps_setCount (n b : Nat) (v : Nat) : KeepsE (Eng.setCount n b v) := by
  unfold Eng.setCount
  grind [keepsE_pure, keepsE_bind, keepsE_forIn, keepsE_get, keeps_write, keeps_pool, keeps_count, keeps_watermark]

theorem keeps_incCount (n b : Nat) : KeepsE (Eng.incCount n b) := by
  unfold Eng.incCount
  grind [keepsE_pure, keepsE_bind, keepsE_forIn, keepsE_get, keeps_pool, keeps_count, keeps_setCount]

theorem keeps_decCount (n b : Nat) : KeepsE (Eng.decCount n b) := by
  unfold Eng.decCount
  grind [keepsE_pure, keepsE_bind, keepsE_forIn, keepsE_get, keeps_pool, keeps_count, keeps_setCount]

theorem keeps_freeBlock (n : Nat) : KeepsE (Eng.freeBlock n) := by
  unfold Eng.freeBlock
  grind [keepsE_pure, keepsE_bind, keepsE_forIn, keepsE_get, keeps_load, keeps_guard, keeps_state, keeps_pool]

theorem keeps_takeBlock (n : Nat) : KeepsE (Eng.takeBlock n) := by
  unfold Eng.takeBlock
  grind [keepsE_pure, keepsE_bind, keepsE_forIn, keepsE_get, keeps_setCount, keeps_freeBlock]

theorem keeps_btable (a : Nat) : KeepsE (Eng.btable a) := by
  unfold Eng.btable
  grind [keepsE_pure, keepsE_bind, keepsE_forIn, keepsE_get, keeps_load, keeps_guard, keeps_state]

theorem keeps_setEntry (t : BTable) (e b : Nat) : KeepsE (Eng.setEntry t e b) := by
  unfold Eng.setEntry
  grind [keepsE_pure, keepsE_bind, keepsE_forIn, keepsE_get, keeps_write]

theorem keeps_arenaTake (n : Nat) : KeepsE (Eng.arenaTake n) := by
  unfold Eng.arenaTake
  refine keepsE_bind keeps_part fun p => keepsE_get_bind fun s0 x h => ?_
  have := fun k => keeps_pick h k
  have := fun k j => keeps_pick (this k) j
  dsimp only
  split
  · exact h
  · exact keepsE_bind (keeps_onPart _ (by grind [Part.sound_iff])) (fun _ => keepsE_pure _) s0 _ (this _ _)

theorem keeps_arenaGive (a : Nat) : KeepsE (Eng.arenaGive a) := by
  unfold Eng.arenaGive
  grind [keeps_mk, Part.sound_iff, keepsE_pure, keepsE_bind, keepsE_forIn, keepsE_get, keeps_onPart]

theorem keeps_writeTable (a entries pool rowlog fill : Nat) (blocks : List Nat) : KeepsE (Eng.writeTable a entries pool rowlog fill blocks) :=
  keepsE_bind (keeps_guard _ _ _) fun _ => keeps_onState _ fun _ _ h => keeps_keep h _ _

theorem keeps_dropTable (t : BTable) : KeepsE (Eng.dropTable t) := by
  unfold Eng.dropTable
  grind [keepsE_pure, keepsE_bind, keepsE_forIn, keepsE_get, keeps_guard, keeps_state, keeps_pool, keeps_decCount]

theorem keeps_spaceOf (hk : Keeps s0 s) (b : Binding) : Keeps s0 (State.spaceOf s b).2 := by
  unfold State.spaceOf
  grind [keeps_mk, keeps_pick]

theorem keeps_cacheCopy (hk : Keeps s0 s) (c : HandleCopy) : Keeps s0 (State.cacheCopy s c) := by
  unfold State.cacheCopy
  exact keeps_eachPart hk _ _ fun _ hx => ⟨hx.1, hx.2, hx.3, hx.4, hx.5⟩

theorem keeps_view (hk : Keeps s0 s) (b : Binding) : Keeps s0 (State.view s b).2 := by
  unfold State.view
  exact keeps_meetAll (keeps_cacheCopy (keeps_pick (keeps_spaceOf hk _) _) _) _

theorem keeps_entry (a : Nat) : KeepsE (Eng.entry a) := by
  unfold Eng.entry
  grind [keepsE_pure, keepsE_bind, keepsE_forIn, keepsE_get, keeps_load, keeps_guard, keeps_state]

theorem keeps_setWord0 (a lo w v : Nat) : KeepsE (Eng.setWord0 a lo w v) := by
  unfold Eng.setWord0
  grind [keepsE_pure, keepsE_bind, keepsE_forIn, keepsE_get, keeps_read, keeps_write]

theorem keeps_setCounts (a scount wcount : Nat) : KeepsE (Eng.setCounts a scount wcount) := by
  unfold Eng.setCounts
  grind [keepsE_pure, keepsE_bind, keepsE_forIn, keepsE_get, keeps_write]

theorem keeps_forget (asid : BitVec 14) (i : BitVec 24) : KeepsE (Eng.forget asid i) := by
  unfold Eng.forget
  grind [keeps_mk, Part.sound_iff, keepsE_pure, keepsE_bind, keepsE_forIn, keepsE_get, keeps_onPart]

theorem keeps_markGone (hk : Keeps s0 s) (asid : BitVec 14) (i : BitVec 24) : Keeps s0 (State.markGone s asid i) := by
  unfold State.markGone
  grind [keeps_mk, keeps_foldl, keeps_foldl_snd, keeps_modHart]

theorem keeps_expert (a : Nat) : KeepsE (Eng.expert a) := by
  unfold Eng.expert
  grind [keepsE_pure, keepsE_bind, keepsE_forIn, keepsE_get, keeps_load, keeps_guard, keeps_state]

theorem keeps_bindCount (sp : Space) (e : Nat) (up : Bool) : KeepsE (Eng.bindCount sp e up) := by
  unfold Eng.bindCount
  grind [keepsE_pure, keepsE_bind, keepsE_forIn, keepsE_get, keeps_setWord0, keeps_expert]

theorem keeps_destroy (sp : Space) (i : BitVec 24) : KeepsE (Eng.destroy sp i) := by
  unfold Eng.destroy
  refine keepsE_bind (keeps_entry _) fun x => ?_
  dsimp only
  split
  case isTrue =>
    refine keepsE_bind (keeps_btable _) fun _ => keepsE_bind (keeps_dropTable _) fun _ => keepsE_bind (keeps_arenaGive _) fun _ => ?_
    refine keepsE_bind (keeps_guard _ _ _) fun _ => keepsE_bind keeps_state fun _ => keepsE_bind (keepsE_forIn _ _ (fun _ _ => keepsE_bind (keeps_setWord0 _ _ _ _) fun _ =>
      keepsE_bind (keeps_write _ _ _) fun _ => keepsE_pure _) _) fun _ => ?_
    refine keepsE_bind (keeps_setWord0 _ _ _ _) fun _ => keepsE_bind (keeps_setCounts _ _ _) fun _ =>
      keepsE_bind (keeps_setWord0 _ _ _ _) fun _ => keepsE_bind (keeps_forget _ _) fun _ => ?_
    exact keeps_onState _ fun _ _ h => keeps_markGone h _ _
  case isFalse =>
    refine keepsE_bind (keeps_guard _ _ _) fun _ => keepsE_bind keeps_state fun _ => keepsE_bind (keepsE_forIn _ _ (fun _ _ => keepsE_bind (keeps_setWord0 _ _ _ _) fun _ =>
      keepsE_bind (keeps_write _ _ _) fun _ => keepsE_pure _) _) fun _ => ?_
    refine keepsE_bind (keeps_setWord0 _ _ _ _) fun _ => keepsE_bind (keeps_setCounts _ _ _) fun _ =>
      keepsE_bind (keeps_setWord0 _ _ _ _) fun _ => keepsE_bind (keeps_forget _ _) fun _ => ?_
    exact keeps_onState _ fun _ _ h => keeps_markGone h _ _

theorem keeps_settle (sp : Space) (i : BitVec 24) : KeepsE (Eng.settle sp i) := by
  unfold Eng.settle
  grind [keepsE_pure, keepsE_bind, keepsE_forIn, keepsE_get, keeps_state, keeps_entry, keeps_setWord0, keeps_destroy]

theorem keeps_addHold (sp : Space) (i : BitVec 24) (weak : Bool) : KeepsE (Eng.addHold sp i weak) := by
  unfold Eng.addHold
  grind [keepsE_pure, keepsE_bind, keepsE_forIn, keepsE_get, keeps_entry, keeps_setCounts]

theorem keeps_subHold (sp : Space) (i : BitVec 24) (weak : Bool) : KeepsE (Eng.subHold sp i weak) := by
  unfold Eng.subHold
  grind [keepsE_pure, keepsE_bind, keepsE_get, keeps_write, keeps_entry, keeps_setCounts]

theorem keeps_dropHold (sp : Space) (i : BitVec 24) (weak : Bool) : KeepsE (Eng.dropHold sp i weak) := by
  unfold Eng.dropHold
  grind [keepsE_pure, keepsE_bind, keepsE_forIn, keepsE_get, keeps_settle, keeps_subHold]

theorem keeps_release (b : Binding) : KeepsE (Eng.release b) := by
  unfold Eng.release
  grind [keepsE_pure, keepsE_bind, keepsE_forIn, keepsE_get, keeps_expert, keeps_bindCount, keeps_dropHold]

theorem keeps_taken (sp : Space) : KeepsE (Eng.taken sp) := by
  unfold Eng.taken
  grind [keepsE_pure, keepsE_bind, keepsE_forIn, keepsE_get, keeps_state]

theorem keeps_freeIndex (sp : Space) : KeepsE (Eng.freeIndex sp) := by
  unfold Eng.freeIndex
  grind [keepsE_pure, keepsE_bind, keepsE_forIn, keepsE_get, keeps_load, keeps_guard, keeps_state, keeps_entry, keeps_taken]

theorem keeps_newEntry (sp : Space) (i : BitVec 24) (blk paged : Bool) (policy prio scount wcount length tbl : Nat) : KeepsE (Eng.newEntry sp i blk paged policy prio scount wcount length tbl) :=
  keepsE_bind (keeps_entry _) fun _ => keepsE_bind (keeps_write _ _ _) fun _ => keepsE_bind (keeps_setCounts _ _ _) fun _ =>
    keepsE_bind (keeps_write _ _ _) fun _ => keepsE_bind (keeps_write _ _ _) fun _ => keepsE_bind (keeps_write _ _ _) fun _ =>
    keepsE_bind (keeps_write _ _ _) fun _ => keepsE_bind (keeps_write _ _ _) fun _ => keepsE_bind (keeps_write _ _ _) fun _ =>
    keeps_forget _ _

theorem keeps_setSlot (hk : Keeps s0 s) (h : BitVec 4) (b : Option Binding) : Keeps s0 (State.setSlot s h b) := by
  unfold State.setSlot
  grind [keeps_mk, keeps_mod]

theorem keeps_Place_unitAt (hk : Keeps s0 s) (p : Place) (k : Nat) : Keeps s0 (Place.unitAt s p k).2 := by
  unfold Place.unitAt
  grind [keeps_mk, keeps_xlate, keeps_pool, keeps_btable]

theorem keeps_Place_lookup (hk : Keeps s0 s) (p : Place) (m : Memo) (k : Nat) : Keeps s0 (Place.lookup s p m k).2.2 := by
  unfold Place.lookup
  grind [keeps_Place_unitAt]

theorem keeps_Place_runs (p : Place) (unit n : Nat) : ∀ (a k : Nat) (m : Memo) {s : State} (_ : Keeps s0 s),
    Keeps s0 (Place.runs p unit n a k m s).2.2.2 := by
  induction n with
  | zero => intros; unfold Place.runs; grind
  | succ n ih => intros; unfold Place.runs; grind [keeps_Place_lookup]

theorem keeps_Place_elem (hk : Keeps s0 s) (p : Place) (x : Elem) (m : Memo) : Keeps s0 (Place.elem p x m s).2.2.2 := by
  unfold Place.elem
  grind [keeps_Place_runs]

theorem keeps_Place_elems (p : Place) (l : List Elem) : ∀ (m : Memo) {s : State} (_ : Keeps s0 s),
    Keeps s0 (Place.elems p l m s).2.2.2 := by
  induction l with
  | nil => intros; unfold Place.elems; grind
  | cons x l ih => intros; unfold Place.elems; grind [keeps_Place_elem]

theorem keeps_meetChecks (hk : Keeps s0 s) (e : Entry) (u : Use) (l : List Elem) : Keeps s0 (s.meetChecks e u l) := by
  unfold State.meetChecks
  split
  · exact hk
  · exact keeps_meetAll hk _

theorem keeps_checks (hk : Keeps s0 s) (h : BitVec 4) (u : Use) (f : State → Entry → List Elem) : Keeps s0 (State.checks s h u f).2.2 := by
  unfold State.checks
  grind [keeps_view, keeps_meetChecks]

theorem keeps_reachBy (hk : Keeps s0 s) (h : BitVec 4) (u : Use) (vec : Bool) (f : State → Entry → List Elem) : Keeps s0 (State.reachBy s h u vec f).2.2 := by
  unfold State.reachBy
  grind [keeps_checks]

theorem keeps_reach (hk : Keeps s0 s) (h : BitVec 4) (u : Use) (vec : Bool) (l : List Elem) : Keeps s0 (State.reach s h u vec l).2 := by
  unfold State.reach
  grind [keeps_reachBy]

theorem keeps_unwound (hk : Keeps s0 s) (vec : Bool) {t : State} (ht : Keeps s0 t) : Keeps s0 (State.unwound s vec t) := by
  unfold State.unwound
  grind [keeps_mk]

theorem keeps_one (hk : Keeps s0 s) (h : BitVec 4) (u : Use) (vec : Bool) (off : Int) (len : Nat) : Keeps s0 (State.one s h u vec off len).2 := by
  unfold State.one
  grind [keeps_Place_runs, keeps_Place_elem, keeps_reach, keeps_unwound]

theorem keeps_switchTo (hk : Keeps s0 s) (k : Nat) : Keeps s0 (State.switchTo s k) := by
  unfold State.switchTo
  grind [keeps_mk]

theorem keeps_onCtx (hk : Keeps s0 s) (k : Nat) (f : State → State) (hf : ∀ t, Keeps s0 t → Keeps s0 (f t)) : Keeps s0 (State.onCtx s k f) := by
  unfold State.onCtx
  grind [keeps_switchTo]

theorem keeps_takeSlot (hk : Keeps s0 s) (k n : Nat) : Keeps s0 (State.takeSlot s k n) := by
  unfold State.takeSlot
  grind [keeps_mk, keeps_modHart]

theorem keeps_fillSlots (cl n : Nat) : ∀ {s : State} (_ : Keeps s0 s), Keeps s0 (State.fillSlots s cl n) := by
  induction n with
  | zero => intros; unfold State.fillSlots; grind
  | succ n ih => intros; unfold State.fillSlots; grind [keeps_modClu, keeps_takeSlot, Cluster.sound_iff]

theorem keeps_makeReady (hk : Keeps s0 s) (k : Nat) : Keeps s0 (State.makeReady s k) := by
  unfold State.makeReady
  grind [keeps_mk, Cluster.sound_iff, keeps_modHart, keeps_modClu, keeps_fillSlots]

theorem keeps_wake (hk : Keeps s0 s) (k : Nat) : Keeps s0 (State.wake s k) := by
  unfold State.wake
  grind [keeps_mk, keeps_modHart, keeps_makeReady]

theorem keeps_wakeAll (hk : Keeps s0 s) (l : List Nat) : Keeps s0 (State.wakeAll s l) := by
  unfold State.wakeAll
  grind [keeps_foldl, keeps_foldl_snd, keeps_wake]

theorem keeps_modGang (hk : Keeps s0 s) (cl : Nat) (g : BitVec 3) (f : Gang → Gang) : Keeps s0 (State.modGang s cl g f) := by
  unfold State.modGang
  grind [keeps_mk, Cluster.sound_iff, keeps_modClu]

theorem keeps_completeBarrier (hk : Keeps s0 s) (cl : Nat) (g : BitVec 3) : Keeps s0 (State.completeBarrier s cl g) := by
  unfold State.completeBarrier
  grind [keeps_mk, keeps_wakeAll, keeps_modGang]

theorem keeps_leaveGang (hk : Keeps s0 s) (k : Nat) : Keeps s0 (State.leaveGang s k) := by
  unfold State.leaveGang
  grind [keeps_mk, keeps_modHart, keeps_modGang, keeps_completeBarrier]

theorem keeps_joinGang (hk : Keeps s0 s) (k : Nat) (g : BitVec 3) : Keeps s0 (State.joinGang s k g) := by
  unfold State.joinGang
  grind [keeps_mk, keeps_modHart, keeps_modGang]

theorem keeps_holdLanes (hk : Keeps s0 s) (lg : Nat) : Keeps s0 (s.holdLanes lg) := keeps_mod hk _

theorem keeps_regrant (hk : Keeps s0 s) : Keeps s0 (State.regrant s) := by
  unfold State.regrant
  split
  · exact keeps_holdLanes hk _
  · exact keeps_mod hk _

theorem keeps_discardTokens (h : Keeps s0 s) (k : Nat) : Keeps s0 (State.discardTokens s k) := by
  unfold State.discardTokens
  refine keeps_foldl _ _ (fun t a ht => keeps_quiet ht _ ?_) (keeps_modClu h _ _ (by grind [Cluster.sound_iff]))
  exact keepsE_bind (keeps_expert _) fun _ => keeps_dropHold _ _ _

theorem keeps_releaseAll (hk : Keeps s0 s) (k : Nat) : Keeps s0 (State.releaseAll s k) := by
  unfold State.releaseAll
  grind [keeps_mk, keeps_foldl, keeps_foldl_snd, keeps_modHart, keeps_quiet, keeps_release]

theorem keeps_releaseStaging (hk : Keeps s0 s) (k : Nat) : Keeps s0 (State.releaseStaging s k) := by
  unfold State.releaseStaging
  grind [keeps_mk, Part.sound_iff, keeps_modPart]

theorem keeps_performWith (hk : Keeps s0 s) (seen : State → State) (hs : ∀ t, Keeps s0 t → Keeps s0 (seen t)) (k : Nat) :
    Keeps s0 (s.performWith seen k) := by
  unfold State.performWith
  split
  · exact hk
  · exact keeps_onCtx hk _ _ fun _ ht => keeps_foldl _ _ (fun _ _ hu => hs _ (keeps_store hu _ _ _)) (keeps_mod ht _)

theorem keeps_performStores (hk : Keeps s0 s) (k : Nat) : Keeps s0 (State.performStores s k) :=
  keeps_performWith hk id (fun _ h => h) k

theorem keeps_endHart (h : Keeps s0 s) (k : Nat) : Keeps s0 (State.endHart s k) := by
  unfold State.endHart
  refine keeps_fillSlots _ _ (keeps_modClu (keeps_modHart ?_ _ _) _ _ (by grind [Cluster.sound_iff]))
  exact keeps_releaseStaging (keeps_discardTokens (keeps_releaseAll (keeps_leaveGang (keeps_performStores h k) k) k) k) k

theorem keeps_drawKey (hk : Keeps s0 s) (k : Nat) : Keeps s0 (State.drawKey s k) := by
  unfold State.drawKey
  grind [keeps_mk, keeps_modHart]

theorem keeps_logRecord (h : Keeps s0 s) (p : Nat) (source kind : BitVec 8) (master : Nat) (hid : BitVec 32) (value extra : Word) : Keeps s0 (State.logRecord s p source kind master hid value extra) := by
  have hl : ∀ (r : LogRecord) (x : Part), x.Sound → { x with logHead := x.logHead + 1, log := (r :: x.log).take 63 : Part }.Sound :=
    fun r x hx => ⟨hx.1, hx.2, hx.3, hx.4, List.length_take_le _ _⟩
  unfold State.logRecord
  grind [keeps_mk, keeps_modPart]

theorem keeps_putFrame (hk : Keeps s0 s) (l : List Piece) (b : List Byte) (f : Frame) : Keeps s0 (State.putFrame s l b f) := by
  unfold State.putFrame
  grind [keeps_mk, keeps_store]

theorem keeps_writeFrame (h : Keeps s0 s) (kind : Nat) (va : Word) (pc : Word) (estart : Nat) : Keeps s0 (State.writeFrame s kind va pc estart).2 := by
  unfold State.writeFrame
  grind [keeps_xlateRun]

/-- The state with a frame written. -/
theorem keeps_writeFrame_ok (h : Keeps s0 s) {kind : Nat} {va pc : Word} {estart : Nat} {t u : State}
    (e : State.writeFrame s kind va pc estart = (.ok t, u)) : Keeps s0 t := by
  unfold State.writeFrame at e
  grind [keeps_xlateRun, keeps_putFrame]

theorem keeps_readFrame (hk : Keeps s0 s) (kinds : List Nat) (user : Bool) (va : Word) : Keeps s0 (State.readFrame s kinds user va).2 := by
  unfold State.readFrame
  grind [keeps_load, keeps_xlateRun]

theorem keeps_restore (hk : Keeps s0 s) (f : Frame) : Keeps s0 (State.restore s f) := by
  unfold State.restore
  grind [keeps_mk, keeps_mod]

theorem keeps_enterSup (hk : Keeps s0 s) (cause val : Word) (estart : Nat) : Keeps s0 (State.enterSup s cause val estart) := by
  unfold State.enterSup
  grind [keeps_mk, keeps_mod]

theorem keeps_endUnhandled (hk : Keeps s0 s) (cause val : Word) : Keeps s0 (State.endUnhandled s cause val) := by
  unfold State.endUnhandled
  grind [keeps_endHart, keeps_logRecord]

theorem keeps_supTrap (h : Keeps s0 s) (int : Bool) (code : BitVec 8) (val pc : Word) (estart : Nat) : Keeps s0 (State.supTrap s int code val pc estart) := by
  unfold State.supTrap
  grind [keeps_mod, keeps_writeFrame, keeps_writeFrame_ok, keeps_enterSup, keeps_endUnhandled]

theorem keeps_userTrap (h : Keeps s0 s) (vec : Bool) (code : BitVec 8) (val pc : Word) (estart : Nat) : Keeps s0 (State.userTrap s vec code val pc estart) := by
  unfold State.userTrap
  split
  · exact keeps_supTrap h _ _ _ _ _
  · have hw := keeps_writeFrame h 0 s.h.uframe pc estart
    split <;> rename_i e
    · exact keeps_mod (keeps_writeFrame_ok h e) _
    · rw [e] at hw; exact keeps_supTrap hw _ _ _ _ _

theorem keeps_deliver (hk : Keeps s0 s) (t : Trap) (pc : Word) : Keeps s0 (State.deliver s t pc) := by
  unfold State.deliver
  grind [keeps_supTrap, keeps_userTrap]

theorem keeps_raise (hk : Keeps s0 s) (t : Trap) : KeepsOut s0 (State.raise s t) := by
  unfold State.raise
  grind [KeepsOut, keeps_wait, keeps_mod, keeps_deliver]

theorem keeps_illegal (hk : Keeps s0 s) (sub : Nat) (word : BitVec 32) : KeepsOut s0 (State.illegal s sub word) := by
  unfold State.illegal
  grind [KeepsOut, keeps_raise]

theorem keeps_legal (hk : Keeps s0 s) (word : BitVec 32) (conds : List (Bool × Nat)) (f : Unit → Out) (hf : KeepsOut s0 (f ())) : KeepsOut s0 (State.legal s word conds f) := by
  unfold State.legal
  grind [KeepsOut, keeps_illegal]

theorem keeps_drained (hk : Keeps s0 s) (f : State → Out) (hf : ∀ t, Keeps s0 t → KeepsOut s0 (f t)) : KeepsOut s0 (State.drained s f) := by
  unfold State.drained
  grind [KeepsOut, keeps_wait]

theorem keeps_callTrap (hk : Keeps s0 s) (code : BitVec 8) (val pc : Word) : KeepsOut s0 (State.callTrap s code val pc) := by
  unfold State.callTrap
  grind [KeepsOut, keeps_wait, keeps_supTrap]

theorem keeps_userReturn (hk : Keeps s0 s) : KeepsOut s0 (State.userReturn s) := by
  unfold State.userReturn
  have hr := keeps_readFrame hk [0] s.user s.h.uframe
  split
  · exact keeps_wait hk
  · split <;> rename_i e <;> rw [e] at hr
    · exact keeps_regrant (keeps_mod (keeps_restore hr _) _)
    · exact keeps_raise hr _
    · exact keeps_raise hr _

theorem keeps_setScr (hk : Keeps s0 s) (l : List Word) : Keeps s0 (State.setScr s l) := by
  unfold State.setScr
  grind [keeps_mk, keeps_foldl, keeps_foldl_snd, keeps_mod]

theorem keeps_supReturn (hk : Keeps s0 s) : KeepsOut s0 (State.supReturn s) := by
  unfold State.supReturn
  have hr := keeps_readFrame hk [1, 3] false s.h.sframe
  split <;> rename_i e <;> rw [e] at hr
  · split
    · exact keeps_wait hk
    · dsimp only
      split
      · exact keeps_setScr (keeps_mod (keeps_restore hr _) _) _
      · exact keeps_regrant (keeps_mod (keeps_restore hr _) _)
  · exact keeps_raise hr _
  · exact keeps_raise hr _

theorem keeps_raiseFlags (hk : Keeps s0 s) (f : Flags) : Keeps s0 (State.raiseFlags s f) := by
  unfold State.raiseFlags
  grind [keeps_mk, keeps_mod]

theorem keeps_setVreg (hk : Keeps s0 s) (r : Nat) (v : VReg) : Keeps s0 (State.setVreg s r v) := by
  unfold State.setVreg
  grind [keeps_mk, keeps_mod]

theorem keeps_setMask (hk : Keeps s0 s) (m v : Nat) : Keeps s0 (State.setMask s m v) := by
  unfold State.setMask
  grind [keeps_mk, keeps_mod]

theorem keeps_issueWhen (hk : Keeps s0 s) (w : State → Bool) (c : Bool) (p : Path) (word : BitVec 32) (regs : State → List Nat) (bad : State → Illegal) (grant : State → Bool) (f : State → Out) (hf : ∀ t, Keeps s0 t → KeepsOut s0 (f t)) : KeepsOut s0 (State.issueWhen s w c p word regs bad grant f) := by
  unfold State.issueWhen
  grind [keeps_mk, KeepsOut, keeps_mod, keeps_wait, keeps_onHart, keeps_legal]

theorem keeps_issue (hk : Keeps s0 s) (c : Bool) (p : Path) (word : BitVec 32) (regs : State → List Nat) (bad : State → Illegal) (grant : State → Bool) (f : State → Out) (hf : ∀ t, Keeps s0 t → KeepsOut s0 (f t)) : KeepsOut s0 (State.issue s c p word regs bad grant f) :=
  keeps_issueWhen hk _ c p word regs bad grant f hf

theorem keeps_vector (hk : Keeps s0 s) (c : Bool) (p : Path) (word : BitVec 32) (regs : List Nat) (bad : State → Illegal) (f : State → Out) (hf : ∀ t, Keeps s0 t → KeepsOut s0 (f t)) : KeepsOut s0 (State.vector s c p word regs bad f) := by
  unfold State.vector
  grind [KeepsOut, keeps_issue]

theorem keeps_overflow (hk : Keeps s0 s) (word : BitVec 32) (conds : List (Nat × Nat)) (f : State → Out) (hf : ∀ t, Keeps s0 t → KeepsOut s0 (f t)) : KeepsOut s0 (State.overflow s word conds f) := by
  unfold State.overflow
  grind [KeepsOut, keeps_pick, keeps_raise]

theorem keeps_putVec (hk : Keeps s0 s) (r bits : Nat) (from_ : VReg) : Keeps s0 (State.putVec s r bits from_) := by
  unfold State.putVec
  grind [keeps_mk, keeps_setVreg]

end Sys2Proof.Machine
end

