-- ==== Sys2Proof/Laws/KeepsVector.lean ====
section
/-!
SUPPORT. Vector computation keeps (`Keeps`).
-/

namespace Sys2Proof.Machine

set_option Elab.async false

variable {s0 s : State}

theorem keeps_finish (h : Keeps s0 s) (d : Nat) (desc : VReg) (fit : Num → Nat × Flags) (l : List (Nat × Ans)) : KeepsOut s0 (State.finish s d desc fit l) := by
  unfold State.finish
  grind [KeepsOut, keeps_adv, keeps_raiseFlags, keeps_putVec]

theorem keeps_ewInstr (h : Keeps s0 s) (op : EwOp) (word : BitVec 32) (c : Bool) (d a b : BitVec 6) (e : BitVec 3) (m : BitVec 2) : KeepsOut s0 (ewInstr op word c d a b e m s) := by
  unfold ewInstr
  grind [KeepsOut, keeps_vector, keeps_overflow, keeps_finish]

theorem keeps_finishMask (h : Keeps s0 s) (d : Nat) (l : List (Nat × Bool × Flags)) : KeepsOut s0 (State.finishMask s d l) := by
  unfold State.finishMask
  grind [KeepsOut, keeps_foldl, keeps_foldl_snd, keeps_adv, keeps_raiseFlags, keeps_setMask]

theorem keeps_execVcmp (h : Keeps s0 s) (c : Bool) (o d : BitVec 3) (a b : BitVec 6) (e : BitVec 3) (m : BitVec 2) : KeepsOut s0 (execVcmp c o d a b e m s) := by
  unfold execVcmp
  grind [KeepsOut, keeps_vector, keeps_overflow, keeps_finishMask]

theorem keeps_execVsel (h : Keeps s0 s) (c : Bool) (d a b : BitVec 6) (e : BitVec 3) (m : BitVec 2) : KeepsOut s0 (execVsel c d a b e m s) := by
  unfold execVsel
  grind [KeepsOut, keeps_vector, keeps_overflow, keeps_finish]

theorem keeps_execVpmul (h : Keeps s0 s) (c : Bool) (d a b : BitVec 6) (e : BitVec 3) (m : BitVec 2) : KeepsOut s0 (execVpmul c d a b e m s) := by
  unfold execVpmul
  grind [KeepsOut, keeps_vector, keeps_overflow, keeps_finish]

theorem keeps_vkInstr (h : Keeps s0 s) (op : EwOp) (word : BitVec 32) (c : Bool) (d : BitVec 6) (p : BitVec 2) (a : BitVec 6) (q : BitVec 2) (b : BitVec 6) : KeepsOut s0 (vkInstr op word c d p a q b s) := by
  unfold vkInstr
  grind [KeepsOut, keeps_raiseFlags, keeps_vector, keeps_overflow, keeps_finish]

theorem keeps_execVselk (h : Keeps s0 s) (c : Bool) (d : BitVec 6) (p : BitVec 2) (a : BitVec 6) (q : BitVec 2) (b : BitVec 6) : KeepsOut s0 (execVselk c d p a q b s) := by
  unfold execVselk
  grind [KeepsOut, keeps_raiseFlags, keeps_vector, keeps_overflow, keeps_finish]

theorem keeps_execVcmpk (h : Keeps s0 s) (c : Bool) (o d : BitVec 3) (p : BitVec 2) (a : BitVec 6) (q : BitVec 2) (b : BitVec 6) : KeepsOut s0 (execVcmpk c o d p a q b s) := by
  unfold execVcmpk
  grind [KeepsOut, keeps_raiseFlags, keeps_vector, keeps_finishMask]

theorem keeps_execVadd (h : Keeps s0 s) (c : Bool) (d a b : BitVec 6) (e : BitVec 3) (m : BitVec 2) : KeepsOut s0 (execVadd c d a b e m s) := by
  unfold execVadd
  grind [KeepsOut, keeps_ewInstr]

theorem keeps_execVsub (h : Keeps s0 s) (c : Bool) (d a b : BitVec 6) (e : BitVec 3) (m : BitVec 2) : KeepsOut s0 (execVsub c d a b e m s) := by
  unfold execVsub
  grind [KeepsOut, keeps_ewInstr]

theorem keeps_execVmul (h : Keeps s0 s) (c : Bool) (d a b : BitVec 6) (e : BitVec 3) (m : BitVec 2) : KeepsOut s0 (execVmul c d a b e m s) := by
  unfold execVmul
  grind [KeepsOut, keeps_ewInstr]

theorem keeps_execVmulh (h : Keeps s0 s) (c : Bool) (d a b : BitVec 6) (e : BitVec 3) (m : BitVec 2) : KeepsOut s0 (execVmulh c d a b e m s) := by
  unfold execVmulh
  grind [KeepsOut, keeps_ewInstr]

theorem keeps_execVfma (h : Keeps s0 s) (c : Bool) (d a b : BitVec 6) (e : BitVec 3) (m : BitVec 2) : KeepsOut s0 (execVfma c d a b e m s) := by
  unfold execVfma
  grind [KeepsOut, keeps_ewInstr]

theorem keeps_execVfms (h : Keeps s0 s) (c : Bool) (d a b : BitVec 6) (e : BitVec 3) (m : BitVec 2) : KeepsOut s0 (execVfms c d a b e m s) := by
  unfold execVfms
  grind [KeepsOut, keeps_ewInstr]

theorem keeps_execVdiv (h : Keeps s0 s) (c : Bool) (d a b : BitVec 6) (e : BitVec 3) (m : BitVec 2) : KeepsOut s0 (execVdiv c d a b e m s) := by
  unfold execVdiv
  grind [KeepsOut, keeps_ewInstr]

theorem keeps_execVrem (h : Keeps s0 s) (c : Bool) (d a b : BitVec 6) (e : BitVec 3) (m : BitVec 2) : KeepsOut s0 (execVrem c d a b e m s) := by
  unfold execVrem
  grind [KeepsOut, keeps_ewInstr]

theorem keeps_execVmin (h : Keeps s0 s) (c : Bool) (d a b : BitVec 6) (e : BitVec 3) (m : BitVec 2) : KeepsOut s0 (execVmin c d a b e m s) := by
  unfold execVmin
  grind [KeepsOut, keeps_ewInstr]

theorem keeps_execVmax (h : Keeps s0 s) (c : Bool) (d a b : BitVec 6) (e : BitVec 3) (m : BitVec 2) : KeepsOut s0 (execVmax c d a b e m s) := by
  unfold execVmax
  grind [KeepsOut, keeps_ewInstr]

theorem keeps_execVand (h : Keeps s0 s) (c : Bool) (d a b : BitVec 6) (e : BitVec 3) (m : BitVec 2) : KeepsOut s0 (execVand c d a b e m s) := by
  unfold execVand
  grind [KeepsOut, keeps_ewInstr]

theorem keeps_execVor (h : Keeps s0 s) (c : Bool) (d a b : BitVec 6) (e : BitVec 3) (m : BitVec 2) : KeepsOut s0 (execVor c d a b e m s) := by
  unfold execVor
  grind [KeepsOut, keeps_ewInstr]

theorem keeps_execVxor (h : Keeps s0 s) (c : Bool) (d a b : BitVec 6) (e : BitVec 3) (m : BitVec 2) : KeepsOut s0 (execVxor c d a b e m s) := by
  unfold execVxor
  grind [KeepsOut, keeps_ewInstr]

theorem keeps_execVshl (h : Keeps s0 s) (c : Bool) (d a b : BitVec 6) (e : BitVec 3) (m : BitVec 2) : KeepsOut s0 (execVshl c d a b e m s) := by
  unfold execVshl
  grind [KeepsOut, keeps_ewInstr]

theorem keeps_execVshrL (h : Keeps s0 s) (c : Bool) (d a b : BitVec 6) (e : BitVec 3) (m : BitVec 2) : KeepsOut s0 (execVshrL c d a b e m s) := by
  unfold execVshrL
  grind [KeepsOut, keeps_ewInstr]

theorem keeps_execVshrA (h : Keeps s0 s) (c : Bool) (d a b : BitVec 6) (e : BitVec 3) (m : BitVec 2) : KeepsOut s0 (execVshrA c d a b e m s) := by
  unfold execVshrA
  grind [KeepsOut, keeps_ewInstr]

theorem keeps_execVshrAr (h : Keeps s0 s) (c : Bool) (d a b : BitVec 6) (e : BitVec 3) (m : BitVec 2) : KeepsOut s0 (execVshrAr c d a b e m s) := by
  unfold execVshrAr
  grind [KeepsOut, keeps_ewInstr]

theorem keeps_execVadds (h : Keeps s0 s) (c : Bool) (d a b : BitVec 6) (e : BitVec 3) (m : BitVec 2) : KeepsOut s0 (execVadds c d a b e m s) := by
  unfold execVadds
  grind [KeepsOut, keeps_ewInstr]

theorem keeps_execVabsd (h : Keeps s0 s) (c : Bool) (d a b : BitVec 6) (e : BitVec 3) (m : BitVec 2) : KeepsOut s0 (execVabsd c d a b e m s) := by
  unfold execVabsd
  grind [KeepsOut, keeps_ewInstr]

theorem keeps_execVavg (h : Keeps s0 s) (c : Bool) (d a b : BitVec 6) (e : BitVec 3) (m : BitVec 2) : KeepsOut s0 (execVavg c d a b e m s) := by
  unfold execVavg
  grind [KeepsOut, keeps_ewInstr]

theorem keeps_execVaddk (h : Keeps s0 s) (c : Bool) (d : BitVec 6) (p : BitVec 2) (a : BitVec 6) (q : BitVec 2) (b : BitVec 6) : KeepsOut s0 (execVaddk c d p a q b s) := by
  unfold execVaddk
  grind [KeepsOut, keeps_vkInstr]

theorem keeps_execVsubk (h : Keeps s0 s) (c : Bool) (d : BitVec 6) (p : BitVec 2) (a : BitVec 6) (q : BitVec 2) (b : BitVec 6) : KeepsOut s0 (execVsubk c d p a q b s) := by
  unfold execVsubk
  grind [KeepsOut, keeps_vkInstr]

theorem keeps_execVmulk (h : Keeps s0 s) (c : Bool) (d : BitVec 6) (p : BitVec 2) (a : BitVec 6) (q : BitVec 2) (b : BitVec 6) : KeepsOut s0 (execVmulk c d p a q b s) := by
  unfold execVmulk
  grind [KeepsOut, keeps_vkInstr]

theorem keeps_execVfmak (h : Keeps s0 s) (c : Bool) (d : BitVec 6) (p : BitVec 2) (a : BitVec 6) (q : BitVec 2) (b : BitVec 6) : KeepsOut s0 (execVfmak c d p a q b s) := by
  unfold execVfmak
  grind [KeepsOut, keeps_vkInstr]

theorem keeps_execVmink (h : Keeps s0 s) (c : Bool) (d : BitVec 6) (p : BitVec 2) (a : BitVec 6) (q : BitVec 2) (b : BitVec 6) : KeepsOut s0 (execVmink c d p a q b s) := by
  unfold execVmink
  grind [KeepsOut, keeps_vkInstr]

theorem keeps_execVmaxk (h : Keeps s0 s) (c : Bool) (d : BitVec 6) (p : BitVec 2) (a : BitVec 6) (q : BitVec 2) (b : BitVec 6) : KeepsOut s0 (execVmaxk c d p a q b s) := by
  unfold execVmaxk
  grind [KeepsOut, keeps_vkInstr]

theorem keeps_finishMoves (h : Keeps s0 s) (d a : Nat) (desc : VReg) (l : Moves) : KeepsOut s0 (State.finishMoves s d a desc l) := by
  unfold State.finishMoves
  grind [KeepsOut, keeps_finish]

theorem keeps_finishBlocks (h : Keeps s0 s) (d a : Nat) (desc : VReg) (l : Moves) : KeepsOut s0 (State.finishBlocks s d a desc l) := by
  unfold State.finishBlocks
  grind [keeps_mk, KeepsOut, keeps_foldl, keeps_foldl_snd, keeps_adv, keeps_putVec, keeps_finishMoves]

theorem keeps_finishAny (h : Keeps s0 s) (d a : Nat) (desc : VReg) (l : Moves) : KeepsOut s0 (State.finishAny s d a desc l) := by
  unfold State.finishAny
  grind [KeepsOut, keeps_finishMoves, keeps_finishBlocks]

theorem keeps_slide (h : Keeps s0 s) (src : Int → Int → Int) (word : BitVec 32) (c : Bool) (d a b : BitVec 6) (e : BitVec 3) (m : BitVec 2) : KeepsOut s0 (slide src word c d a b e m s) := by
  unfold slide
  grind [KeepsOut, keeps_vector, keeps_overflow, keeps_finishAny]

theorem keeps_execVslideUp (h : Keeps s0 s) (c : Bool) (d a b : BitVec 6) (e : BitVec 3) (m : BitVec 2) : KeepsOut s0 (execVslideUp c d a b e m s) := by
  unfold execVslideUp
  grind [KeepsOut, keeps_slide]

theorem keeps_execVslideDn (h : Keeps s0 s) (c : Bool) (d a b : BitVec 6) (e : BitVec 3) (m : BitVec 2) : KeepsOut s0 (execVslideDn c d a b e m s) := by
  unfold execVslideDn
  grind [KeepsOut, keeps_slide]

theorem keeps_execVgatherr (h : Keeps s0 s) (c : Bool) (d a b : BitVec 6) (e : BitVec 3) (m : BitVec 2) : KeepsOut s0 (execVgatherr c d a b e m s) := by
  unfold execVgatherr
  grind [KeepsOut, keeps_vector, keeps_overflow, keeps_finishAny]

theorem keeps_execVpushl (h : Keeps s0 s) (c : Bool) (d a b : BitVec 6) (e : BitVec 3) (m : BitVec 2) : KeepsOut s0 (execVpushl c d a b e m s) := by
  unfold execVpushl
  grind [KeepsOut, keeps_vector, keeps_overflow, keeps_finishAny]

theorem keeps_execVpermb (h : Keeps s0 s) (c : Bool) (d a b : BitVec 6) (m : BitVec 2) : KeepsOut s0 (execVpermb c d a b m s) := by
  unfold execVpermb
  grind [KeepsOut, keeps_vector, keeps_finishBlocks]

theorem keeps_execVrev (h : Keeps s0 s) (c : Bool) (d a : BitVec 6) (e : BitVec 3) (m : BitVec 2) : KeepsOut s0 (execVrev c d a e m s) := by
  unfold execVrev
  grind [KeepsOut, keeps_vector, keeps_overflow, keeps_finishAny]

theorem keeps_maskOp (h : Keeps s0 s) (f : State → Nat) (word : BitVec 32) (c : Bool) (d : BitVec 3) : KeepsOut s0 (maskOp f word c d s) := by
  unfold maskOp
  grind [KeepsOut, keeps_adv, keeps_setMask, keeps_vector]

theorem keeps_execVmskAnd (h : Keeps s0 s) (c : Bool) (d a b : BitVec 3) : KeepsOut s0 (execVmskAnd c d a b s) := by
  unfold execVmskAnd
  grind [KeepsOut, keeps_maskOp]

theorem keeps_execVmskOr (h : Keeps s0 s) (c : Bool) (d a b : BitVec 3) : KeepsOut s0 (execVmskOr c d a b s) := by
  unfold execVmskOr
  grind [KeepsOut, keeps_maskOp]

theorem keeps_execVmskXor (h : Keeps s0 s) (c : Bool) (d a b : BitVec 3) : KeepsOut s0 (execVmskXor c d a b s) := by
  unfold execVmskXor
  grind [KeepsOut, keeps_maskOp]

theorem keeps_execVmskAndn (h : Keeps s0 s) (c : Bool) (d a b : BitVec 3) : KeepsOut s0 (execVmskAndn c d a b s) := by
  unfold execVmskAndn
  grind [KeepsOut, keeps_maskOp]

theorem keeps_execVmskNot (h : Keeps s0 s) (c : Bool) (d a : BitVec 3) : KeepsOut s0 (execVmskNot c d a s) := by
  unfold execVmskNot
  grind [KeepsOut, keeps_maskOp]

theorem keeps_execVmskCount (h : Keeps s0 s) (c : Bool) (d a : BitVec 6) : KeepsOut s0 (execVmskCount c d a s) := by
  unfold execVmskCount
  grind [KeepsOut, keeps_wr, keeps_adv, keeps_vector]

theorem keeps_execVmskFirst (h : Keeps s0 s) (c : Bool) (d a : BitVec 6) : KeepsOut s0 (execVmskFirst c d a s) := by
  unfold execVmskFirst
  grind [keeps_mk, KeepsOut, keeps_wrInt, keeps_adv, keeps_vector]

theorem keeps_writeLengths (h : Keeps s0 s) (d : Nat) (l : List Nat) : Keeps s0 (State.writeLengths s d l) := by
  unfold State.writeLengths
  grind [keeps_raiseFlags, keeps_putVec]

theorem keeps_execSpush (h : Keeps s0 s) (c : Bool) (d a b : BitVec 6) : KeepsOut s0 (execSpush c d a b s) := by
  unfold execSpush
  grind [keeps_mk, KeepsOut, keeps_adv, keeps_setVreg, keeps_vector, keeps_overflow]

theorem keeps_execSpop (h : Keeps s0 s) (c : Bool) (d a b : BitVec 6) : KeepsOut s0 (execSpop c d a b s) := by
  unfold execSpop
  grind [keeps_mk, KeepsOut, keeps_wr, keeps_adv, keeps_setVreg, keeps_vector, keeps_writeLengths]

theorem keeps_execSdepth (h : Keeps s0 s) (c : Bool) (d a : BitVec 6) : KeepsOut s0 (execSdepth c d a s) := by
  unfold execSdepth
  grind [KeepsOut, keeps_wr, keeps_adv, keeps_vector]

theorem keeps_execSgetl (h : Keeps s0 s) (c : Bool) (d a b : BitVec 6) (e : BitVec 3) : KeepsOut s0 (execSgetl c d a b e s) := by
  unfold execSgetl
  grind [KeepsOut, keeps_wr, keeps_adv, keeps_vector, keeps_writeLengths]

theorem keeps_execVflat (h : Keeps s0 s) (c : Bool) (d a : BitVec 6) (e : BitVec 3) : KeepsOut s0 (execVflat c d a e s) := by
  unfold execVflat
  grind [keeps_mk, KeepsOut, keeps_adv, keeps_vector, keeps_overflow, keeps_putVec]

theorem keeps_execSopen (h : Keeps s0 s) (c : Bool) (d a b : BitVec 6) : KeepsOut s0 (execSopen c d a b s) := by
  unfold execSopen
  grind [keeps_mk, KeepsOut, keeps_wr, keeps_adv, keeps_setVreg, keeps_vector]

theorem keeps_unInstr (h : Keeps s0 s) (op : UnOp) (word : BitVec 32) (c : Bool) (d a : BitVec 6) (m : BitVec 2) : KeepsOut s0 (unInstr op word c d a m s) := by
  unfold unInstr
  grind [KeepsOut, keeps_vector, keeps_overflow, keeps_finish]

theorem keeps_execVabs (h : Keeps s0 s) (c : Bool) (d a : BitVec 6) (m : BitVec 2) : KeepsOut s0 (execVabs c d a m s) := by
  unfold execVabs
  grind [KeepsOut, keeps_unInstr]

theorem keeps_execVneg (h : Keeps s0 s) (c : Bool) (d a : BitVec 6) (m : BitVec 2) : KeepsOut s0 (execVneg c d a m s) := by
  unfold execVneg
  grind [KeepsOut, keeps_unInstr]

theorem keeps_execVnot (h : Keeps s0 s) (c : Bool) (d a : BitVec 6) (m : BitVec 2) : KeepsOut s0 (execVnot c d a m s) := by
  unfold execVnot
  grind [KeepsOut, keeps_unInstr]

theorem keeps_execVsqrt (h : Keeps s0 s) (c : Bool) (d a : BitVec 6) (m : BitVec 2) : KeepsOut s0 (execVsqrt c d a m s) := by
  unfold execVsqrt
  grind [KeepsOut, keeps_unInstr]

theorem keeps_execVclz (h : Keeps s0 s) (c : Bool) (d a : BitVec 6) (m : BitVec 2) : KeepsOut s0 (execVclz c d a m s) := by
  unfold execVclz
  grind [KeepsOut, keeps_unInstr]

theorem keeps_execVpopc (h : Keeps s0 s) (c : Bool) (d a : BitVec 6) (m : BitVec 2) : KeepsOut s0 (execVpopc c d a m s) := by
  unfold execVpopc
  grind [KeepsOut, keeps_unInstr]

theorem keeps_execVcvt (h : Keeps s0 s) (c : Bool) (d a : BitVec 6) (m : BitVec 2) : KeepsOut s0 (execVcvt c d a m s) := by
  unfold execVcvt
  grind [KeepsOut, keeps_unInstr]

theorem keeps_execVmv (h : Keeps s0 s) (c : Bool) (d a : BitVec 6) (m : BitVec 2) : KeepsOut s0 (execVmv c d a m s) := by
  unfold execVmv
  grind [KeepsOut, keeps_adv, keeps_vector, keeps_overflow, keeps_putVec]

theorem keeps_execViota (h : Keeps s0 s) (c : Bool) (d : BitVec 6) (m : BitVec 2) : KeepsOut s0 (execViota c d m s) := by
  unfold execViota
  grind [KeepsOut, keeps_vector, keeps_finish]

theorem keeps_execVrscale (h : Keeps s0 s) (c : Bool) (d a : BitVec 6) (m : BitVec 2) : KeepsOut s0 (execVrscale c d a m s) := by
  unfold execVrscale
  grind [KeepsOut, keeps_vector, keeps_overflow, keeps_finish]

theorem keeps_execVbc (h : Keeps s0 s) (c : Bool) (d a : BitVec 6) (m : BitVec 2) : KeepsOut s0 (execVbc c d a m s) := by
  unfold execVbc
  grind [KeepsOut, keeps_vector, keeps_finish]

theorem keeps_finishRed (h : Keeps s0 s) (d : Nat) (desc : VReg) (l : List (Nat × Nat)) (b : BitVec 6) (carry : Word) (f : Flags) : KeepsOut s0 (State.finishRed s d desc l b carry f) := by
  unfold State.finishRed
  grind [KeepsOut, keeps_wr, keeps_adv, keeps_raiseFlags, keeps_putVec]

theorem keeps_redInstr (h : Keeps s0 s) (op : RedOp) (word : BitVec 32) (c : Bool) (d a b : BitVec 6) (e : BitVec 3) (m : BitVec 2) : KeepsOut s0 (redInstr op word c d a b e m s) := by
  unfold redInstr
  grind [keeps_mk, KeepsOut, keeps_foldl, keeps_foldl_snd, keeps_vector, keeps_overflow, keeps_finishRed]

theorem keeps_scanInstr (h : Keeps s0 s) (op : RedOp) (exclusive : Bool) (word : BitVec 32) (c : Bool) (d a b : BitVec 6) (e : BitVec 3) (m : BitVec 2) : KeepsOut s0 (scanInstr op exclusive word c d a b e m s) := by
  unfold scanInstr
  grind [keeps_mk, KeepsOut, keeps_foldl, keeps_foldl_snd, keeps_vector, keeps_overflow, keeps_finishRed]

theorem keeps_execVidxmax (h : Keeps s0 s) (c : Bool) (d a b : BitVec 6) (e : BitVec 3) (m : BitVec 2) : KeepsOut s0 (execVidxmax c d a b e m s) := by
  unfold execVidxmax
  grind [keeps_mk, KeepsOut, keeps_foldl, keeps_foldl_snd, keeps_vector, keeps_overflow, keeps_finishRed]

theorem keeps_execVredAdd (h : Keeps s0 s) (c : Bool) (d a b : BitVec 6) (e : BitVec 3) (m : BitVec 2) : KeepsOut s0 (execVredAdd c d a b e m s) := by
  unfold execVredAdd
  grind [KeepsOut, keeps_redInstr]

theorem keeps_execVredMul (h : Keeps s0 s) (c : Bool) (d a b : BitVec 6) (e : BitVec 3) (m : BitVec 2) : KeepsOut s0 (execVredMul c d a b e m s) := by
  unfold execVredMul
  grind [KeepsOut, keeps_redInstr]

theorem keeps_execVredMin (h : Keeps s0 s) (c : Bool) (d a b : BitVec 6) (e : BitVec 3) (m : BitVec 2) : KeepsOut s0 (execVredMin c d a b e m s) := by
  unfold execVredMin
  grind [KeepsOut, keeps_redInstr]

theorem keeps_execVredMax (h : Keeps s0 s) (c : Bool) (d a b : BitVec 6) (e : BitVec 3) (m : BitVec 2) : KeepsOut s0 (execVredMax c d a b e m s) := by
  unfold execVredMax
  grind [KeepsOut, keeps_redInstr]

theorem keeps_execVredbAnd (h : Keeps s0 s) (c : Bool) (d a b : BitVec 6) (e : BitVec 3) (m : BitVec 2) : KeepsOut s0 (execVredbAnd c d a b e m s) := by
  unfold execVredbAnd
  grind [KeepsOut, keeps_redInstr]

theorem keeps_execVredbOr (h : Keeps s0 s) (c : Bool) (d a b : BitVec 6) (e : BitVec 3) (m : BitVec 2) : KeepsOut s0 (execVredbOr c d a b e m s) := by
  unfold execVredbOr
  grind [KeepsOut, keeps_redInstr]

theorem keeps_execVredbXor (h : Keeps s0 s) (c : Bool) (d a b : BitVec 6) (e : BitVec 3) (m : BitVec 2) : KeepsOut s0 (execVredbXor c d a b e m s) := by
  unfold execVredbXor
  grind [KeepsOut, keeps_redInstr]

theorem keeps_execVscanAddInc (h : Keeps s0 s) (c : Bool) (d a b : BitVec 6) (e : BitVec 3) (m : BitVec 2) : KeepsOut s0 (execVscanAddInc c d a b e m s) := by
  unfold execVscanAddInc
  grind [KeepsOut, keeps_scanInstr]

theorem keeps_execVscanAddExc (h : Keeps s0 s) (c : Bool) (d a b : BitVec 6) (e : BitVec 3) (m : BitVec 2) : KeepsOut s0 (execVscanAddExc c d a b e m s) := by
  unfold execVscanAddExc
  grind [KeepsOut, keeps_scanInstr]

theorem keeps_execVscanMaxInc (h : Keeps s0 s) (c : Bool) (d a b : BitVec 6) (e : BitVec 3) (m : BitVec 2) : KeepsOut s0 (execVscanMaxInc c d a b e m s) := by
  unfold execVscanMaxInc
  grind [KeepsOut, keeps_scanInstr]

theorem keeps_execVscanMaxExc (h : Keeps s0 s) (c : Bool) (d a b : BitVec 6) (e : BitVec 3) (m : BitVec 2) : KeepsOut s0 (execVscanMaxExc c d a b e m s) := by
  unfold execVscanMaxExc
  grind [KeepsOut, keeps_scanInstr]

theorem keeps_execVpack (h : Keeps s0 s) (c : Bool) (d a : BitVec 6) (m : BitVec 2) : KeepsOut s0 (execVpack c d a m s) := by
  unfold execVpack
  grind [keeps_mk, KeepsOut, keeps_vector, keeps_overflow, keeps_finish]

theorem keeps_execVdist (h : Keeps s0 s) (c : Bool) (d a b : BitVec 6) (e : BitVec 3) (m : BitVec 2) : KeepsOut s0 (execVdist c d a b e m s) := by
  unfold execVdist
  grind [KeepsOut, keeps_vector, keeps_overflow, keeps_finish]

theorem keeps_splitInstr (h : Keeps s0 s) (word : BitVec 32) (c : Bool) (d a : BitVec 6) (kids : State → VReg → List Nat → List (List Nat) × Flags) (count : Nat → Nat) : KeepsOut s0 (splitInstr word c d a kids count s) := by
  unfold splitInstr
  grind [keeps_mk, KeepsOut, keeps_foldl, keeps_foldl_snd, keeps_count, keeps_raiseFlags, keeps_vector, keeps_overflow, keeps_finish]

theorem keeps_execVsplitMask (h : Keeps s0 s) (c : Bool) (d a : BitVec 6) (m : BitVec 2) : KeepsOut s0 (execVsplitMask c d a m s) := by
  unfold execVsplitMask
  grind [KeepsOut, keeps_splitInstr]

theorem keeps_execVsplitThree (h : Keeps s0 s) (c : Bool) (d a : BitVec 6) : KeepsOut s0 (execVsplitThree c d a s) := by
  unfold execVsplitThree
  grind [KeepsOut, keeps_splitInstr]

theorem keeps_execVmergek (h : Keeps s0 s) (c : Bool) (d a b : BitVec 6) (e : BitVec 3) (m : BitVec 2) : KeepsOut s0 (execVmergek c d a b e m s) := by
  unfold execVmergek
  grind [keeps_mk, KeepsOut, keeps_foldl, keeps_foldl_snd, keeps_raiseFlags, keeps_vector, keeps_overflow, keeps_finish]

theorem keeps_execVconfl (h : Keeps s0 s) (c : Bool) (d a : BitVec 6) (g : BitVec 3) (m : BitVec 2) : KeepsOut s0 (execVconfl c d a g m s) := by
  unfold execVconfl
  grind [keeps_mk, KeepsOut, keeps_setMask, keeps_vector, keeps_finish]

theorem keeps_macRow_ (h : Keeps s0 s) (k : MacKind) (d a b t i m : Nat) : Keeps s0 (State.macRow_ s k d a b t i m) := by
  unfold State.macRow_
  grind [keeps_mk, keeps_foldl, keeps_foldl_snd, keeps_raiseFlags, keeps_setVreg]

theorem keeps_macAll (h : Keeps s0 s) (k : MacKind) (d a b n m : Nat) : Keeps s0 (State.macAll s k d a b n m) := by
  unfold State.macAll
  grind [keeps_foldl, keeps_foldl_snd, keeps_macRow_]

theorem keeps_execMmac (h : Keeps s0 s) (c : Bool) (d a b : BitVec 6) (e : BitVec 3) (m : BitVec 2) : KeepsOut s0 (execMmac c d a b e m s) := by
  unfold execMmac
  grind [KeepsOut, keeps_adv, keeps_issue, keeps_macAll]

theorem keeps_execVrand (h : Keeps s0 s) (c : Bool) (d a : BitVec 6) : KeepsOut s0 (execVrand c d a s) := by
  unfold execVrand
  grind [KeepsOut, keeps_vector, keeps_finish]

theorem keeps_sfuInstr (h : Keeps s0 s) (op : SfuOp) (dest : Ty → Bool) (word : BitVec 32) (c : Bool) (d a : BitVec 6) : KeepsOut s0 (sfuInstr op dest word c d a s) := by
  unfold sfuInstr
  grind [keeps_mk, KeepsOut, keeps_vector, keeps_overflow, keeps_finish]

theorem keeps_execVexp (h : Keeps s0 s) (c : Bool) (d a : BitVec 6) (v : BitVec 1) : KeepsOut s0 (execVexp c d a v s) := by
  unfold execVexp
  grind [KeepsOut, keeps_sfuInstr]

theorem keeps_execVln (h : Keeps s0 s) (c : Bool) (d a : BitVec 6) : KeepsOut s0 (execVln c d a s) := by
  unfold execVln
  grind [KeepsOut, keeps_sfuInstr]

theorem keeps_execVrcp (h : Keeps s0 s) (c : Bool) (d a : BitVec 6) : KeepsOut s0 (execVrcp c d a s) := by
  unfold execVrcp
  grind [KeepsOut, keeps_sfuInstr]

theorem keeps_execVrsq (h : Keeps s0 s) (c : Bool) (d a : BitVec 6) : KeepsOut s0 (execVrsq c d a s) := by
  unfold execVrsq
  grind [KeepsOut, keeps_sfuInstr]

theorem keeps_execVsin (h : Keeps s0 s) (c : Bool) (d a : BitVec 6) : KeepsOut s0 (execVsin c d a s) := by
  unfold execVsin
  grind [KeepsOut, keeps_sfuInstr]

theorem keeps_execVcos (h : Keeps s0 s) (c : Bool) (d a : BitVec 6) : KeepsOut s0 (execVcos c d a s) := by
  unfold execVcos
  grind [KeepsOut, keeps_sfuInstr]

theorem keeps_execVtanh (h : Keeps s0 s) (c : Bool) (d a : BitVec 6) : KeepsOut s0 (execVtanh c d a s) := by
  unfold execVtanh
  grind [KeepsOut, keeps_sfuInstr]

theorem keeps_execVsigm (h : Keeps s0 s) (c : Bool) (d a : BitVec 6) : KeepsOut s0 (execVsigm c d a s) := by
  unfold execVsigm
  grind [KeepsOut, keeps_sfuInstr]

end Sys2Proof.Machine
end

