-- ==== Sys2Proof/Laws/State.lean ====
section
/-!
SUPPORT. One lemma for each field of the state under each update, so that no proof unfolds a record update, and what each
register file reads as after a write.
-/

namespace Sys2Proof.Machine

/-! ## `mod`: the current registers changed -/

@[simp] theorem State.mod_h (s : State) (f : Hart → Hart) : (s.mod f).h = f s.h := rfl
@[simp] theorem State.mod_cur (s : State) (f : Hart → Hart) : (s.mod f).cur = s.cur := rfl
@[simp] theorem State.mod_harts (s : State) (f : Hart → Hart) : (s.mod f).harts = s.harts := rfl
@[simp] theorem State.mod_clusters (s : State) (f : Hart → Hart) : (s.mod f).clusters = s.clusters := rfl
@[simp] theorem State.mod_parts (s : State) (f : Hart → Hart) : (s.mod f).parts = s.parts := rfl
@[simp] theorem State.mod_pkg (s : State) (f : Hart → Hart) : (s.mod f).pkg = s.pkg := rfl
@[simp] theorem State.mod_mem (s : State) (f : Hart → Hart) : (s.mod f).mem = s.mem := rfl
@[simp] theorem State.mod_bad (s : State) (f : Hart → Hart) : (s.mod f).bad = s.bad := rfl
@[simp] theorem State.mod_caught (s : State) (f : Hart → Hart) : (s.mod f).caught = s.caught := rfl
@[simp] theorem State.mod_inbox (s : State) (f : Hart → Hart) : (s.mod f).inbox = s.inbox := rfl
@[simp] theorem State.mod_sched (s : State) (f : Hart → Hart) : (s.mod f).sched = s.sched := rfl
@[simp] theorem State.mod_seq (s : State) (f : Hart → Hart) : (s.mod f).seq = s.seq := rfl
@[simp] theorem State.mod_cycles (s : State) (f : Hart → Hart) : (s.mod f).cycles = s.cycles := rfl

/-! ## `modClu` -/

@[simp] theorem State.modClu_cur (s : State) (k : Nat) (f : Cluster → Cluster) : (s.modClu k f).cur = s.cur := rfl
@[simp] theorem State.modClu_h (s : State) (k : Nat) (f : Cluster → Cluster) : (s.modClu k f).h = s.h := rfl
@[simp] theorem State.modClu_harts (s : State) (k : Nat) (f : Cluster → Cluster) : (s.modClu k f).harts = s.harts := rfl
@[simp] theorem State.modClu_parts (s : State) (k : Nat) (f : Cluster → Cluster) : (s.modClu k f).parts = s.parts := rfl
@[simp] theorem State.modClu_pkg (s : State) (k : Nat) (f : Cluster → Cluster) : (s.modClu k f).pkg = s.pkg := rfl
@[simp] theorem State.modClu_mem (s : State) (k : Nat) (f : Cluster → Cluster) : (s.modClu k f).mem = s.mem := rfl
@[simp] theorem State.modClu_bad (s : State) (k : Nat) (f : Cluster → Cluster) : (s.modClu k f).bad = s.bad := rfl
@[simp] theorem State.modClu_caught (s : State) (k : Nat) (f : Cluster → Cluster) : (s.modClu k f).caught = s.caught := rfl
@[simp] theorem State.modClu_inbox (s : State) (k : Nat) (f : Cluster → Cluster) : (s.modClu k f).inbox = s.inbox := rfl
@[simp] theorem State.modClu_sched (s : State) (k : Nat) (f : Cluster → Cluster) : (s.modClu k f).sched = s.sched := rfl
@[simp] theorem State.modClu_seq (s : State) (k : Nat) (f : Cluster → Cluster) : (s.modClu k f).seq = s.seq := rfl
@[simp] theorem State.modClu_cycles (s : State) (k : Nat) (f : Cluster → Cluster) : (s.modClu k f).cycles = s.cycles := rfl

/-! ## `modPart` -/

@[simp] theorem State.modPart_cur (s : State) (k : Nat) (f : Part → Part) : (s.modPart k f).cur = s.cur := rfl
@[simp] theorem State.modPart_h (s : State) (k : Nat) (f : Part → Part) : (s.modPart k f).h = s.h := rfl
@[simp] theorem State.modPart_harts (s : State) (k : Nat) (f : Part → Part) : (s.modPart k f).harts = s.harts := rfl
@[simp] theorem State.modPart_clusters (s : State) (k : Nat) (f : Part → Part) : (s.modPart k f).clusters = s.clusters := rfl
@[simp] theorem State.modPart_pkg (s : State) (k : Nat) (f : Part → Part) : (s.modPart k f).pkg = s.pkg := rfl
@[simp] theorem State.modPart_mem (s : State) (k : Nat) (f : Part → Part) : (s.modPart k f).mem = s.mem := rfl
@[simp] theorem State.modPart_bad (s : State) (k : Nat) (f : Part → Part) : (s.modPart k f).bad = s.bad := rfl
@[simp] theorem State.modPart_caught (s : State) (k : Nat) (f : Part → Part) : (s.modPart k f).caught = s.caught := rfl
@[simp] theorem State.modPart_inbox (s : State) (k : Nat) (f : Part → Part) : (s.modPart k f).inbox = s.inbox := rfl
@[simp] theorem State.modPart_sched (s : State) (k : Nat) (f : Part → Part) : (s.modPart k f).sched = s.sched := rfl
@[simp] theorem State.modPart_seq (s : State) (k : Nat) (f : Part → Part) : (s.modPart k f).seq = s.seq := rfl
@[simp] theorem State.modPart_cycles (s : State) (k : Nat) (f : Part → Part) : (s.modPart k f).cycles = s.cycles := rfl

/-! ## `modPkg` -/

@[simp] theorem State.modPkg_cur (s : State) (f : Package → Package) : (s.modPkg f).cur = s.cur := rfl
@[simp] theorem State.modPkg_h (s : State) (f : Package → Package) : (s.modPkg f).h = s.h := rfl
@[simp] theorem State.modPkg_harts (s : State) (f : Package → Package) : (s.modPkg f).harts = s.harts := rfl
@[simp] theorem State.modPkg_clusters (s : State) (f : Package → Package) : (s.modPkg f).clusters = s.clusters := rfl
@[simp] theorem State.modPkg_parts (s : State) (f : Package → Package) : (s.modPkg f).parts = s.parts := rfl
@[simp] theorem State.modPkg_mem (s : State) (f : Package → Package) : (s.modPkg f).mem = s.mem := rfl
@[simp] theorem State.modPkg_bad (s : State) (f : Package → Package) : (s.modPkg f).bad = s.bad := rfl
@[simp] theorem State.modPkg_caught (s : State) (f : Package → Package) : (s.modPkg f).caught = s.caught := rfl
@[simp] theorem State.modPkg_inbox (s : State) (f : Package → Package) : (s.modPkg f).inbox = s.inbox := rfl
@[simp] theorem State.modPkg_sched (s : State) (f : Package → Package) : (s.modPkg f).sched = s.sched := rfl
@[simp] theorem State.modPkg_seq (s : State) (f : Package → Package) : (s.modPkg f).seq = s.seq := rfl
@[simp] theorem State.modPkg_cycles (s : State) (f : Package → Package) : (s.modPkg f).cycles = s.cycles := rfl

/-! ## `jump` -/

@[simp] theorem State.jump_cur (s : State) (a : Word) : (s.jump a).cur = s.cur := rfl
@[simp] theorem State.jump_harts (s : State) (a : Word) : (s.jump a).harts = s.harts := rfl
@[simp] theorem State.jump_clusters (s : State) (a : Word) : (s.jump a).clusters = s.clusters := rfl
@[simp] theorem State.jump_parts (s : State) (a : Word) : (s.jump a).parts = s.parts := rfl
@[simp] theorem State.jump_pkg (s : State) (a : Word) : (s.jump a).pkg = s.pkg := rfl
@[simp] theorem State.jump_mem (s : State) (a : Word) : (s.jump a).mem = s.mem := rfl
@[simp] theorem State.jump_bad (s : State) (a : Word) : (s.jump a).bad = s.bad := rfl
@[simp] theorem State.jump_caught (s : State) (a : Word) : (s.jump a).caught = s.caught := rfl
@[simp] theorem State.jump_inbox (s : State) (a : Word) : (s.jump a).inbox = s.inbox := rfl
@[simp] theorem State.jump_sched (s : State) (a : Word) : (s.jump a).sched = s.sched := rfl
@[simp] theorem State.jump_seq (s : State) (a : Word) : (s.jump a).seq = s.seq := rfl
@[simp] theorem State.jump_cycles (s : State) (a : Word) : (s.jump a).cycles = s.cycles := rfl
@[simp] theorem State.jump_h_life (s : State) (a : Word) : (s.jump a).h.life = s.h.life := rfl
@[simp] theorem State.jump_h_park (s : State) (a : Word) : (s.jump a).h.park = s.h.park := rfl
@[simp] theorem State.jump_h_slot (s : State) (a : Word) : (s.jump a).h.slot = s.h.slot := rfl
@[simp] theorem State.jump_h_sup (s : State) (a : Word) : (s.jump a).h.sup = s.h.sup := rfl
@[simp] theorem State.jump_h_hgen (s : State) (a : Word) : (s.jump a).h.hgen = s.h.hgen := rfl
@[simp] theorem State.jump_h_gang (s : State) (a : Word) : (s.jump a).h.gang = s.h.gang := rfl
@[simp] theorem State.jump_h_s (s : State) (a : Word) : (s.jump a).h.s = s.h.s := rfl
@[simp] theorem State.jump_h_c (s : State) (a : Word) : (s.jump a).h.c = s.h.c := rfl
@[simp] theorem State.jump_h_v (s : State) (a : Word) : (s.jump a).h.v = s.h.v := rfl
@[simp] theorem State.jump_h_m (s : State) (a : Word) : (s.jump a).h.m = s.h.m := rfl
@[simp] theorem State.jump_h_slots (s : State) (a : Word) : (s.jump a).h.slots = s.h.slots := rfl
@[simp] theorem State.jump_h_vtype (s : State) (a : Word) : (s.jump a).h.vtype = s.h.vtype := rfl
@[simp] theorem State.jump_h_vlr (s : State) (a : Word) : (s.jump a).h.vlr = s.h.vlr := rfl
@[simp] theorem State.jump_h_vlc (s : State) (a : Word) : (s.jump a).h.vlc = s.h.vlc := rfl
@[simp] theorem State.jump_h_estart (s : State) (a : Word) : (s.jump a).h.estart = s.h.estart := rfl
@[simp] theorem State.jump_h_resuming (s : State) (a : Word) : (s.jump a).h.resuming = s.h.resuming := rfl
@[simp] theorem State.jump_h_restart (s : State) (a : Word) : (s.jump a).h.restart = s.h.restart := rfl
@[simp] theorem State.jump_h_fcsr (s : State) (a : Word) : (s.jump a).h.fcsr = s.h.fcsr := rfl
@[simp] theorem State.jump_h_exsplit (s : State) (a : Word) : (s.jump a).h.exsplit = s.h.exsplit := rfl
@[simp] theorem State.jump_h_gone (s : State) (a : Word) : (s.jump a).h.gone = s.h.gone := rfl
@[simp] theorem State.jump_h_utvec (s : State) (a : Word) : (s.jump a).h.utvec = s.h.utvec := rfl
@[simp] theorem State.jump_h_uframe (s : State) (a : Word) : (s.jump a).h.uframe = s.h.uframe := rfl
@[simp] theorem State.jump_h_ucause (s : State) (a : Word) : (s.jump a).h.ucause = s.h.ucause := rfl
@[simp] theorem State.jump_h_uval (s : State) (a : Word) : (s.jump a).h.uval = s.h.uval := rfl
@[simp] theorem State.jump_h_stvec (s : State) (a : Word) : (s.jump a).h.stvec = s.h.stvec := rfl
@[simp] theorem State.jump_h_sframe (s : State) (a : Word) : (s.jump a).h.sframe = s.h.sframe := rfl
@[simp] theorem State.jump_h_scause (s : State) (a : Word) : (s.jump a).h.scause = s.h.scause := rfl
@[simp] theorem State.jump_h_sval (s : State) (a : Word) : (s.jump a).h.sval = s.h.sval := rfl
@[simp] theorem State.jump_h_space (s : State) (a : Word) : (s.jump a).h.space = s.h.space := rfl
@[simp] theorem State.jump_h_lg (s : State) (a : Word) : (s.jump a).h.lg = s.h.lg := rfl
@[simp] theorem State.jump_h_granted (s : State) (a : Word) : (s.jump a).h.granted = s.h.granted := rfl
@[simp] theorem State.jump_h_groups (s : State) (a : Word) : (s.jump a).h.groups = s.h.groups := rfl
@[simp] theorem State.jump_h_convoy (s : State) (a : Word) : (s.jump a).h.convoy = s.h.convoy := rfl
@[simp] theorem State.jump_h_key (s : State) (a : Word) : (s.jump a).h.key = s.h.key := rfl
@[simp] theorem State.jump_h_intr (s : State) (a : Word) : (s.jump a).h.intr = s.h.intr := rfl
@[simp] theorem State.jump_h_checks (s : State) (a : Word) : (s.jump a).h.checks = s.h.checks := rfl
@[simp] theorem State.jump_h_savePending (s : State) (a : Word) : (s.jump a).h.savePending = s.h.savePending := rfl
@[simp] theorem State.jump_h_frameFault (s : State) (a : Word) : (s.jump a).h.frameFault = s.h.frameFault := rfl
@[simp] theorem State.jump_h_xfers (s : State) (a : Word) : (s.jump a).h.xfers = s.h.xfers := rfl
@[simp] theorem State.jump_h_since (s : State) (a : Word) : (s.jump a).h.since = s.h.since := rfl
@[simp] theorem State.jump_h_queue (s : State) (a : Word) : (s.jump a).h.queue = s.h.queue := rfl
@[simp] theorem State.jump_h_ahead (s : State) (a : Word) : (s.jump a).h.ahead = s.h.ahead := rfl
@[simp] theorem State.jump_h_front (s : State) (a : Word) : (s.jump a).h.front = s.h.front := rfl
@[simp] theorem State.jump_h_stores (s : State) (a : Word) : (s.jump a).h.stores = s.h.stores := rfl
@[simp] theorem State.jump_h_area (s : State) (a : Word) : (s.jump a).h.area = s.h.area := rfl

/-! ## `setVreg` -/

@[simp] theorem State.setVreg_cur (s : State) (r : Nat) (v : VReg) : (s.setVreg r v).cur = s.cur := rfl
@[simp] theorem State.setVreg_harts (s : State) (r : Nat) (v : VReg) : (s.setVreg r v).harts = s.harts := rfl
@[simp] theorem State.setVreg_clusters (s : State) (r : Nat) (v : VReg) : (s.setVreg r v).clusters = s.clusters := rfl
@[simp] theorem State.setVreg_parts (s : State) (r : Nat) (v : VReg) : (s.setVreg r v).parts = s.parts := rfl
@[simp] theorem State.setVreg_pkg (s : State) (r : Nat) (v : VReg) : (s.setVreg r v).pkg = s.pkg := rfl
@[simp] theorem State.setVreg_mem (s : State) (r : Nat) (v : VReg) : (s.setVreg r v).mem = s.mem := rfl
@[simp] theorem State.setVreg_bad (s : State) (r : Nat) (v : VReg) : (s.setVreg r v).bad = s.bad := rfl
@[simp] theorem State.setVreg_caught (s : State) (r : Nat) (v : VReg) : (s.setVreg r v).caught = s.caught := rfl
@[simp] theorem State.setVreg_inbox (s : State) (r : Nat) (v : VReg) : (s.setVreg r v).inbox = s.inbox := rfl
@[simp] theorem State.setVreg_sched (s : State) (r : Nat) (v : VReg) : (s.setVreg r v).sched = s.sched := rfl
@[simp] theorem State.setVreg_seq (s : State) (r : Nat) (v : VReg) : (s.setVreg r v).seq = s.seq := rfl
@[simp] theorem State.setVreg_cycles (s : State) (r : Nat) (v : VReg) : (s.setVreg r v).cycles = s.cycles := rfl
@[simp] theorem State.setVreg_h_life (s : State) (r : Nat) (v : VReg) : (s.setVreg r v).h.life = s.h.life := rfl
@[simp] theorem State.setVreg_h_park (s : State) (r : Nat) (v : VReg) : (s.setVreg r v).h.park = s.h.park := rfl
@[simp] theorem State.setVreg_h_slot (s : State) (r : Nat) (v : VReg) : (s.setVreg r v).h.slot = s.h.slot := rfl
@[simp] theorem State.setVreg_h_sup (s : State) (r : Nat) (v : VReg) : (s.setVreg r v).h.sup = s.h.sup := rfl
@[simp] theorem State.setVreg_h_hgen (s : State) (r : Nat) (v : VReg) : (s.setVreg r v).h.hgen = s.h.hgen := rfl
@[simp] theorem State.setVreg_h_gang (s : State) (r : Nat) (v : VReg) : (s.setVreg r v).h.gang = s.h.gang := rfl
@[simp] theorem State.setVreg_h_pc (s : State) (r : Nat) (v : VReg) : (s.setVreg r v).h.pc = s.h.pc := rfl
@[simp] theorem State.setVreg_h_s (s : State) (r : Nat) (v : VReg) : (s.setVreg r v).h.s = s.h.s := rfl
@[simp] theorem State.setVreg_h_c (s : State) (r : Nat) (v : VReg) : (s.setVreg r v).h.c = s.h.c := rfl
@[simp] theorem State.setVreg_h_m (s : State) (r : Nat) (v : VReg) : (s.setVreg r v).h.m = s.h.m := rfl
@[simp] theorem State.setVreg_h_slots (s : State) (r : Nat) (v : VReg) : (s.setVreg r v).h.slots = s.h.slots := rfl
@[simp] theorem State.setVreg_h_vtype (s : State) (r : Nat) (v : VReg) : (s.setVreg r v).h.vtype = s.h.vtype := rfl
@[simp] theorem State.setVreg_h_vlr (s : State) (r : Nat) (v : VReg) : (s.setVreg r v).h.vlr = s.h.vlr := rfl
@[simp] theorem State.setVreg_h_vlc (s : State) (r : Nat) (v : VReg) : (s.setVreg r v).h.vlc = s.h.vlc := rfl
@[simp] theorem State.setVreg_h_estart (s : State) (r : Nat) (v : VReg) : (s.setVreg r v).h.estart = s.h.estart := rfl
@[simp] theorem State.setVreg_h_resuming (s : State) (r : Nat) (v : VReg) : (s.setVreg r v).h.resuming = s.h.resuming := rfl
@[simp] theorem State.setVreg_h_restart (s : State) (r : Nat) (v : VReg) : (s.setVreg r v).h.restart = s.h.restart := rfl
@[simp] theorem State.setVreg_h_fcsr (s : State) (r : Nat) (v : VReg) : (s.setVreg r v).h.fcsr = s.h.fcsr := rfl
@[simp] theorem State.setVreg_h_exsplit (s : State) (r : Nat) (v : VReg) : (s.setVreg r v).h.exsplit = s.h.exsplit := rfl
@[simp] theorem State.setVreg_h_gone (s : State) (r : Nat) (v : VReg) : (s.setVreg r v).h.gone = s.h.gone := rfl
@[simp] theorem State.setVreg_h_utvec (s : State) (r : Nat) (v : VReg) : (s.setVreg r v).h.utvec = s.h.utvec := rfl
@[simp] theorem State.setVreg_h_uframe (s : State) (r : Nat) (v : VReg) : (s.setVreg r v).h.uframe = s.h.uframe := rfl
@[simp] theorem State.setVreg_h_ucause (s : State) (r : Nat) (v : VReg) : (s.setVreg r v).h.ucause = s.h.ucause := rfl
@[simp] theorem State.setVreg_h_uval (s : State) (r : Nat) (v : VReg) : (s.setVreg r v).h.uval = s.h.uval := rfl
@[simp] theorem State.setVreg_h_stvec (s : State) (r : Nat) (v : VReg) : (s.setVreg r v).h.stvec = s.h.stvec := rfl
@[simp] theorem State.setVreg_h_sframe (s : State) (r : Nat) (v : VReg) : (s.setVreg r v).h.sframe = s.h.sframe := rfl
@[simp] theorem State.setVreg_h_scause (s : State) (r : Nat) (v : VReg) : (s.setVreg r v).h.scause = s.h.scause := rfl
@[simp] theorem State.setVreg_h_sval (s : State) (r : Nat) (v : VReg) : (s.setVreg r v).h.sval = s.h.sval := rfl
@[simp] theorem State.setVreg_h_space (s : State) (r : Nat) (v : VReg) : (s.setVreg r v).h.space = s.h.space := rfl
@[simp] theorem State.setVreg_h_lg (s : State) (r : Nat) (v : VReg) : (s.setVreg r v).h.lg = s.h.lg := rfl
@[simp] theorem State.setVreg_h_granted (s : State) (r : Nat) (v : VReg) : (s.setVreg r v).h.granted = s.h.granted := rfl
@[simp] theorem State.setVreg_h_groups (s : State) (r : Nat) (v : VReg) : (s.setVreg r v).h.groups = s.h.groups := rfl
@[simp] theorem State.setVreg_h_convoy (s : State) (r : Nat) (v : VReg) : (s.setVreg r v).h.convoy = s.h.convoy := rfl
@[simp] theorem State.setVreg_h_key (s : State) (r : Nat) (v : VReg) : (s.setVreg r v).h.key = s.h.key := rfl
@[simp] theorem State.setVreg_h_intr (s : State) (r : Nat) (v : VReg) : (s.setVreg r v).h.intr = s.h.intr := rfl
@[simp] theorem State.setVreg_h_checks (s : State) (r : Nat) (v : VReg) : (s.setVreg r v).h.checks = s.h.checks := rfl
@[simp] theorem State.setVreg_h_savePending (s : State) (r : Nat) (v : VReg) : (s.setVreg r v).h.savePending = s.h.savePending := rfl
@[simp] theorem State.setVreg_h_frameFault (s : State) (r : Nat) (v : VReg) : (s.setVreg r v).h.frameFault = s.h.frameFault := rfl
@[simp] theorem State.setVreg_h_xfers (s : State) (r : Nat) (v : VReg) : (s.setVreg r v).h.xfers = s.h.xfers := rfl
@[simp] theorem State.setVreg_h_since (s : State) (r : Nat) (v : VReg) : (s.setVreg r v).h.since = s.h.since := rfl
@[simp] theorem State.setVreg_h_queue (s : State) (r : Nat) (v : VReg) : (s.setVreg r v).h.queue = s.h.queue := rfl
@[simp] theorem State.setVreg_h_ahead (s : State) (r : Nat) (v : VReg) : (s.setVreg r v).h.ahead = s.h.ahead := rfl
@[simp] theorem State.setVreg_h_front (s : State) (r : Nat) (v : VReg) : (s.setVreg r v).h.front = s.h.front := rfl
@[simp] theorem State.setVreg_h_stores (s : State) (r : Nat) (v : VReg) : (s.setVreg r v).h.stores = s.h.stores := rfl
@[simp] theorem State.setVreg_h_area (s : State) (r : Nat) (v : VReg) : (s.setVreg r v).h.area = s.h.area := rfl

/-! ## `putVec` -/

@[simp] theorem State.putVec_cur (s : State) (r b : Nat) (v : VReg) : (s.putVec r b v).cur = s.cur := rfl
@[simp] theorem State.putVec_harts (s : State) (r b : Nat) (v : VReg) : (s.putVec r b v).harts = s.harts := rfl
@[simp] theorem State.putVec_clusters (s : State) (r b : Nat) (v : VReg) : (s.putVec r b v).clusters = s.clusters := rfl
@[simp] theorem State.putVec_parts (s : State) (r b : Nat) (v : VReg) : (s.putVec r b v).parts = s.parts := rfl
@[simp] theorem State.putVec_pkg (s : State) (r b : Nat) (v : VReg) : (s.putVec r b v).pkg = s.pkg := rfl
@[simp] theorem State.putVec_mem (s : State) (r b : Nat) (v : VReg) : (s.putVec r b v).mem = s.mem := rfl
@[simp] theorem State.putVec_bad (s : State) (r b : Nat) (v : VReg) : (s.putVec r b v).bad = s.bad := rfl
@[simp] theorem State.putVec_caught (s : State) (r b : Nat) (v : VReg) : (s.putVec r b v).caught = s.caught := rfl
@[simp] theorem State.putVec_inbox (s : State) (r b : Nat) (v : VReg) : (s.putVec r b v).inbox = s.inbox := rfl
@[simp] theorem State.putVec_sched (s : State) (r b : Nat) (v : VReg) : (s.putVec r b v).sched = s.sched := rfl
@[simp] theorem State.putVec_seq (s : State) (r b : Nat) (v : VReg) : (s.putVec r b v).seq = s.seq := rfl
@[simp] theorem State.putVec_cycles (s : State) (r b : Nat) (v : VReg) : (s.putVec r b v).cycles = s.cycles := rfl
@[simp] theorem State.putVec_h_life (s : State) (r b : Nat) (v : VReg) : (s.putVec r b v).h.life = s.h.life := rfl
@[simp] theorem State.putVec_h_park (s : State) (r b : Nat) (v : VReg) : (s.putVec r b v).h.park = s.h.park := rfl
@[simp] theorem State.putVec_h_slot (s : State) (r b : Nat) (v : VReg) : (s.putVec r b v).h.slot = s.h.slot := rfl
@[simp] theorem State.putVec_h_sup (s : State) (r b : Nat) (v : VReg) : (s.putVec r b v).h.sup = s.h.sup := rfl
@[simp] theorem State.putVec_h_hgen (s : State) (r b : Nat) (v : VReg) : (s.putVec r b v).h.hgen = s.h.hgen := rfl
@[simp] theorem State.putVec_h_gang (s : State) (r b : Nat) (v : VReg) : (s.putVec r b v).h.gang = s.h.gang := rfl
@[simp] theorem State.putVec_h_pc (s : State) (r b : Nat) (v : VReg) : (s.putVec r b v).h.pc = s.h.pc := rfl
@[simp] theorem State.putVec_h_s (s : State) (r b : Nat) (v : VReg) : (s.putVec r b v).h.s = s.h.s := rfl
@[simp] theorem State.putVec_h_c (s : State) (r b : Nat) (v : VReg) : (s.putVec r b v).h.c = s.h.c := rfl
@[simp] theorem State.putVec_h_m (s : State) (r b : Nat) (v : VReg) : (s.putVec r b v).h.m = s.h.m := rfl
@[simp] theorem State.putVec_h_slots (s : State) (r b : Nat) (v : VReg) : (s.putVec r b v).h.slots = s.h.slots := rfl
@[simp] theorem State.putVec_h_vtype (s : State) (r b : Nat) (v : VReg) : (s.putVec r b v).h.vtype = s.h.vtype := rfl
@[simp] theorem State.putVec_h_vlr (s : State) (r b : Nat) (v : VReg) : (s.putVec r b v).h.vlr = s.h.vlr := rfl
@[simp] theorem State.putVec_h_vlc (s : State) (r b : Nat) (v : VReg) : (s.putVec r b v).h.vlc = s.h.vlc := rfl
@[simp] theorem State.putVec_h_estart (s : State) (r b : Nat) (v : VReg) : (s.putVec r b v).h.estart = s.h.estart := rfl
@[simp] theorem State.putVec_h_resuming (s : State) (r b : Nat) (v : VReg) : (s.putVec r b v).h.resuming = s.h.resuming := rfl
@[simp] theorem State.putVec_h_restart (s : State) (r b : Nat) (v : VReg) : (s.putVec r b v).h.restart = s.h.restart := rfl
@[simp] theorem State.putVec_h_fcsr (s : State) (r b : Nat) (v : VReg) : (s.putVec r b v).h.fcsr = s.h.fcsr := rfl
@[simp] theorem State.putVec_h_exsplit (s : State) (r b : Nat) (v : VReg) : (s.putVec r b v).h.exsplit = s.h.exsplit := rfl
@[simp] theorem State.putVec_h_gone (s : State) (r b : Nat) (v : VReg) : (s.putVec r b v).h.gone = s.h.gone := rfl
@[simp] theorem State.putVec_h_utvec (s : State) (r b : Nat) (v : VReg) : (s.putVec r b v).h.utvec = s.h.utvec := rfl
@[simp] theorem State.putVec_h_uframe (s : State) (r b : Nat) (v : VReg) : (s.putVec r b v).h.uframe = s.h.uframe := rfl
@[simp] theorem State.putVec_h_ucause (s : State) (r b : Nat) (v : VReg) : (s.putVec r b v).h.ucause = s.h.ucause := rfl
@[simp] theorem State.putVec_h_uval (s : State) (r b : Nat) (v : VReg) : (s.putVec r b v).h.uval = s.h.uval := rfl
@[simp] theorem State.putVec_h_stvec (s : State) (r b : Nat) (v : VReg) : (s.putVec r b v).h.stvec = s.h.stvec := rfl
@[simp] theorem State.putVec_h_sframe (s : State) (r b : Nat) (v : VReg) : (s.putVec r b v).h.sframe = s.h.sframe := rfl
@[simp] theorem State.putVec_h_scause (s : State) (r b : Nat) (v : VReg) : (s.putVec r b v).h.scause = s.h.scause := rfl
@[simp] theorem State.putVec_h_sval (s : State) (r b : Nat) (v : VReg) : (s.putVec r b v).h.sval = s.h.sval := rfl
@[simp] theorem State.putVec_h_space (s : State) (r b : Nat) (v : VReg) : (s.putVec r b v).h.space = s.h.space := rfl
@[simp] theorem State.putVec_h_lg (s : State) (r b : Nat) (v : VReg) : (s.putVec r b v).h.lg = s.h.lg := rfl
@[simp] theorem State.putVec_h_granted (s : State) (r b : Nat) (v : VReg) : (s.putVec r b v).h.granted = s.h.granted := rfl
@[simp] theorem State.putVec_h_groups (s : State) (r b : Nat) (v : VReg) : (s.putVec r b v).h.groups = s.h.groups := rfl
@[simp] theorem State.putVec_h_convoy (s : State) (r b : Nat) (v : VReg) : (s.putVec r b v).h.convoy = s.h.convoy := rfl
@[simp] theorem State.putVec_h_key (s : State) (r b : Nat) (v : VReg) : (s.putVec r b v).h.key = s.h.key := rfl
@[simp] theorem State.putVec_h_intr (s : State) (r b : Nat) (v : VReg) : (s.putVec r b v).h.intr = s.h.intr := rfl
@[simp] theorem State.putVec_h_checks (s : State) (r b : Nat) (v : VReg) : (s.putVec r b v).h.checks = s.h.checks := rfl
@[simp] theorem State.putVec_h_savePending (s : State) (r b : Nat) (v : VReg) : (s.putVec r b v).h.savePending = s.h.savePending := rfl
@[simp] theorem State.putVec_h_frameFault (s : State) (r b : Nat) (v : VReg) : (s.putVec r b v).h.frameFault = s.h.frameFault := rfl
@[simp] theorem State.putVec_h_xfers (s : State) (r b : Nat) (v : VReg) : (s.putVec r b v).h.xfers = s.h.xfers := rfl
@[simp] theorem State.putVec_h_since (s : State) (r b : Nat) (v : VReg) : (s.putVec r b v).h.since = s.h.since := rfl
@[simp] theorem State.putVec_h_queue (s : State) (r b : Nat) (v : VReg) : (s.putVec r b v).h.queue = s.h.queue := rfl
@[simp] theorem State.putVec_h_ahead (s : State) (r b : Nat) (v : VReg) : (s.putVec r b v).h.ahead = s.h.ahead := rfl
@[simp] theorem State.putVec_h_front (s : State) (r b : Nat) (v : VReg) : (s.putVec r b v).h.front = s.h.front := rfl
@[simp] theorem State.putVec_h_stores (s : State) (r b : Nat) (v : VReg) : (s.putVec r b v).h.stores = s.h.stores := rfl
@[simp] theorem State.putVec_h_area (s : State) (r b : Nat) (v : VReg) : (s.putVec r b v).h.area = s.h.area := rfl

/-! ## `raiseFlags` -/

@[simp] theorem State.raiseFlags_cur (s : State) (f : Flags) : (s.raiseFlags f).cur = s.cur := rfl
@[simp] theorem State.raiseFlags_harts (s : State) (f : Flags) : (s.raiseFlags f).harts = s.harts := rfl
@[simp] theorem State.raiseFlags_clusters (s : State) (f : Flags) : (s.raiseFlags f).clusters = s.clusters := rfl
@[simp] theorem State.raiseFlags_parts (s : State) (f : Flags) : (s.raiseFlags f).parts = s.parts := rfl
@[simp] theorem State.raiseFlags_pkg (s : State) (f : Flags) : (s.raiseFlags f).pkg = s.pkg := rfl
@[simp] theorem State.raiseFlags_mem (s : State) (f : Flags) : (s.raiseFlags f).mem = s.mem := rfl
@[simp] theorem State.raiseFlags_bad (s : State) (f : Flags) : (s.raiseFlags f).bad = s.bad := rfl
@[simp] theorem State.raiseFlags_caught (s : State) (f : Flags) : (s.raiseFlags f).caught = s.caught := rfl
@[simp] theorem State.raiseFlags_inbox (s : State) (f : Flags) : (s.raiseFlags f).inbox = s.inbox := rfl
@[simp] theorem State.raiseFlags_sched (s : State) (f : Flags) : (s.raiseFlags f).sched = s.sched := rfl
@[simp] theorem State.raiseFlags_seq (s : State) (f : Flags) : (s.raiseFlags f).seq = s.seq := rfl
@[simp] theorem State.raiseFlags_cycles (s : State) (f : Flags) : (s.raiseFlags f).cycles = s.cycles := rfl
@[simp] theorem State.raiseFlags_h_life (s : State) (f : Flags) : (s.raiseFlags f).h.life = s.h.life := rfl
@[simp] theorem State.raiseFlags_h_park (s : State) (f : Flags) : (s.raiseFlags f).h.park = s.h.park := rfl
@[simp] theorem State.raiseFlags_h_slot (s : State) (f : Flags) : (s.raiseFlags f).h.slot = s.h.slot := rfl
@[simp] theorem State.raiseFlags_h_sup (s : State) (f : Flags) : (s.raiseFlags f).h.sup = s.h.sup := rfl
@[simp] theorem State.raiseFlags_h_hgen (s : State) (f : Flags) : (s.raiseFlags f).h.hgen = s.h.hgen := rfl
@[simp] theorem State.raiseFlags_h_gang (s : State) (f : Flags) : (s.raiseFlags f).h.gang = s.h.gang := rfl
@[simp] theorem State.raiseFlags_h_pc (s : State) (f : Flags) : (s.raiseFlags f).h.pc = s.h.pc := rfl
@[simp] theorem State.raiseFlags_h_s (s : State) (f : Flags) : (s.raiseFlags f).h.s = s.h.s := rfl
@[simp] theorem State.raiseFlags_h_c (s : State) (f : Flags) : (s.raiseFlags f).h.c = s.h.c := rfl
@[simp] theorem State.raiseFlags_h_v (s : State) (f : Flags) : (s.raiseFlags f).h.v = s.h.v := rfl
@[simp] theorem State.raiseFlags_h_m (s : State) (f : Flags) : (s.raiseFlags f).h.m = s.h.m := rfl
@[simp] theorem State.raiseFlags_h_slots (s : State) (f : Flags) : (s.raiseFlags f).h.slots = s.h.slots := rfl
@[simp] theorem State.raiseFlags_h_vtype (s : State) (f : Flags) : (s.raiseFlags f).h.vtype = s.h.vtype := rfl
@[simp] theorem State.raiseFlags_h_vlr (s : State) (f : Flags) : (s.raiseFlags f).h.vlr = s.h.vlr := rfl
@[simp] theorem State.raiseFlags_h_vlc (s : State) (f : Flags) : (s.raiseFlags f).h.vlc = s.h.vlc := rfl
@[simp] theorem State.raiseFlags_h_estart (s : State) (f : Flags) : (s.raiseFlags f).h.estart = s.h.estart := rfl
@[simp] theorem State.raiseFlags_h_resuming (s : State) (f : Flags) : (s.raiseFlags f).h.resuming = s.h.resuming := rfl
@[simp] theorem State.raiseFlags_h_restart (s : State) (f : Flags) : (s.raiseFlags f).h.restart = s.h.restart := rfl
@[simp] theorem State.raiseFlags_h_exsplit (s : State) (f : Flags) : (s.raiseFlags f).h.exsplit = s.h.exsplit := rfl
@[simp] theorem State.raiseFlags_h_gone (s : State) (f : Flags) : (s.raiseFlags f).h.gone = s.h.gone := rfl
@[simp] theorem State.raiseFlags_h_utvec (s : State) (f : Flags) : (s.raiseFlags f).h.utvec = s.h.utvec := rfl
@[simp] theorem State.raiseFlags_h_uframe (s : State) (f : Flags) : (s.raiseFlags f).h.uframe = s.h.uframe := rfl
@[simp] theorem State.raiseFlags_h_ucause (s : State) (f : Flags) : (s.raiseFlags f).h.ucause = s.h.ucause := rfl
@[simp] theorem State.raiseFlags_h_uval (s : State) (f : Flags) : (s.raiseFlags f).h.uval = s.h.uval := rfl
@[simp] theorem State.raiseFlags_h_stvec (s : State) (f : Flags) : (s.raiseFlags f).h.stvec = s.h.stvec := rfl
@[simp] theorem State.raiseFlags_h_sframe (s : State) (f : Flags) : (s.raiseFlags f).h.sframe = s.h.sframe := rfl
@[simp] theorem State.raiseFlags_h_scause (s : State) (f : Flags) : (s.raiseFlags f).h.scause = s.h.scause := rfl
@[simp] theorem State.raiseFlags_h_sval (s : State) (f : Flags) : (s.raiseFlags f).h.sval = s.h.sval := rfl
@[simp] theorem State.raiseFlags_h_space (s : State) (f : Flags) : (s.raiseFlags f).h.space = s.h.space := rfl
@[simp] theorem State.raiseFlags_h_lg (s : State) (f : Flags) : (s.raiseFlags f).h.lg = s.h.lg := rfl
@[simp] theorem State.raiseFlags_h_granted (s : State) (f : Flags) : (s.raiseFlags f).h.granted = s.h.granted := rfl
@[simp] theorem State.raiseFlags_h_groups (s : State) (f : Flags) : (s.raiseFlags f).h.groups = s.h.groups := rfl
@[simp] theorem State.raiseFlags_h_convoy (s : State) (f : Flags) : (s.raiseFlags f).h.convoy = s.h.convoy := rfl
@[simp] theorem State.raiseFlags_h_key (s : State) (f : Flags) : (s.raiseFlags f).h.key = s.h.key := rfl
@[simp] theorem State.raiseFlags_h_intr (s : State) (f : Flags) : (s.raiseFlags f).h.intr = s.h.intr := rfl
@[simp] theorem State.raiseFlags_h_checks (s : State) (f : Flags) : (s.raiseFlags f).h.checks = s.h.checks := rfl
@[simp] theorem State.raiseFlags_h_savePending (s : State) (f : Flags) : (s.raiseFlags f).h.savePending = s.h.savePending := rfl
@[simp] theorem State.raiseFlags_h_frameFault (s : State) (f : Flags) : (s.raiseFlags f).h.frameFault = s.h.frameFault := rfl
@[simp] theorem State.raiseFlags_h_xfers (s : State) (f : Flags) : (s.raiseFlags f).h.xfers = s.h.xfers := rfl
@[simp] theorem State.raiseFlags_h_since (s : State) (f : Flags) : (s.raiseFlags f).h.since = s.h.since := rfl
@[simp] theorem State.raiseFlags_h_queue (s : State) (f : Flags) : (s.raiseFlags f).h.queue = s.h.queue := rfl
@[simp] theorem State.raiseFlags_h_ahead (s : State) (f : Flags) : (s.raiseFlags f).h.ahead = s.h.ahead := rfl
@[simp] theorem State.raiseFlags_h_front (s : State) (f : Flags) : (s.raiseFlags f).h.front = s.h.front := rfl
@[simp] theorem State.raiseFlags_h_stores (s : State) (f : Flags) : (s.raiseFlags f).h.stores = s.h.stores := rfl
@[simp] theorem State.raiseFlags_h_area (s : State) (f : Flags) : (s.raiseFlags f).h.area = s.h.area := rfl

/-! ## `endConvoy` -/

@[simp] theorem State.endConvoy_cur (s : State)  : (s.endConvoy).cur = s.cur := rfl
@[simp] theorem State.endConvoy_harts (s : State)  : (s.endConvoy).harts = s.harts := rfl
@[simp] theorem State.endConvoy_clusters (s : State)  : (s.endConvoy).clusters = s.clusters := rfl
@[simp] theorem State.endConvoy_parts (s : State)  : (s.endConvoy).parts = s.parts := rfl
@[simp] theorem State.endConvoy_pkg (s : State)  : (s.endConvoy).pkg = s.pkg := rfl
@[simp] theorem State.endConvoy_mem (s : State)  : (s.endConvoy).mem = s.mem := rfl
@[simp] theorem State.endConvoy_bad (s : State)  : (s.endConvoy).bad = s.bad := rfl
@[simp] theorem State.endConvoy_caught (s : State)  : (s.endConvoy).caught = s.caught := rfl
@[simp] theorem State.endConvoy_inbox (s : State)  : (s.endConvoy).inbox = s.inbox := rfl
@[simp] theorem State.endConvoy_sched (s : State)  : (s.endConvoy).sched = s.sched := rfl
@[simp] theorem State.endConvoy_seq (s : State)  : (s.endConvoy).seq = s.seq := rfl
@[simp] theorem State.endConvoy_cycles (s : State)  : (s.endConvoy).cycles = s.cycles := rfl
@[simp] theorem State.endConvoy_h_life (s : State)  : (s.endConvoy).h.life = s.h.life := rfl
@[simp] theorem State.endConvoy_h_park (s : State)  : (s.endConvoy).h.park = s.h.park := rfl
@[simp] theorem State.endConvoy_h_slot (s : State)  : (s.endConvoy).h.slot = s.h.slot := rfl
@[simp] theorem State.endConvoy_h_sup (s : State)  : (s.endConvoy).h.sup = s.h.sup := rfl
@[simp] theorem State.endConvoy_h_hgen (s : State)  : (s.endConvoy).h.hgen = s.h.hgen := rfl
@[simp] theorem State.endConvoy_h_gang (s : State)  : (s.endConvoy).h.gang = s.h.gang := rfl
@[simp] theorem State.endConvoy_h_pc (s : State)  : (s.endConvoy).h.pc = s.h.pc := rfl
@[simp] theorem State.endConvoy_h_s (s : State)  : (s.endConvoy).h.s = s.h.s := rfl
@[simp] theorem State.endConvoy_h_c (s : State)  : (s.endConvoy).h.c = s.h.c := rfl
@[simp] theorem State.endConvoy_h_v (s : State)  : (s.endConvoy).h.v = s.h.v := rfl
@[simp] theorem State.endConvoy_h_m (s : State)  : (s.endConvoy).h.m = s.h.m := rfl
@[simp] theorem State.endConvoy_h_slots (s : State)  : (s.endConvoy).h.slots = s.h.slots := rfl
@[simp] theorem State.endConvoy_h_vtype (s : State)  : (s.endConvoy).h.vtype = s.h.vtype := rfl
@[simp] theorem State.endConvoy_h_vlr (s : State)  : (s.endConvoy).h.vlr = s.h.vlr := rfl
@[simp] theorem State.endConvoy_h_vlc (s : State)  : (s.endConvoy).h.vlc = s.h.vlc := rfl
@[simp] theorem State.endConvoy_h_estart (s : State)  : (s.endConvoy).h.estart = s.h.estart := rfl
@[simp] theorem State.endConvoy_h_resuming (s : State)  : (s.endConvoy).h.resuming = s.h.resuming := rfl
@[simp] theorem State.endConvoy_h_restart (s : State)  : (s.endConvoy).h.restart = s.h.restart := rfl
@[simp] theorem State.endConvoy_h_fcsr (s : State)  : (s.endConvoy).h.fcsr = s.h.fcsr := rfl
@[simp] theorem State.endConvoy_h_exsplit (s : State)  : (s.endConvoy).h.exsplit = s.h.exsplit := rfl
@[simp] theorem State.endConvoy_h_gone (s : State)  : (s.endConvoy).h.gone = s.h.gone := rfl
@[simp] theorem State.endConvoy_h_utvec (s : State)  : (s.endConvoy).h.utvec = s.h.utvec := rfl
@[simp] theorem State.endConvoy_h_uframe (s : State)  : (s.endConvoy).h.uframe = s.h.uframe := rfl
@[simp] theorem State.endConvoy_h_ucause (s : State)  : (s.endConvoy).h.ucause = s.h.ucause := rfl
@[simp] theorem State.endConvoy_h_uval (s : State)  : (s.endConvoy).h.uval = s.h.uval := rfl
@[simp] theorem State.endConvoy_h_stvec (s : State)  : (s.endConvoy).h.stvec = s.h.stvec := rfl
@[simp] theorem State.endConvoy_h_sframe (s : State)  : (s.endConvoy).h.sframe = s.h.sframe := rfl
@[simp] theorem State.endConvoy_h_scause (s : State)  : (s.endConvoy).h.scause = s.h.scause := rfl
@[simp] theorem State.endConvoy_h_sval (s : State)  : (s.endConvoy).h.sval = s.h.sval := rfl
@[simp] theorem State.endConvoy_h_space (s : State)  : (s.endConvoy).h.space = s.h.space := rfl
@[simp] theorem State.endConvoy_h_lg (s : State)  : (s.endConvoy).h.lg = s.h.lg := rfl
@[simp] theorem State.endConvoy_h_granted (s : State)  : (s.endConvoy).h.granted = s.h.granted := rfl
@[simp] theorem State.endConvoy_h_groups (s : State)  : (s.endConvoy).h.groups = s.h.groups := rfl
@[simp] theorem State.endConvoy_h_key (s : State)  : (s.endConvoy).h.key = s.h.key := rfl
@[simp] theorem State.endConvoy_h_intr (s : State)  : (s.endConvoy).h.intr = s.h.intr := rfl
@[simp] theorem State.endConvoy_h_checks (s : State)  : (s.endConvoy).h.checks = s.h.checks := rfl
@[simp] theorem State.endConvoy_h_savePending (s : State)  : (s.endConvoy).h.savePending = s.h.savePending := rfl
@[simp] theorem State.endConvoy_h_frameFault (s : State)  : (s.endConvoy).h.frameFault = s.h.frameFault := rfl
@[simp] theorem State.endConvoy_h_xfers (s : State)  : (s.endConvoy).h.xfers = s.h.xfers := rfl
@[simp] theorem State.endConvoy_h_since (s : State)  : (s.endConvoy).h.since = s.h.since := rfl
@[simp] theorem State.endConvoy_h_queue (s : State)  : (s.endConvoy).h.queue = s.h.queue := rfl
@[simp] theorem State.endConvoy_h_ahead (s : State)  : (s.endConvoy).h.ahead = s.h.ahead := rfl
@[simp] theorem State.endConvoy_h_front (s : State)  : (s.endConvoy).h.front = s.h.front := rfl
@[simp] theorem State.endConvoy_h_stores (s : State)  : (s.endConvoy).h.stores = s.h.stores := rfl
@[simp] theorem State.endConvoy_h_area (s : State)  : (s.endConvoy).h.area = s.h.area := rfl

/-! ## `adv` -/

@[simp] theorem State.adv_cur (s : State)  : (s.adv).cur = s.cur := rfl
@[simp] theorem State.adv_harts (s : State)  : (s.adv).harts = s.harts := rfl
@[simp] theorem State.adv_clusters (s : State)  : (s.adv).clusters = s.clusters := rfl
@[simp] theorem State.adv_parts (s : State)  : (s.adv).parts = s.parts := rfl
@[simp] theorem State.adv_pkg (s : State)  : (s.adv).pkg = s.pkg := rfl
@[simp] theorem State.adv_mem (s : State)  : (s.adv).mem = s.mem := rfl
@[simp] theorem State.adv_bad (s : State)  : (s.adv).bad = s.bad := rfl
@[simp] theorem State.adv_caught (s : State)  : (s.adv).caught = s.caught := rfl
@[simp] theorem State.adv_inbox (s : State)  : (s.adv).inbox = s.inbox := rfl
@[simp] theorem State.adv_sched (s : State)  : (s.adv).sched = s.sched := rfl
@[simp] theorem State.adv_seq (s : State)  : (s.adv).seq = s.seq := rfl
@[simp] theorem State.adv_cycles (s : State)  : (s.adv).cycles = s.cycles := rfl
@[simp] theorem State.adv_h_life (s : State)  : (s.adv).h.life = s.h.life := rfl
@[simp] theorem State.adv_h_park (s : State)  : (s.adv).h.park = s.h.park := rfl
@[simp] theorem State.adv_h_slot (s : State)  : (s.adv).h.slot = s.h.slot := rfl
@[simp] theorem State.adv_h_sup (s : State)  : (s.adv).h.sup = s.h.sup := rfl
@[simp] theorem State.adv_h_hgen (s : State)  : (s.adv).h.hgen = s.h.hgen := rfl
@[simp] theorem State.adv_h_gang (s : State)  : (s.adv).h.gang = s.h.gang := rfl
@[simp] theorem State.adv_h_s (s : State)  : (s.adv).h.s = s.h.s := rfl
@[simp] theorem State.adv_h_c (s : State)  : (s.adv).h.c = s.h.c := rfl
@[simp] theorem State.adv_h_v (s : State)  : (s.adv).h.v = s.h.v := rfl
@[simp] theorem State.adv_h_m (s : State)  : (s.adv).h.m = s.h.m := rfl
@[simp] theorem State.adv_h_slots (s : State)  : (s.adv).h.slots = s.h.slots := rfl
@[simp] theorem State.adv_h_vtype (s : State)  : (s.adv).h.vtype = s.h.vtype := rfl
@[simp] theorem State.adv_h_vlr (s : State)  : (s.adv).h.vlr = s.h.vlr := rfl
@[simp] theorem State.adv_h_vlc (s : State)  : (s.adv).h.vlc = s.h.vlc := rfl
@[simp] theorem State.adv_h_estart (s : State)  : (s.adv).h.estart = s.h.estart := rfl
@[simp] theorem State.adv_h_resuming (s : State)  : (s.adv).h.resuming = s.h.resuming := rfl
@[simp] theorem State.adv_h_restart (s : State)  : (s.adv).h.restart = s.h.restart := rfl
@[simp] theorem State.adv_h_fcsr (s : State)  : (s.adv).h.fcsr = s.h.fcsr := rfl
@[simp] theorem State.adv_h_exsplit (s : State)  : (s.adv).h.exsplit = s.h.exsplit := rfl
@[simp] theorem State.adv_h_gone (s : State)  : (s.adv).h.gone = s.h.gone := rfl
@[simp] theorem State.adv_h_utvec (s : State)  : (s.adv).h.utvec = s.h.utvec := rfl
@[simp] theorem State.adv_h_uframe (s : State)  : (s.adv).h.uframe = s.h.uframe := rfl
@[simp] theorem State.adv_h_ucause (s : State)  : (s.adv).h.ucause = s.h.ucause := rfl
@[simp] theorem State.adv_h_uval (s : State)  : (s.adv).h.uval = s.h.uval := rfl
@[simp] theorem State.adv_h_stvec (s : State)  : (s.adv).h.stvec = s.h.stvec := rfl
@[simp] theorem State.adv_h_sframe (s : State)  : (s.adv).h.sframe = s.h.sframe := rfl
@[simp] theorem State.adv_h_scause (s : State)  : (s.adv).h.scause = s.h.scause := rfl
@[simp] theorem State.adv_h_sval (s : State)  : (s.adv).h.sval = s.h.sval := rfl
@[simp] theorem State.adv_h_space (s : State)  : (s.adv).h.space = s.h.space := rfl
@[simp] theorem State.adv_h_lg (s : State)  : (s.adv).h.lg = s.h.lg := rfl
@[simp] theorem State.adv_h_granted (s : State)  : (s.adv).h.granted = s.h.granted := rfl
@[simp] theorem State.adv_h_groups (s : State)  : (s.adv).h.groups = s.h.groups := rfl
@[simp] theorem State.adv_h_convoy (s : State)  : (s.adv).h.convoy = s.h.convoy := rfl
@[simp] theorem State.adv_h_key (s : State)  : (s.adv).h.key = s.h.key := rfl
@[simp] theorem State.adv_h_intr (s : State)  : (s.adv).h.intr = s.h.intr := rfl
@[simp] theorem State.adv_h_checks (s : State)  : (s.adv).h.checks = s.h.checks := rfl
@[simp] theorem State.adv_h_savePending (s : State)  : (s.adv).h.savePending = s.h.savePending := rfl
@[simp] theorem State.adv_h_frameFault (s : State)  : (s.adv).h.frameFault = s.h.frameFault := rfl
@[simp] theorem State.adv_h_xfers (s : State)  : (s.adv).h.xfers = s.h.xfers := rfl
@[simp] theorem State.adv_h_since (s : State)  : (s.adv).h.since = s.h.since := rfl
@[simp] theorem State.adv_h_queue (s : State)  : (s.adv).h.queue = s.h.queue := rfl
@[simp] theorem State.adv_h_ahead (s : State)  : (s.adv).h.ahead = s.h.ahead := rfl
@[simp] theorem State.adv_h_front (s : State)  : (s.adv).h.front = s.h.front := rfl
@[simp] theorem State.adv_h_stores (s : State)  : (s.adv).h.stores = s.h.stores := rfl
@[simp] theorem State.adv_h_area (s : State)  : (s.adv).h.area = s.h.area := rfl

/-! ## `setSlot` -/

@[simp] theorem State.setSlot_cur (s : State) (h : BitVec 4) (b : Option Binding) : (s.setSlot h b).cur = s.cur := rfl
@[simp] theorem State.setSlot_harts (s : State) (h : BitVec 4) (b : Option Binding) : (s.setSlot h b).harts = s.harts := rfl
@[simp] theorem State.setSlot_clusters (s : State) (h : BitVec 4) (b : Option Binding) : (s.setSlot h b).clusters = s.clusters := rfl
@[simp] theorem State.setSlot_parts (s : State) (h : BitVec 4) (b : Option Binding) : (s.setSlot h b).parts = s.parts := rfl
@[simp] theorem State.setSlot_pkg (s : State) (h : BitVec 4) (b : Option Binding) : (s.setSlot h b).pkg = s.pkg := rfl
@[simp] theorem State.setSlot_mem (s : State) (h : BitVec 4) (b : Option Binding) : (s.setSlot h b).mem = s.mem := rfl
@[simp] theorem State.setSlot_bad (s : State) (h : BitVec 4) (b : Option Binding) : (s.setSlot h b).bad = s.bad := rfl
@[simp] theorem State.setSlot_caught (s : State) (h : BitVec 4) (b : Option Binding) : (s.setSlot h b).caught = s.caught := rfl
@[simp] theorem State.setSlot_inbox (s : State) (h : BitVec 4) (b : Option Binding) : (s.setSlot h b).inbox = s.inbox := rfl
@[simp] theorem State.setSlot_sched (s : State) (h : BitVec 4) (b : Option Binding) : (s.setSlot h b).sched = s.sched := rfl
@[simp] theorem State.setSlot_seq (s : State) (h : BitVec 4) (b : Option Binding) : (s.setSlot h b).seq = s.seq := rfl
@[simp] theorem State.setSlot_cycles (s : State) (h : BitVec 4) (b : Option Binding) : (s.setSlot h b).cycles = s.cycles := rfl
@[simp] theorem State.setSlot_h_life (s : State) (h : BitVec 4) (b : Option Binding) : (s.setSlot h b).h.life = s.h.life := rfl
@[simp] theorem State.setSlot_h_park (s : State) (h : BitVec 4) (b : Option Binding) : (s.setSlot h b).h.park = s.h.park := rfl
@[simp] theorem State.setSlot_h_slot (s : State) (h : BitVec 4) (b : Option Binding) : (s.setSlot h b).h.slot = s.h.slot := rfl
@[simp] theorem State.setSlot_h_sup (s : State) (h : BitVec 4) (b : Option Binding) : (s.setSlot h b).h.sup = s.h.sup := rfl
@[simp] theorem State.setSlot_h_hgen (s : State) (h : BitVec 4) (b : Option Binding) : (s.setSlot h b).h.hgen = s.h.hgen := rfl
@[simp] theorem State.setSlot_h_gang (s : State) (h : BitVec 4) (b : Option Binding) : (s.setSlot h b).h.gang = s.h.gang := rfl
@[simp] theorem State.setSlot_h_pc (s : State) (h : BitVec 4) (b : Option Binding) : (s.setSlot h b).h.pc = s.h.pc := rfl
@[simp] theorem State.setSlot_h_s (s : State) (h : BitVec 4) (b : Option Binding) : (s.setSlot h b).h.s = s.h.s := rfl
@[simp] theorem State.setSlot_h_c (s : State) (h : BitVec 4) (b : Option Binding) : (s.setSlot h b).h.c = s.h.c := rfl
@[simp] theorem State.setSlot_h_v (s : State) (h : BitVec 4) (b : Option Binding) : (s.setSlot h b).h.v = s.h.v := rfl
@[simp] theorem State.setSlot_h_m (s : State) (h : BitVec 4) (b : Option Binding) : (s.setSlot h b).h.m = s.h.m := rfl
@[simp] theorem State.setSlot_h_vtype (s : State) (h : BitVec 4) (b : Option Binding) : (s.setSlot h b).h.vtype = s.h.vtype := rfl
@[simp] theorem State.setSlot_h_vlr (s : State) (h : BitVec 4) (b : Option Binding) : (s.setSlot h b).h.vlr = s.h.vlr := rfl
@[simp] theorem State.setSlot_h_vlc (s : State) (h : BitVec 4) (b : Option Binding) : (s.setSlot h b).h.vlc = s.h.vlc := rfl
@[simp] theorem State.setSlot_h_estart (s : State) (h : BitVec 4) (b : Option Binding) : (s.setSlot h b).h.estart = s.h.estart := rfl
@[simp] theorem State.setSlot_h_resuming (s : State) (h : BitVec 4) (b : Option Binding) : (s.setSlot h b).h.resuming = s.h.resuming := rfl
@[simp] theorem State.setSlot_h_restart (s : State) (h : BitVec 4) (b : Option Binding) : (s.setSlot h b).h.restart = s.h.restart := rfl
@[simp] theorem State.setSlot_h_fcsr (s : State) (h : BitVec 4) (b : Option Binding) : (s.setSlot h b).h.fcsr = s.h.fcsr := rfl
@[simp] theorem State.setSlot_h_exsplit (s : State) (h : BitVec 4) (b : Option Binding) : (s.setSlot h b).h.exsplit = s.h.exsplit := rfl
@[simp] theorem State.setSlot_h_gone (s : State) (h : BitVec 4) (b : Option Binding) : (s.setSlot h b).h.gone = s.h.gone := rfl
@[simp] theorem State.setSlot_h_utvec (s : State) (h : BitVec 4) (b : Option Binding) : (s.setSlot h b).h.utvec = s.h.utvec := rfl
@[simp] theorem State.setSlot_h_uframe (s : State) (h : BitVec 4) (b : Option Binding) : (s.setSlot h b).h.uframe = s.h.uframe := rfl
@[simp] theorem State.setSlot_h_ucause (s : State) (h : BitVec 4) (b : Option Binding) : (s.setSlot h b).h.ucause = s.h.ucause := rfl
@[simp] theorem State.setSlot_h_uval (s : State) (h : BitVec 4) (b : Option Binding) : (s.setSlot h b).h.uval = s.h.uval := rfl
@[simp] theorem State.setSlot_h_stvec (s : State) (h : BitVec 4) (b : Option Binding) : (s.setSlot h b).h.stvec = s.h.stvec := rfl
@[simp] theorem State.setSlot_h_sframe (s : State) (h : BitVec 4) (b : Option Binding) : (s.setSlot h b).h.sframe = s.h.sframe := rfl
@[simp] theorem State.setSlot_h_scause (s : State) (h : BitVec 4) (b : Option Binding) : (s.setSlot h b).h.scause = s.h.scause := rfl
@[simp] theorem State.setSlot_h_sval (s : State) (h : BitVec 4) (b : Option Binding) : (s.setSlot h b).h.sval = s.h.sval := rfl
@[simp] theorem State.setSlot_h_space (s : State) (h : BitVec 4) (b : Option Binding) : (s.setSlot h b).h.space = s.h.space := rfl
@[simp] theorem State.setSlot_h_lg (s : State) (h : BitVec 4) (b : Option Binding) : (s.setSlot h b).h.lg = s.h.lg := rfl
@[simp] theorem State.setSlot_h_granted (s : State) (h : BitVec 4) (b : Option Binding) : (s.setSlot h b).h.granted = s.h.granted := rfl
@[simp] theorem State.setSlot_h_groups (s : State) (h : BitVec 4) (b : Option Binding) : (s.setSlot h b).h.groups = s.h.groups := rfl
@[simp] theorem State.setSlot_h_convoy (s : State) (h : BitVec 4) (b : Option Binding) : (s.setSlot h b).h.convoy = s.h.convoy := rfl
@[simp] theorem State.setSlot_h_key (s : State) (h : BitVec 4) (b : Option Binding) : (s.setSlot h b).h.key = s.h.key := rfl
@[simp] theorem State.setSlot_h_intr (s : State) (h : BitVec 4) (b : Option Binding) : (s.setSlot h b).h.intr = s.h.intr := rfl
@[simp] theorem State.setSlot_h_checks (s : State) (h : BitVec 4) (b : Option Binding) : (s.setSlot h b).h.checks = s.h.checks := rfl
@[simp] theorem State.setSlot_h_savePending (s : State) (h : BitVec 4) (b : Option Binding) : (s.setSlot h b).h.savePending = s.h.savePending := rfl
@[simp] theorem State.setSlot_h_frameFault (s : State) (h : BitVec 4) (b : Option Binding) : (s.setSlot h b).h.frameFault = s.h.frameFault := rfl
@[simp] theorem State.setSlot_h_xfers (s : State) (h : BitVec 4) (b : Option Binding) : (s.setSlot h b).h.xfers = s.h.xfers := rfl
@[simp] theorem State.setSlot_h_since (s : State) (h : BitVec 4) (b : Option Binding) : (s.setSlot h b).h.since = s.h.since := rfl
@[simp] theorem State.setSlot_h_queue (s : State) (h : BitVec 4) (b : Option Binding) : (s.setSlot h b).h.queue = s.h.queue := rfl
@[simp] theorem State.setSlot_h_ahead (s : State) (h : BitVec 4) (b : Option Binding) : (s.setSlot h b).h.ahead = s.h.ahead := rfl
@[simp] theorem State.setSlot_h_front (s : State) (h : BitVec 4) (b : Option Binding) : (s.setSlot h b).h.front = s.h.front := rfl
@[simp] theorem State.setSlot_h_stores (s : State) (h : BitVec 4) (b : Option Binding) : (s.setSlot h b).h.stores = s.h.stores := rfl
@[simp] theorem State.setSlot_h_area (s : State) (h : BitVec 4) (b : Option Binding) : (s.setSlot h b).h.area = s.h.area := rfl

/-! ## `endResume` -/

@[simp] theorem State.endResume_cur (s : State)  : (s.endResume).cur = s.cur := rfl
@[simp] theorem State.endResume_harts (s : State)  : (s.endResume).harts = s.harts := rfl
@[simp] theorem State.endResume_clusters (s : State)  : (s.endResume).clusters = s.clusters := rfl
@[simp] theorem State.endResume_parts (s : State)  : (s.endResume).parts = s.parts := rfl
@[simp] theorem State.endResume_pkg (s : State)  : (s.endResume).pkg = s.pkg := rfl
@[simp] theorem State.endResume_mem (s : State)  : (s.endResume).mem = s.mem := rfl
@[simp] theorem State.endResume_bad (s : State)  : (s.endResume).bad = s.bad := rfl
@[simp] theorem State.endResume_caught (s : State)  : (s.endResume).caught = s.caught := rfl
@[simp] theorem State.endResume_inbox (s : State)  : (s.endResume).inbox = s.inbox := rfl
@[simp] theorem State.endResume_sched (s : State)  : (s.endResume).sched = s.sched := rfl
@[simp] theorem State.endResume_seq (s : State)  : (s.endResume).seq = s.seq := rfl
@[simp] theorem State.endResume_cycles (s : State)  : (s.endResume).cycles = s.cycles := rfl
@[simp] theorem State.endResume_h_life (s : State)  : (s.endResume).h.life = s.h.life := rfl
@[simp] theorem State.endResume_h_park (s : State)  : (s.endResume).h.park = s.h.park := rfl
@[simp] theorem State.endResume_h_slot (s : State)  : (s.endResume).h.slot = s.h.slot := rfl
@[simp] theorem State.endResume_h_sup (s : State)  : (s.endResume).h.sup = s.h.sup := rfl
@[simp] theorem State.endResume_h_hgen (s : State)  : (s.endResume).h.hgen = s.h.hgen := rfl
@[simp] theorem State.endResume_h_gang (s : State)  : (s.endResume).h.gang = s.h.gang := rfl
@[simp] theorem State.endResume_h_pc (s : State)  : (s.endResume).h.pc = s.h.pc := rfl
@[simp] theorem State.endResume_h_s (s : State)  : (s.endResume).h.s = s.h.s := rfl
@[simp] theorem State.endResume_h_c (s : State)  : (s.endResume).h.c = s.h.c := rfl
@[simp] theorem State.endResume_h_v (s : State)  : (s.endResume).h.v = s.h.v := rfl
@[simp] theorem State.endResume_h_m (s : State)  : (s.endResume).h.m = s.h.m := rfl
@[simp] theorem State.endResume_h_slots (s : State)  : (s.endResume).h.slots = s.h.slots := rfl
@[simp] theorem State.endResume_h_vtype (s : State)  : (s.endResume).h.vtype = s.h.vtype := rfl
@[simp] theorem State.endResume_h_vlr (s : State)  : (s.endResume).h.vlr = s.h.vlr := rfl
@[simp] theorem State.endResume_h_vlc (s : State)  : (s.endResume).h.vlc = s.h.vlc := rfl
@[simp] theorem State.endResume_h_fcsr (s : State)  : (s.endResume).h.fcsr = s.h.fcsr := rfl
@[simp] theorem State.endResume_h_exsplit (s : State)  : (s.endResume).h.exsplit = s.h.exsplit := rfl
@[simp] theorem State.endResume_h_gone (s : State)  : (s.endResume).h.gone = s.h.gone := rfl
@[simp] theorem State.endResume_h_utvec (s : State)  : (s.endResume).h.utvec = s.h.utvec := rfl
@[simp] theorem State.endResume_h_uframe (s : State)  : (s.endResume).h.uframe = s.h.uframe := rfl
@[simp] theorem State.endResume_h_ucause (s : State)  : (s.endResume).h.ucause = s.h.ucause := rfl
@[simp] theorem State.endResume_h_uval (s : State)  : (s.endResume).h.uval = s.h.uval := rfl
@[simp] theorem State.endResume_h_stvec (s : State)  : (s.endResume).h.stvec = s.h.stvec := rfl
@[simp] theorem State.endResume_h_sframe (s : State)  : (s.endResume).h.sframe = s.h.sframe := rfl
@[simp] theorem State.endResume_h_scause (s : State)  : (s.endResume).h.scause = s.h.scause := rfl
@[simp] theorem State.endResume_h_sval (s : State)  : (s.endResume).h.sval = s.h.sval := rfl
@[simp] theorem State.endResume_h_space (s : State)  : (s.endResume).h.space = s.h.space := rfl
@[simp] theorem State.endResume_h_lg (s : State)  : (s.endResume).h.lg = s.h.lg := rfl
@[simp] theorem State.endResume_h_granted (s : State)  : (s.endResume).h.granted = s.h.granted := rfl
@[simp] theorem State.endResume_h_groups (s : State)  : (s.endResume).h.groups = s.h.groups := rfl
@[simp] theorem State.endResume_h_convoy (s : State)  : (s.endResume).h.convoy = s.h.convoy := rfl
@[simp] theorem State.endResume_h_key (s : State)  : (s.endResume).h.key = s.h.key := rfl
@[simp] theorem State.endResume_h_intr (s : State)  : (s.endResume).h.intr = s.h.intr := rfl
@[simp] theorem State.endResume_h_checks (s : State)  : (s.endResume).h.checks = s.h.checks := rfl
@[simp] theorem State.endResume_h_savePending (s : State)  : (s.endResume).h.savePending = s.h.savePending := rfl
@[simp] theorem State.endResume_h_frameFault (s : State)  : (s.endResume).h.frameFault = s.h.frameFault := rfl
@[simp] theorem State.endResume_h_xfers (s : State)  : (s.endResume).h.xfers = s.h.xfers := rfl
@[simp] theorem State.endResume_h_since (s : State)  : (s.endResume).h.since = s.h.since := rfl
@[simp] theorem State.endResume_h_queue (s : State)  : (s.endResume).h.queue = s.h.queue := rfl
@[simp] theorem State.endResume_h_ahead (s : State)  : (s.endResume).h.ahead = s.h.ahead := rfl
@[simp] theorem State.endResume_h_front (s : State)  : (s.endResume).h.front = s.h.front := rfl
@[simp] theorem State.endResume_h_stores (s : State)  : (s.endResume).h.stores = s.h.stores := rfl
@[simp] theorem State.endResume_h_area (s : State)  : (s.endResume).h.area = s.h.area := rfl

@[simp] theorem State.jump_h_pc (s : State) (a : Word) : (s.jump a).h.pc = a := rfl
@[simp] theorem State.adv_h_pc (s : State) : s.adv.h.pc = s.h.pc + 4 := rfl
@[simp] theorem State.endConvoy_h_convoy (s : State) : s.endConvoy.h.convoy = [] := rfl
@[simp] theorem State.setVreg_h_v (s : State) (r : Nat) (v : VReg) : (s.setVreg r v).h.v = s.h.v.set VReg.reset r v := rfl
@[simp] theorem State.setSlot_h_slots (s : State) (h : BitVec 4) (b : Option Binding) : (s.setSlot h b).h.slots = s.h.slots.set none h.toNat b := rfl
@[simp] theorem State.raiseFlags_h_fcsr (s : State) (f : Flags) : (s.raiseFlags f).h.fcsr = s.h.fcsr ||| BitVec.ofNat 64 (f % 256) := rfl

/-! ## `wr`: a scalar register written -/

/-- What a write of a scalar register does: nothing to s0, and otherwise one entry of the file. -/
theorem State.wr_eq (s : State) (d : BitVec 6) (v : Word) :
    s.wr d v = s.mod fun h => { h with s := if d = 0 then h.s else h.s.set 0 d.toNat v } := by
  unfold State.wr; split <;> rfl

@[simp] theorem State.wr_cur (s : State) (d : BitVec 6) (v : Word) : (s.wr d v).cur = s.cur := by rw [State.wr_eq]; rfl
@[simp] theorem State.wr_harts (s : State) (d : BitVec 6) (v : Word) : (s.wr d v).harts = s.harts := by rw [State.wr_eq]; rfl
@[simp] theorem State.wr_clusters (s : State) (d : BitVec 6) (v : Word) : (s.wr d v).clusters = s.clusters := by rw [State.wr_eq]; rfl
@[simp] theorem State.wr_parts (s : State) (d : BitVec 6) (v : Word) : (s.wr d v).parts = s.parts := by rw [State.wr_eq]; rfl
@[simp] theorem State.wr_pkg (s : State) (d : BitVec 6) (v : Word) : (s.wr d v).pkg = s.pkg := by rw [State.wr_eq]; rfl
@[simp] theorem State.wr_mem (s : State) (d : BitVec 6) (v : Word) : (s.wr d v).mem = s.mem := by rw [State.wr_eq]; rfl
@[simp] theorem State.wr_bad (s : State) (d : BitVec 6) (v : Word) : (s.wr d v).bad = s.bad := by rw [State.wr_eq]; rfl
@[simp] theorem State.wr_caught (s : State) (d : BitVec 6) (v : Word) : (s.wr d v).caught = s.caught := by rw [State.wr_eq]; rfl
@[simp] theorem State.wr_inbox (s : State) (d : BitVec 6) (v : Word) : (s.wr d v).inbox = s.inbox := by rw [State.wr_eq]; rfl
@[simp] theorem State.wr_sched (s : State) (d : BitVec 6) (v : Word) : (s.wr d v).sched = s.sched := by rw [State.wr_eq]; rfl
@[simp] theorem State.wr_seq (s : State) (d : BitVec 6) (v : Word) : (s.wr d v).seq = s.seq := by rw [State.wr_eq]; rfl
@[simp] theorem State.wr_cycles (s : State) (d : BitVec 6) (v : Word) : (s.wr d v).cycles = s.cycles := by rw [State.wr_eq]; rfl
@[simp] theorem State.wr_h_life (s : State) (d : BitVec 6) (v : Word) : (s.wr d v).h.life = s.h.life := by rw [State.wr_eq]; rfl
@[simp] theorem State.wr_h_park (s : State) (d : BitVec 6) (v : Word) : (s.wr d v).h.park = s.h.park := by rw [State.wr_eq]; rfl
@[simp] theorem State.wr_h_slot (s : State) (d : BitVec 6) (v : Word) : (s.wr d v).h.slot = s.h.slot := by rw [State.wr_eq]; rfl
@[simp] theorem State.wr_h_sup (s : State) (d : BitVec 6) (v : Word) : (s.wr d v).h.sup = s.h.sup := by rw [State.wr_eq]; rfl
@[simp] theorem State.wr_h_hgen (s : State) (d : BitVec 6) (v : Word) : (s.wr d v).h.hgen = s.h.hgen := by rw [State.wr_eq]; rfl
@[simp] theorem State.wr_h_gang (s : State) (d : BitVec 6) (v : Word) : (s.wr d v).h.gang = s.h.gang := by rw [State.wr_eq]; rfl
@[simp] theorem State.wr_h_pc (s : State) (d : BitVec 6) (v : Word) : (s.wr d v).h.pc = s.h.pc := by rw [State.wr_eq]; rfl
@[simp] theorem State.wr_h_c (s : State) (d : BitVec 6) (v : Word) : (s.wr d v).h.c = s.h.c := by rw [State.wr_eq]; rfl
@[simp] theorem State.wr_h_v (s : State) (d : BitVec 6) (v : Word) : (s.wr d v).h.v = s.h.v := by rw [State.wr_eq]; rfl
@[simp] theorem State.wr_h_m (s : State) (d : BitVec 6) (v : Word) : (s.wr d v).h.m = s.h.m := by rw [State.wr_eq]; rfl
@[simp] theorem State.wr_h_slots (s : State) (d : BitVec 6) (v : Word) : (s.wr d v).h.slots = s.h.slots := by rw [State.wr_eq]; rfl
@[simp] theorem State.wr_h_vtype (s : State) (d : BitVec 6) (v : Word) : (s.wr d v).h.vtype = s.h.vtype := by rw [State.wr_eq]; rfl
@[simp] theorem State.wr_h_vlr (s : State) (d : BitVec 6) (v : Word) : (s.wr d v).h.vlr = s.h.vlr := by rw [State.wr_eq]; rfl
@[simp] theorem State.wr_h_vlc (s : State) (d : BitVec 6) (v : Word) : (s.wr d v).h.vlc = s.h.vlc := by rw [State.wr_eq]; rfl
@[simp] theorem State.wr_h_estart (s : State) (d : BitVec 6) (v : Word) : (s.wr d v).h.estart = s.h.estart := by rw [State.wr_eq]; rfl
@[simp] theorem State.wr_h_resuming (s : State) (d : BitVec 6) (v : Word) : (s.wr d v).h.resuming = s.h.resuming := by rw [State.wr_eq]; rfl
@[simp] theorem State.wr_h_restart (s : State) (d : BitVec 6) (v : Word) : (s.wr d v).h.restart = s.h.restart := by rw [State.wr_eq]; rfl
@[simp] theorem State.wr_h_fcsr (s : State) (d : BitVec 6) (v : Word) : (s.wr d v).h.fcsr = s.h.fcsr := by rw [State.wr_eq]; rfl
@[simp] theorem State.wr_h_exsplit (s : State) (d : BitVec 6) (v : Word) : (s.wr d v).h.exsplit = s.h.exsplit := by rw [State.wr_eq]; rfl
@[simp] theorem State.wr_h_gone (s : State) (d : BitVec 6) (v : Word) : (s.wr d v).h.gone = s.h.gone := by rw [State.wr_eq]; rfl
@[simp] theorem State.wr_h_utvec (s : State) (d : BitVec 6) (v : Word) : (s.wr d v).h.utvec = s.h.utvec := by rw [State.wr_eq]; rfl
@[simp] theorem State.wr_h_uframe (s : State) (d : BitVec 6) (v : Word) : (s.wr d v).h.uframe = s.h.uframe := by rw [State.wr_eq]; rfl
@[simp] theorem State.wr_h_ucause (s : State) (d : BitVec 6) (v : Word) : (s.wr d v).h.ucause = s.h.ucause := by rw [State.wr_eq]; rfl
@[simp] theorem State.wr_h_uval (s : State) (d : BitVec 6) (v : Word) : (s.wr d v).h.uval = s.h.uval := by rw [State.wr_eq]; rfl
@[simp] theorem State.wr_h_stvec (s : State) (d : BitVec 6) (v : Word) : (s.wr d v).h.stvec = s.h.stvec := by rw [State.wr_eq]; rfl
@[simp] theorem State.wr_h_sframe (s : State) (d : BitVec 6) (v : Word) : (s.wr d v).h.sframe = s.h.sframe := by rw [State.wr_eq]; rfl
@[simp] theorem State.wr_h_scause (s : State) (d : BitVec 6) (v : Word) : (s.wr d v).h.scause = s.h.scause := by rw [State.wr_eq]; rfl
@[simp] theorem State.wr_h_sval (s : State) (d : BitVec 6) (v : Word) : (s.wr d v).h.sval = s.h.sval := by rw [State.wr_eq]; rfl
@[simp] theorem State.wr_h_space (s : State) (d : BitVec 6) (v : Word) : (s.wr d v).h.space = s.h.space := by rw [State.wr_eq]; rfl
@[simp] theorem State.wr_h_lg (s : State) (d : BitVec 6) (v : Word) : (s.wr d v).h.lg = s.h.lg := by rw [State.wr_eq]; rfl
@[simp] theorem State.wr_h_granted (s : State) (d : BitVec 6) (v : Word) : (s.wr d v).h.granted = s.h.granted := by rw [State.wr_eq]; rfl
@[simp] theorem State.wr_h_groups (s : State) (d : BitVec 6) (v : Word) : (s.wr d v).h.groups = s.h.groups := by rw [State.wr_eq]; rfl
@[simp] theorem State.wr_h_convoy (s : State) (d : BitVec 6) (v : Word) : (s.wr d v).h.convoy = s.h.convoy := by rw [State.wr_eq]; rfl
@[simp] theorem State.wr_h_key (s : State) (d : BitVec 6) (v : Word) : (s.wr d v).h.key = s.h.key := by rw [State.wr_eq]; rfl
@[simp] theorem State.wr_h_intr (s : State) (d : BitVec 6) (v : Word) : (s.wr d v).h.intr = s.h.intr := by rw [State.wr_eq]; rfl
@[simp] theorem State.wr_h_checks (s : State) (d : BitVec 6) (v : Word) : (s.wr d v).h.checks = s.h.checks := by rw [State.wr_eq]; rfl
@[simp] theorem State.wr_h_savePending (s : State) (d : BitVec 6) (v : Word) : (s.wr d v).h.savePending = s.h.savePending := by rw [State.wr_eq]; rfl
@[simp] theorem State.wr_h_frameFault (s : State) (d : BitVec 6) (v : Word) : (s.wr d v).h.frameFault = s.h.frameFault := by rw [State.wr_eq]; rfl
@[simp] theorem State.wr_h_xfers (s : State) (d : BitVec 6) (v : Word) : (s.wr d v).h.xfers = s.h.xfers := by rw [State.wr_eq]; rfl
@[simp] theorem State.wr_h_since (s : State) (d : BitVec 6) (v : Word) : (s.wr d v).h.since = s.h.since := by rw [State.wr_eq]; rfl
@[simp] theorem State.wr_h_queue (s : State) (d : BitVec 6) (v : Word) : (s.wr d v).h.queue = s.h.queue := by rw [State.wr_eq]; rfl
@[simp] theorem State.wr_h_ahead (s : State) (d : BitVec 6) (v : Word) : (s.wr d v).h.ahead = s.h.ahead := by rw [State.wr_eq]; rfl
@[simp] theorem State.wr_h_front (s : State) (d : BitVec 6) (v : Word) : (s.wr d v).h.front = s.h.front := by rw [State.wr_eq]; rfl
@[simp] theorem State.wr_h_stores (s : State) (d : BitVec 6) (v : Word) : (s.wr d v).h.stores = s.h.stores := by rw [State.wr_eq]; rfl
@[simp] theorem State.wr_h_area (s : State) (d : BitVec 6) (v : Word) : (s.wr d v).h.area = s.h.area := by rw [State.wr_eq]; rfl

/-! ## `noteCv`: the convoy-start bit -/

/-- What the convoy-start bit does. -/
theorem State.noteCv_eq (s : State) (c : Bool) :
    s.noteCv c = s.mod fun h => { h with convoy := convoyAfter c h.convoy } := by cases c <;> rfl

@[simp] theorem State.noteCv_cur (s : State) (c : Bool) : (s.noteCv c).cur = s.cur := by cases c <;> rfl
@[simp] theorem State.noteCv_harts (s : State) (c : Bool) : (s.noteCv c).harts = s.harts := by cases c <;> rfl
@[simp] theorem State.noteCv_clusters (s : State) (c : Bool) : (s.noteCv c).clusters = s.clusters := by cases c <;> rfl
@[simp] theorem State.noteCv_parts (s : State) (c : Bool) : (s.noteCv c).parts = s.parts := by cases c <;> rfl
@[simp] theorem State.noteCv_pkg (s : State) (c : Bool) : (s.noteCv c).pkg = s.pkg := by cases c <;> rfl
@[simp] theorem State.noteCv_mem (s : State) (c : Bool) : (s.noteCv c).mem = s.mem := by cases c <;> rfl
@[simp] theorem State.noteCv_bad (s : State) (c : Bool) : (s.noteCv c).bad = s.bad := by cases c <;> rfl
@[simp] theorem State.noteCv_caught (s : State) (c : Bool) : (s.noteCv c).caught = s.caught := by cases c <;> rfl
@[simp] theorem State.noteCv_inbox (s : State) (c : Bool) : (s.noteCv c).inbox = s.inbox := by cases c <;> rfl
@[simp] theorem State.noteCv_sched (s : State) (c : Bool) : (s.noteCv c).sched = s.sched := by cases c <;> rfl
@[simp] theorem State.noteCv_seq (s : State) (c : Bool) : (s.noteCv c).seq = s.seq := by cases c <;> rfl
@[simp] theorem State.noteCv_cycles (s : State) (c : Bool) : (s.noteCv c).cycles = s.cycles := by cases c <;> rfl
@[simp] theorem State.noteCv_h_life (s : State) (c : Bool) : (s.noteCv c).h.life = s.h.life := by cases c <;> rfl
@[simp] theorem State.noteCv_h_park (s : State) (c : Bool) : (s.noteCv c).h.park = s.h.park := by cases c <;> rfl
@[simp] theorem State.noteCv_h_slot (s : State) (c : Bool) : (s.noteCv c).h.slot = s.h.slot := by cases c <;> rfl
@[simp] theorem State.noteCv_h_sup (s : State) (c : Bool) : (s.noteCv c).h.sup = s.h.sup := by cases c <;> rfl
@[simp] theorem State.noteCv_h_hgen (s : State) (c : Bool) : (s.noteCv c).h.hgen = s.h.hgen := by cases c <;> rfl
@[simp] theorem State.noteCv_h_gang (s : State) (c : Bool) : (s.noteCv c).h.gang = s.h.gang := by cases c <;> rfl
@[simp] theorem State.noteCv_h_pc (s : State) (c : Bool) : (s.noteCv c).h.pc = s.h.pc := by cases c <;> rfl
@[simp] theorem State.noteCv_h_s (s : State) (c : Bool) : (s.noteCv c).h.s = s.h.s := by cases c <;> rfl
@[simp] theorem State.noteCv_h_c (s : State) (c : Bool) : (s.noteCv c).h.c = s.h.c := by cases c <;> rfl
@[simp] theorem State.noteCv_h_v (s : State) (c : Bool) : (s.noteCv c).h.v = s.h.v := by cases c <;> rfl
@[simp] theorem State.noteCv_h_m (s : State) (c : Bool) : (s.noteCv c).h.m = s.h.m := by cases c <;> rfl
@[simp] theorem State.noteCv_h_slots (s : State) (c : Bool) : (s.noteCv c).h.slots = s.h.slots := by cases c <;> rfl
@[simp] theorem State.noteCv_h_vtype (s : State) (c : Bool) : (s.noteCv c).h.vtype = s.h.vtype := by cases c <;> rfl
@[simp] theorem State.noteCv_h_vlr (s : State) (c : Bool) : (s.noteCv c).h.vlr = s.h.vlr := by cases c <;> rfl
@[simp] theorem State.noteCv_h_vlc (s : State) (c : Bool) : (s.noteCv c).h.vlc = s.h.vlc := by cases c <;> rfl
@[simp] theorem State.noteCv_h_estart (s : State) (c : Bool) : (s.noteCv c).h.estart = s.h.estart := by cases c <;> rfl
@[simp] theorem State.noteCv_h_resuming (s : State) (c : Bool) : (s.noteCv c).h.resuming = s.h.resuming := by cases c <;> rfl
@[simp] theorem State.noteCv_h_restart (s : State) (c : Bool) : (s.noteCv c).h.restart = s.h.restart := by cases c <;> rfl
@[simp] theorem State.noteCv_h_fcsr (s : State) (c : Bool) : (s.noteCv c).h.fcsr = s.h.fcsr := by cases c <;> rfl
@[simp] theorem State.noteCv_h_exsplit (s : State) (c : Bool) : (s.noteCv c).h.exsplit = s.h.exsplit := by cases c <;> rfl
@[simp] theorem State.noteCv_h_gone (s : State) (c : Bool) : (s.noteCv c).h.gone = s.h.gone := by cases c <;> rfl
@[simp] theorem State.noteCv_h_utvec (s : State) (c : Bool) : (s.noteCv c).h.utvec = s.h.utvec := by cases c <;> rfl
@[simp] theorem State.noteCv_h_uframe (s : State) (c : Bool) : (s.noteCv c).h.uframe = s.h.uframe := by cases c <;> rfl
@[simp] theorem State.noteCv_h_ucause (s : State) (c : Bool) : (s.noteCv c).h.ucause = s.h.ucause := by cases c <;> rfl
@[simp] theorem State.noteCv_h_uval (s : State) (c : Bool) : (s.noteCv c).h.uval = s.h.uval := by cases c <;> rfl
@[simp] theorem State.noteCv_h_stvec (s : State) (c : Bool) : (s.noteCv c).h.stvec = s.h.stvec := by cases c <;> rfl
@[simp] theorem State.noteCv_h_sframe (s : State) (c : Bool) : (s.noteCv c).h.sframe = s.h.sframe := by cases c <;> rfl
@[simp] theorem State.noteCv_h_scause (s : State) (c : Bool) : (s.noteCv c).h.scause = s.h.scause := by cases c <;> rfl
@[simp] theorem State.noteCv_h_sval (s : State) (c : Bool) : (s.noteCv c).h.sval = s.h.sval := by cases c <;> rfl
@[simp] theorem State.noteCv_h_space (s : State) (c : Bool) : (s.noteCv c).h.space = s.h.space := by cases c <;> rfl
@[simp] theorem State.noteCv_h_lg (s : State) (c : Bool) : (s.noteCv c).h.lg = s.h.lg := by cases c <;> rfl
@[simp] theorem State.noteCv_h_granted (s : State) (c : Bool) : (s.noteCv c).h.granted = s.h.granted := by cases c <;> rfl
@[simp] theorem State.noteCv_h_groups (s : State) (c : Bool) : (s.noteCv c).h.groups = s.h.groups := by cases c <;> rfl
@[simp] theorem State.noteCv_h_key (s : State) (c : Bool) : (s.noteCv c).h.key = s.h.key := by cases c <;> rfl
@[simp] theorem State.noteCv_h_intr (s : State) (c : Bool) : (s.noteCv c).h.intr = s.h.intr := by cases c <;> rfl
@[simp] theorem State.noteCv_h_checks (s : State) (c : Bool) : (s.noteCv c).h.checks = s.h.checks := by cases c <;> rfl
@[simp] theorem State.noteCv_h_savePending (s : State) (c : Bool) : (s.noteCv c).h.savePending = s.h.savePending := by cases c <;> rfl
@[simp] theorem State.noteCv_h_frameFault (s : State) (c : Bool) : (s.noteCv c).h.frameFault = s.h.frameFault := by cases c <;> rfl
@[simp] theorem State.noteCv_h_xfers (s : State) (c : Bool) : (s.noteCv c).h.xfers = s.h.xfers := by cases c <;> rfl
@[simp] theorem State.noteCv_h_since (s : State) (c : Bool) : (s.noteCv c).h.since = s.h.since := by cases c <;> rfl
@[simp] theorem State.noteCv_h_queue (s : State) (c : Bool) : (s.noteCv c).h.queue = s.h.queue := by cases c <;> rfl
@[simp] theorem State.noteCv_h_ahead (s : State) (c : Bool) : (s.noteCv c).h.ahead = s.h.ahead := by cases c <;> rfl
@[simp] theorem State.noteCv_h_front (s : State) (c : Bool) : (s.noteCv c).h.front = s.h.front := by cases c <;> rfl
@[simp] theorem State.noteCv_h_stores (s : State) (c : Bool) : (s.noteCv c).h.stores = s.h.stores := by cases c <;> rfl
@[simp] theorem State.noteCv_h_area (s : State) (c : Bool) : (s.noteCv c).h.area = s.h.area := by cases c <;> rfl
@[simp] theorem State.noteCv_h_convoy (s : State) (c : Bool) : (s.noteCv c).h.convoy = convoyAfter c s.h.convoy := by cases c <;> rfl

/-! ## Reading after writing -/

@[simp] theorem State.rd_zero (s : State) : s.rd 0 = 0 := rfl

theorem State.rd_eq (s : State) (r : BitVec 6) : s.rd r = if r = 0 then 0 else s.h.s.get 0 r.toNat := rfl

/-- Scalar registers read alike in states whose register files are alike. -/
theorem State.rd_congr {s t : State} (h : t.h.s = s.h.s) (r : BitVec 6) : t.rd r = s.rd r := by
  rw [State.rd_eq, State.rd_eq, h]

/-- A register read after a write: the value at the register written, unless it is s0, and the old value elsewhere. -/
theorem State.rd_wr (s : State) (d r : BitVec 6) (v : Word) :
    (s.wr d v).rd r = if r = d then (if d = 0 then 0 else v) else s.rd r := by
  rw [State.rd_eq, State.rd_eq, State.wr_eq]
  rw [State.mod_h]
  by_cases hd : d = 0
  · rw [if_pos hd]
    by_cases hr : r = d
    · rw [if_pos hr, if_pos hd, if_pos (hr.trans hd)]
    · rw [if_neg hr]
  · rw [if_neg hd]
    by_cases hr : r = d
    · rw [if_pos hr, if_neg hd, if_neg (hr ▸ hd), hr, Table.get_set, if_pos rfl]
    · rw [if_neg hr, Table.get_set, if_neg fun e : d.toNat = r.toNat => hr (BitVec.eq_of_toNat_eq e.symm)]

@[simp] theorem State.rd_noteCv (s : State) (c : Bool) (r : BitVec 6) : (s.noteCv c).rd r = s.rd r := by cases c <;> rfl
@[simp] theorem State.rd_adv (s : State) (r : BitVec 6) : s.adv.rd r = s.rd r := rfl
@[simp] theorem State.rd_jump (s : State) (a : Word) (r : BitVec 6) : (s.jump a).rd r = s.rd r := rfl
@[simp] theorem State.rd_raiseFlags (s : State) (f : Flags) (r : BitVec 6) : (s.raiseFlags f).rd r = s.rd r := rfl
@[simp] theorem State.rd_endConvoy (s : State) (r : BitVec 6) : s.endConvoy.rd r = s.rd r := rfl
@[simp] theorem State.rd_setVreg (s : State) (n : Nat) (v : VReg) (r : BitVec 6) : (s.setVreg n v).rd r = s.rd r := rfl
@[simp] theorem State.rd_putVec (s : State) (n b : Nat) (v : VReg) (r : BitVec 6) : (s.putVec n b v).rd r = s.rd r := rfl

/-- A vector register read after one is replaced. -/
theorem State.vreg_setVreg (s : State) (r n : Nat) (v : VReg) : (s.setVreg r v).vreg n = if r = n then v else s.vreg n := by
  unfold State.vreg; rw [State.setVreg_h_v, Table.get_set]

/-- A vector register read after a result is written. -/
theorem State.vreg_putVec (s : State) (r n b : Nat) (v : VReg) :
    (s.putVec r b v).vreg n = if r = n then
      { s.vreg r with bits := b, levels := v.levels, headOpen := v.headOpen, tailOpen := v.tailOpen } else s.vreg n := by
  unfold State.putVec; rw [State.vreg_setVreg]

/-- A mask register read after one is written; m0 keeps what its place holds. -/
theorem State.mask_setMask (s : State) (m n v : Nat) :
    (s.setMask m v).h.m.get 0 n = if m = n ∧ m ≠ 0 then v else s.h.m.get 0 n := by
  unfold State.setMask
  by_cases hm : m = 0
  · simp [hm]
  · rw [if_neg hm, State.mod_h, Table.get_set]
    by_cases hn : m = n
    · rw [if_pos hn, if_pos ⟨hn, hm⟩]
    · rw [if_neg hn, if_neg fun x => hn x.1]

/-- A slot read after one is bound or unbound. -/
theorem State.slot_setSlot (s : State) (h g : BitVec 4) (b : Option Binding) :
    (s.setSlot h b).slot g = if h = g then b else s.slot g := by
  unfold State.slot; rw [State.setSlot_h_slots, Table.get_set]
  by_cases e : h = g
  · simp [e]
  · rw [if_neg e, if_neg fun x : h.toNat = g.toNat => e (BitVec.eq_of_toNat_eq x)]

/-- A cluster read after one is changed. -/
theorem State.clu_modClu (s : State) (k n : Nat) (f : Cluster → Cluster) :
    (s.modClu k f).clu n = if k = n then f (s.clu k) else s.clu n := Table.get_set ..

/-- A partition read after one is changed. -/
theorem State.part_modPart (s : State) (k n : Nat) (f : Part → Part) :
    (s.modPart k f).part n = if k = n then f (s.part k) else s.part n := Table.get_set ..

/-- A context read after one is replaced. -/
theorem State.hart_setHart (s : State) (k n : Nat) (x : Hart) :
    (s.setHart k x).hart n = if k = n then x else s.hart n := by
  unfold State.setHart State.hart
  by_cases hk : k = s.cur
  · simp [hk]; by_cases hn : n = s.cur <;> simp [hn, eq_comm]
  · by_cases hn : n = s.cur
    · simp [hk, hn]
    · by_cases e : k = n <;> simp [hk, hn, e, Table.get_set]

/-- Bytes read alike in states whose memory and scratchpads are alike. -/
theorem State.byteAt_congr {s t : State} (hm : t.mem = s.mem) (hc : t.clusters = s.clusters) (l : Loc) :
    t.byteAt l = s.byteAt l := by
  cases l <;> simp [State.byteAt, State.clu, hm, hc]


end Sys2Proof.Machine
end

