-- ==== Sys2Proof/Laws/Ops.lean ====
section
/-!
SUPPORT. What each shared operation answers: running on a hart, the scalar forms, the legality checks, waiting, the checks
of a vector instruction. Later proofs cite these and do not unfold the operations.
-/

namespace Sys2Proof.Machine

variable {s t : State} {c : Bool}

/-- A meaning runs where a hart is there, and stops by name otherwise. -/
theorem onHart_of (h : s.runnable = true) (f : State → Out) : s.onHart c f = f (s.noteCv c) := if_pos h

theorem onHart_not (h : s.runnable = false) (f : State → Out) : s.onHart c f = .fault .noHart := by
  simp [State.onHart, h]

/-- An instruction of the scalar form answers a next state, past the instruction. -/
theorem scalar_of (h : s.runnable = true) (f : State → State) : s.scalar c f = .next (f (s.noteCv c)).adv :=
  onHart_of h _

/-- A write of s(d) with flags raised, past the instruction, is all that a scalar instruction does. -/
theorem scalarDone_write (s : State) (c : Bool) (d : BitVec 6) (v : Word) (fl : Flags) :
    ScalarDone s (((s.noteCv c).wr d v).raiseFlags fl).adv c d v fl (s.h.pc + 4) where
  value := by rw [State.rd_adv, State.rd_raiseFlags, State.rd_wr, if_pos rfl]
  others r hr := by rw [State.rd_adv, State.rd_raiseFlags, State.rd_wr, if_neg hr, State.rd_noteCv]
  flags := by simp
  pc := by simp
  rest := by rw [State.wr_eq, State.noteCv_eq]; rfl
  memory l := State.byteAt_congr (by simp) (by simp) l

/-- Raising no flag changes nothing. -/
theorem raiseFlags_zero (s : State) : s.raiseFlags 0 = s := by
  show ({ s with h := { s.h with fcsr := s.h.fcsr ||| 0#64 } } : State) = s
  rw [BitVec.or_zero]

/-- The same where no flag is raised. -/
theorem scalarDone_wr (s : State) (c : Bool) (d : BitVec 6) (v : Word) :
    ScalarDone s ((s.noteCv c).wr d v).adv c d v 0 (s.h.pc + 4) := by
  have h := scalarDone_write s c d v 0
  rwa [raiseFlags_zero] at h

/-- An instruction whose effect is one write of a scalar register. -/
theorem scalarRuns_wr {i : Instr} {d : BitVec 6} {v : Word} {f : State → State} (he : exec i s = s.scalar c f)
    (hf : f (s.noteCv c) = (s.noteCv c).wr d v) : ScalarRuns i s c d v 0 := fun hr =>
  ⟨_, by rw [he, scalar_of hr, hf], scalarDone_wr s c d v⟩

/-- An instruction whose effect is one write of a scalar register with flags. -/
theorem scalarRuns_write {i : Instr} {d : BitVec 6} {v : Word} {fl : Flags} {f : State → State}
    (he : exec i s = s.scalar c f) (hf : f (s.noteCv c) = ((s.noteCv c).wr d v).raiseFlags fl) :
    ScalarRuns i s c d v fl := fun hr => ⟨_, by rw [he, scalar_of hr, hf], scalarDone_write s c d v fl⟩

/-- With no condition that holds, a checked instruction goes on. -/
theorem legal_of {word : BitVec 32} {l : List (Bool × Nat)} {f : Unit → Out} (h : ∀ x ∈ l, x.1 = false) :
    s.legal word l f = f () := by
  unfold State.legal
  rw [List.find?_eq_none.2 (by simpa using h)]

/-- A condition that holds after none that does raises its sub-cause. -/
theorem legal_first {word : BitVec 32} {l r : List (Bool × Nat)} {n : Nat} {f : Unit → Out}
    (h : ∀ x ∈ l, x.1 = false) : s.legal word (l ++ (true, n) :: r) f = s.illegal n word := by
  unfold State.legal
  rw [List.find?_append, List.find?_eq_none.2 (by simpa using h)]
  rfl

/-- With no transfer in flight an instruction that waits for them goes on. -/
theorem drained_of (h : s.h.xfers = []) (f : State → Out) : s.drained f = f s := by
  unfold State.drained; rw [if_neg (by simp [h])]

/-- With no transfer in flight nothing holds the hart back. -/
theorem unsettled_of (h : s.h.xfers = []) : s.unsettled = false := by simp [State.unsettled, h]

/-- With no transfer in flight a trap is taken, by the hart as its queue leaves it. -/
theorem raise_of (h : s.h.xfers = []) (x : Trap) :
    s.raise x = .next ((s.mod (·.unqueued x)).deliver x (s.h.unqueued x).pc) := by
  rw [State.raise, unsettled_of h]; rfl

/-- A trap that no queued instruction raised, and that no queue is to keep, is taken at the instruction. -/
theorem unqueued_of {h : Hart} (hf : h.front = none) {x : Trap} (hw : x.word = none) : h.unqueued x = h := by
  simp only [Hart.unqueued, hf, hw]

/-- Outside the queue a trap is taken at the instruction. -/
theorem raise_at (h : s.h.xfers = []) (hf : s.h.front = none) {x : Trap} (hw : x.word = none) :
    s.raise x = .next (s.deliver x s.h.pc) := by
  have e : s.mod (·.unqueued x) = s := congrArg (fun h => { s with h := h }) (unqueued_of hf hw)
  rw [raise_of h, e, unqueued_of hf hw]

/-- No segment overflow. -/
theorem overflow_nil (word : BitVec 32) (f : State → Out) : s.overflow word [] f = f s := rfl

/-- A choice of one or none needs no draw. -/
theorem pick_one (s : State) : s.pick 1 = (0, s) := rfl
theorem pick_zero (s : State) : s.pick 0 = (0, s) := rfl

/-- A draw of several answers one of them, and moves the counter of the free values on. -/
theorem pick_of {n : Nat} (h : 2 ≤ n) : s.pick n = (Config.choice s.seq % n, { s with seq := s.seq + 1 }) := by
  unfold State.pick; rw [if_neg (by omega)]

/-- A draw answers one of the possibilities. -/
theorem pick_lt {n : Nat} (h : 0 < n) : (s.pick n).1 < n := by
  unfold State.pick; split
  · exact h
  · exact Nat.mod_lt _ h

end Sys2Proof.Machine
end

