-- ==== Sys2Proof/Laws/PerInstr.lean ====
section
/-!
SUPPORT. Decoding the word of a well-formed instruction gives the instruction: one lemma per constructor, over one lemma
per layout of a word.
-/

namespace Sys2Proof.Laws.RoundTrip

/-- An instruction's word decodes to it. -/
def Statement (i : Instr) : Prop := i.wf = true → decodeBytes (wordBytes (encode i)) = .ok i

theorem decodeBytes_wordBytes (w : BitVec 32) : decodeBytes (wordBytes w) = decode w := by
  simp only [decodeBytes, wordBytes]
  congr 1
  ext i hi
  simp
  grind

theorem append_toNat {m n : Nat} (x : BitVec m) (y : BitVec n) : (x ++ y).toNat = x.toNat * 2 ^ n + y.toNat := by
  rw [BitVec.toNat_append, ← Nat.shiftLeft_add_eq_or_of_lt y.isLt, Nat.shiftLeft_eq]

theorem fld_of_toNat {w : BitVec 32} {lo n : Nat} {v : BitVec n} (h : w.toNat / 2 ^ lo % 2 ^ n = v.toNat) : fld w lo n = v := by
  apply BitVec.eq_of_toNat_eq
  simp [fld, Nat.shiftRight_eq_div_pow, h]

theorem cv_of_fld {w : BitVec 32} {c : Bool} (h : fld w 31 1 = BitVec.ofBool c) : cv w = c := by
  cases c <;> simp [cv, h]

/-- A number of 6 bits is its two halves. -/
theorem halves (a : BitVec 6) : a.extractLsb' 3 3 ++ a.extractLsb' 0 3 = a := by
  revert a
  decide

theorem lay1_31 {w : BitVec 32} (p0 : BitVec 1) (p1 : BitVec 31)
    (e : w = p0 ++ p1) : fld w 31 1 = p0 ∧
    fld w 25 6 = p1.extractLsb' 25 6 ∧
    fld w 13 12 = p1.extractLsb' 13 12 ∧
    fld w 10 3 = p1.extractLsb' 10 3 ∧
    fld w 8 5 = p1.extractLsb' 8 5 ∧
    fld w 0 10 = p1.extractLsb' 0 10 ∧
    fld w 0 8 = p1.extractLsb' 0 8 := by
  have t := congrArg BitVec.toNat e
  simp only [append_toNat] at t
  have h0 := p0.isLt; have h1 := p1.isLt
  refine ⟨?_, ?_, ?_, ?_, ?_, ?_, ?_⟩ <;> apply fld_of_toNat <;> (try simp only [BitVec.extractLsb'_toNat, Nat.shiftRight_eq_div_pow]) <;> omega

theorem lay1_28_3 {w : BitVec 32} (p0 : BitVec 1) (p1 : BitVec 28) (p2 : BitVec 3)
    (e : w = p0 ++ p1 ++ p2) : fld w 31 1 = p0 ∧
    fld w 25 6 = p1.extractLsb' 22 6 ∧
    fld w 13 12 = p1.extractLsb' 10 12 ∧
    fld w 8 5 = p1.extractLsb' 5 5 ∧
    fld w 3 5 = p1.extractLsb' 0 5 ∧
    fld w 0 3 = p2 := by
  have t := congrArg BitVec.toNat e
  simp only [append_toNat] at t
  have h0 := p0.isLt; have h1 := p1.isLt; have h2 := p2.isLt
  refine ⟨?_, ?_, ?_, ?_, ?_, ?_⟩ <;> apply fld_of_toNat <;> (try simp only [BitVec.extractLsb'_toNat, Nat.shiftRight_eq_div_pow]) <;> omega

theorem lay1_6_6_11_8 {w : BitVec 32} (p0 : BitVec 1) (p1 : BitVec 6) (p2 : BitVec 6) (p3 : BitVec 11) (p4 : BitVec 8)
    (e : w = p0 ++ p1 ++ p2 ++ p3 ++ p4) : fld w 31 1 = p0 ∧
    fld w 25 6 = p1 ∧
    fld w 19 6 = p2 ∧
    fld w 13 6 = p3.extractLsb' 5 6 ∧
    fld w 10 3 = p3.extractLsb' 2 3 ∧
    fld w 8 5 = p3.extractLsb' 0 5 ∧
    fld w 8 2 = p3.extractLsb' 0 2 ∧
    fld w 0 8 = p4 := by
  have t := congrArg BitVec.toNat e
  simp only [append_toNat] at t
  have h0 := p0.isLt; have h1 := p1.isLt; have h2 := p2.isLt; have h3 := p3.isLt; have h4 := p4.isLt
  refine ⟨?_, ?_, ?_, ?_, ?_, ?_, ?_, ?_⟩ <;> apply fld_of_toNat <;> (try simp only [BitVec.extractLsb'_toNat, Nat.shiftRight_eq_div_pow]) <;> omega

theorem lay1_12_6_5_8 {w : BitVec 32} (p0 : BitVec 1) (p1 : BitVec 12) (p2 : BitVec 6) (p3 : BitVec 5) (p4 : BitVec 8)
    (e : w = p0 ++ p1 ++ p2 ++ p3 ++ p4) : fld w 31 1 = p0 ∧
    fld w 25 6 = p1.extractLsb' 6 6 ∧
    fld w 19 6 = p1.extractLsb' 0 6 ∧
    fld w 13 6 = p2 ∧
    fld w 8 5 = p3 ∧
    fld w 0 8 = p4 := by
  have t := congrArg BitVec.toNat e
  simp only [append_toNat] at t
  have h0 := p0.isLt; have h1 := p1.isLt; have h2 := p2.isLt; have h3 := p3.isLt; have h4 := p4.isLt
  refine ⟨?_, ?_, ?_, ?_, ?_, ?_⟩ <;> apply fld_of_toNat <;> (try simp only [BitVec.extractLsb'_toNat, Nat.shiftRight_eq_div_pow]) <;> omega

theorem lay1_6_6_6_5_8 {w : BitVec 32} (p0 : BitVec 1) (p1 : BitVec 6) (p2 : BitVec 6) (p3 : BitVec 6) (p4 : BitVec 5) (p5 : BitVec 8)
    (e : w = p0 ++ p1 ++ p2 ++ p3 ++ p4 ++ p5) : fld w 31 1 = p0 ∧
    fld w 25 6 = p1 ∧
    fld w 19 6 = p2 ∧
    fld w 13 6 = p3 ∧
    fld w 8 5 = p4 ∧
    fld w 0 8 = p5 := by
  have t := congrArg BitVec.toNat e
  simp only [append_toNat] at t
  have h0 := p0.isLt; have h1 := p1.isLt; have h2 := p2.isLt; have h3 := p3.isLt; have h4 := p4.isLt; have h5 := p5.isLt
  refine ⟨?_, ?_, ?_, ?_, ?_, ?_⟩ <;> apply fld_of_toNat <;> omega

theorem lay1_6_6_6_11_2 {w : BitVec 32} (p0 : BitVec 1) (p1 : BitVec 6) (p2 : BitVec 6) (p3 : BitVec 6) (p4 : BitVec 11) (p5 : BitVec 2)
    (e : w = p0 ++ p1 ++ p2 ++ p3 ++ p4 ++ p5) : fld w 31 1 = p0 ∧
    fld w 25 6 = p1 ∧
    fld w 19 6 = p2 ∧
    fld w 13 6 = p3 ∧
    fld w 8 5 = p4.extractLsb' 6 5 ∧
    fld w 2 6 = p4.extractLsb' 0 6 ∧
    fld w 0 2 = p5 := by
  have t := congrArg BitVec.toNat e
  simp only [append_toNat] at t
  have h0 := p0.isLt; have h1 := p1.isLt; have h2 := p2.isLt; have h3 := p3.isLt; have h4 := p4.isLt; have h5 := p5.isLt
  refine ⟨?_, ?_, ?_, ?_, ?_, ?_, ?_⟩ <;> apply fld_of_toNat <;> (try simp only [BitVec.extractLsb'_toNat, Nat.shiftRight_eq_div_pow]) <;> omega

theorem lay1_6_6_6_12_1 {w : BitVec 32} (p0 : BitVec 1) (p1 : BitVec 6) (p2 : BitVec 6) (p3 : BitVec 6) (p4 : BitVec 12) (p5 : BitVec 1)
    (e : w = p0 ++ p1 ++ p2 ++ p3 ++ p4 ++ p5) : fld w 31 1 = p0 ∧
    fld w 25 6 = p1 ∧
    fld w 19 6 = p2 ∧
    fld w 13 6 = p3 ∧
    fld w 8 5 = p4.extractLsb' 7 5 ∧
    fld w 7 6 = p4.extractLsb' 6 6 ∧
    fld w 2 5 = p4.extractLsb' 1 5 ∧
    fld w 1 7 = p4.extractLsb' 0 7 ∧
    fld w 1 1 = p4.extractLsb' 0 1 ∧
    fld w 0 1 = p5 := by
  have t := congrArg BitVec.toNat e
  simp only [append_toNat] at t
  have h0 := p0.isLt; have h1 := p1.isLt; have h2 := p2.isLt; have h3 := p3.isLt; have h4 := p4.isLt; have h5 := p5.isLt
  refine ⟨?_, ?_, ?_, ?_, ?_, ?_, ?_, ?_, ?_, ?_⟩ <;> apply fld_of_toNat <;> (try simp only [BitVec.extractLsb'_toNat, Nat.shiftRight_eq_div_pow]) <;> omega

theorem lay1_12_6_9_4 {w : BitVec 32} (p0 : BitVec 1) (p1 : BitVec 12) (p2 : BitVec 6) (p3 : BitVec 9) (p4 : BitVec 4)
    (e : w = p0 ++ p1 ++ p2 ++ p3 ++ p4) : fld w 31 1 = p0 ∧
    fld w 25 6 = p1.extractLsb' 6 6 ∧
    fld w 19 6 = p1.extractLsb' 0 6 ∧
    fld w 13 6 = p2 ∧
    fld w 8 5 = p3.extractLsb' 4 5 ∧
    fld w 4 4 = p3.extractLsb' 0 4 ∧
    fld w 0 4 = p4 := by
  have t := congrArg BitVec.toNat e
  simp only [append_toNat] at t
  have h0 := p0.isLt; have h1 := p1.isLt; have h2 := p2.isLt; have h3 := p3.isLt; have h4 := p4.isLt
  refine ⟨?_, ?_, ?_, ?_, ?_, ?_, ?_⟩ <;> apply fld_of_toNat <;> (try simp only [BitVec.extractLsb'_toNat, Nat.shiftRight_eq_div_pow]) <;> omega

theorem lay1_6_6_6_6_7 {w : BitVec 32} (p0 : BitVec 1) (p1 : BitVec 6) (p2 : BitVec 6) (p3 : BitVec 6) (p4 : BitVec 6) (p5 : BitVec 7)
    (e : w = p0 ++ p1 ++ p2 ++ p3 ++ p4 ++ p5) : fld w 31 1 = p0 ∧
    fld w 25 6 = p1 ∧
    fld w 19 6 = p2 ∧
    fld w 13 6 = p3 ∧
    fld w 7 6 = p4 ∧
    fld w 5 2 = p5.extractLsb' 5 2 ∧
    fld w 4 3 = p5.extractLsb' 4 3 ∧
    fld w 0 7 = p5 ∧
    fld w 0 5 = p5.extractLsb' 0 5 ∧
    fld w 0 4 = p5.extractLsb' 0 4 := by
  have t := congrArg BitVec.toNat e
  simp only [append_toNat] at t
  have h0 := p0.isLt; have h1 := p1.isLt; have h2 := p2.isLt; have h3 := p3.isLt; have h4 := p4.isLt; have h5 := p5.isLt
  refine ⟨?_, ?_, ?_, ?_, ?_, ?_, ?_, ?_, ?_, ?_⟩ <;> apply fld_of_toNat <;> (try simp only [BitVec.extractLsb'_toNat, Nat.shiftRight_eq_div_pow]) <;> omega

theorem lay1_6_6_6_13 {w : BitVec 32} (p0 : BitVec 1) (p1 : BitVec 6) (p2 : BitVec 6) (p3 : BitVec 6) (p4 : BitVec 13)
    (e : w = p0 ++ p1 ++ p2 ++ p3 ++ p4) : fld w 31 1 = p0 ∧
    fld w 25 6 = p1 ∧
    fld w 19 6 = p2 ∧
    fld w 13 6 = p3 ∧
    fld w 10 3 = p4.extractLsb' 10 3 ∧
    fld w 7 6 = p4.extractLsb' 7 6 ∧
    fld w 5 8 = p4.extractLsb' 5 8 ∧
    fld w 4 9 = p4.extractLsb' 4 9 ∧
    fld w 4 3 = p4.extractLsb' 4 3 ∧
    fld w 2 5 = p4.extractLsb' 2 5 ∧
    fld w 2 2 = p4.extractLsb' 2 2 ∧
    fld w 0 13 = p4 ∧
    fld w 0 10 = p4.extractLsb' 0 10 ∧
    fld w 0 7 = p4.extractLsb' 0 7 ∧
    fld w 0 5 = p4.extractLsb' 0 5 ∧
    fld w 0 4 = p4.extractLsb' 0 4 ∧
    fld w 0 2 = p4.extractLsb' 0 2 := by
  have t := congrArg BitVec.toNat e
  simp only [append_toNat] at t
  have h0 := p0.isLt; have h1 := p1.isLt; have h2 := p2.isLt; have h3 := p3.isLt; have h4 := p4.isLt
  refine ⟨?_, ?_, ?_, ?_, ?_, ?_, ?_, ?_, ?_, ?_, ?_, ?_, ?_, ?_, ?_, ?_, ?_⟩ <;> apply fld_of_toNat <;> (try simp only [BitVec.extractLsb'_toNat, Nat.shiftRight_eq_div_pow]) <;> omega

theorem lay1_6_6_6_4_2_7 {w : BitVec 32} (p0 : BitVec 1) (p1 : BitVec 6) (p2 : BitVec 6) (p3 : BitVec 6) (p4 : BitVec 4) (p5 : BitVec 2) (p6 : BitVec 7)
    (e : w = p0 ++ p1 ++ p2 ++ p3 ++ p4 ++ p5 ++ p6) : fld w 31 1 = p0 ∧
    fld w 25 6 = p1 ∧
    fld w 19 6 = p2 ∧
    fld w 13 6 = p3 ∧
    fld w 9 4 = p4 ∧
    fld w 7 2 = p5 ∧
    fld w 0 7 = p6 := by
  have t := congrArg BitVec.toNat e
  simp only [append_toNat] at t
  have h0 := p0.isLt; have h1 := p1.isLt; have h2 := p2.isLt; have h3 := p3.isLt; have h4 := p4.isLt; have h5 := p5.isLt; have h6 := p6.isLt
  refine ⟨?_, ?_, ?_, ?_, ?_, ?_, ?_⟩ <;> apply fld_of_toNat <;> omega

theorem lay1_6_6_6_7_6 {w : BitVec 32} (p0 : BitVec 1) (p1 : BitVec 6) (p2 : BitVec 6) (p3 : BitVec 6) (p4 : BitVec 7) (p5 : BitVec 6)
    (e : w = p0 ++ p1 ++ p2 ++ p3 ++ p4 ++ p5) : fld w 31 1 = p0 ∧
    fld w 25 6 = p1 ∧
    fld w 19 6 = p2 ∧
    fld w 13 6 = p3 ∧
    fld w 11 2 = p4.extractLsb' 5 2 ∧
    fld w 10 3 = p4.extractLsb' 4 3 ∧
    fld w 6 5 = p4.extractLsb' 0 5 ∧
    fld w 6 4 = p4.extractLsb' 0 4 ∧
    fld w 0 6 = p5 := by
  have t := congrArg BitVec.toNat e
  simp only [append_toNat] at t
  have h0 := p0.isLt; have h1 := p1.isLt; have h2 := p2.isLt; have h3 := p3.isLt; have h4 := p4.isLt; have h5 := p5.isLt
  refine ⟨?_, ?_, ?_, ?_, ?_, ?_, ?_, ?_, ?_⟩ <;> apply fld_of_toNat <;> (try simp only [BitVec.extractLsb'_toNat, Nat.shiftRight_eq_div_pow]) <;> omega

theorem lay1_6_6_19 {w : BitVec 32} (p0 : BitVec 1) (p1 : BitVec 6) (p2 : BitVec 6) (p3 : BitVec 19)
    (e : w = p0 ++ p1 ++ p2 ++ p3) : fld w 31 1 = p0 ∧
    fld w 25 6 = p1 ∧
    fld w 19 6 = p2 ∧
    fld w 0 19 = p3 := by
  have t := congrArg BitVec.toNat e
  simp only [append_toNat] at t
  have h0 := p0.isLt; have h1 := p1.isLt; have h2 := p2.isLt; have h3 := p3.isLt
  refine ⟨?_, ?_, ?_, ?_⟩ <;> apply fld_of_toNat <;> omega

theorem lay1_6_6_6_6_2_5 {w : BitVec 32} (p0 : BitVec 1) (p1 : BitVec 6) (p2 : BitVec 6) (p3 : BitVec 6) (p4 : BitVec 6) (p5 : BitVec 2) (p6 : BitVec 5)
    (e : w = p0 ++ p1 ++ p2 ++ p3 ++ p4 ++ p5 ++ p6) : fld w 31 1 = p0 ∧
    fld w 25 6 = p1 ∧
    fld w 19 6 = p2 ∧
    fld w 13 6 = p3 ∧
    fld w 7 6 = p4 ∧
    fld w 5 2 = p5 ∧
    fld w 0 5 = p6 := by
  have t := congrArg BitVec.toNat e
  simp only [append_toNat] at t
  have h0 := p0.isLt; have h1 := p1.isLt; have h2 := p2.isLt; have h3 := p3.isLt; have h4 := p4.isLt; have h5 := p5.isLt; have h6 := p6.isLt
  refine ⟨?_, ?_, ?_, ?_, ?_, ?_, ?_⟩ <;> apply fld_of_toNat <;> omega

theorem lay1_6_6_4_6_3_6 {w : BitVec 32} (p0 : BitVec 1) (p1 : BitVec 6) (p2 : BitVec 6) (p3 : BitVec 4) (p4 : BitVec 6) (p5 : BitVec 3) (p6 : BitVec 6)
    (e : w = p0 ++ p1 ++ p2 ++ p3 ++ p4 ++ p5 ++ p6) : fld w 31 1 = p0 ∧
    fld w 25 6 = p1 ∧
    fld w 19 6 = p2 ∧
    fld w 15 4 = p3 ∧
    fld w 9 6 = p4 ∧
    fld w 6 3 = p5 ∧
    fld w 0 6 = p6 := by
  have t := congrArg BitVec.toNat e
  simp only [append_toNat] at t
  have h0 := p0.isLt; have h1 := p1.isLt; have h2 := p2.isLt; have h3 := p3.isLt; have h4 := p4.isLt; have h5 := p5.isLt; have h6 := p6.isLt
  refine ⟨?_, ?_, ?_, ?_, ?_, ?_, ?_⟩ <;> apply fld_of_toNat <;> omega

theorem lay1_6_6_4_6_3_1_1_1_3 {w : BitVec 32} (p0 : BitVec 1) (p1 : BitVec 6) (p2 : BitVec 6) (p3 : BitVec 4) (p4 : BitVec 6) (p5 : BitVec 3) (p6 : BitVec 1) (p7 : BitVec 1) (p8 : BitVec 1) (p9 : BitVec 3)
    (e : w = p0 ++ p1 ++ p2 ++ p3 ++ p4 ++ p5 ++ p6 ++ p7 ++ p8 ++ p9) : fld w 31 1 = p0 ∧
    fld w 25 6 = p1 ∧
    fld w 19 6 = p2 ∧
    fld w 15 4 = p3 ∧
    fld w 9 6 = p4 ∧
    fld w 6 3 = p5 ∧
    fld w 5 1 = p6 ∧
    fld w 4 1 = p7 ∧
    fld w 3 1 = p8 ∧
    fld w 0 3 = p9 := by
  have t := congrArg BitVec.toNat e
  simp only [append_toNat] at t
  have h0 := p0.isLt; have h1 := p1.isLt; have h2 := p2.isLt; have h3 := p3.isLt; have h4 := p4.isLt; have h5 := p5.isLt; have h6 := p6.isLt; have h7 := p7.isLt; have h8 := p8.isLt; have h9 := p9.isLt
  refine ⟨?_, ?_, ?_, ?_, ?_, ?_, ?_, ?_, ?_, ?_⟩ <;> apply fld_of_toNat <;> omega

theorem lay1_9_6_6_10 {w : BitVec 32} (p0 : BitVec 1) (p1 : BitVec 9) (p2 : BitVec 6) (p3 : BitVec 6) (p4 : BitVec 10)
    (e : w = p0 ++ p1 ++ p2 ++ p3 ++ p4) : fld w 31 1 = p0 ∧
    fld w 25 6 = p1.extractLsb' 3 6 ∧
    fld w 22 3 = p1.extractLsb' 0 3 ∧
    fld w 16 6 = p2 ∧
    fld w 10 6 = p3 ∧
    fld w 0 10 = p4 := by
  have t := congrArg BitVec.toNat e
  simp only [append_toNat] at t
  have h0 := p0.isLt; have h1 := p1.isLt; have h2 := p2.isLt; have h3 := p3.isLt; have h4 := p4.isLt
  refine ⟨?_, ?_, ?_, ?_, ?_, ?_⟩ <;> apply fld_of_toNat <;> (try simp only [BitVec.extractLsb'_toNat, Nat.shiftRight_eq_div_pow]) <;> omega

theorem lay1_21_2_8 {w : BitVec 32} (p0 : BitVec 1) (p1 : BitVec 21) (p2 : BitVec 2) (p3 : BitVec 8)
    (e : w = p0 ++ p1 ++ p2 ++ p3) : fld w 31 1 = p0 ∧
    fld w 25 6 = p1.extractLsb' 15 6 ∧
    fld w 13 12 = p1.extractLsb' 3 12 ∧
    fld w 10 3 = p1.extractLsb' 0 3 ∧
    fld w 8 2 = p2 ∧
    fld w 0 8 = p3 := by
  have t := congrArg BitVec.toNat e
  simp only [append_toNat] at t
  have h0 := p0.isLt; have h1 := p1.isLt; have h2 := p2.isLt; have h3 := p3.isLt
  refine ⟨?_, ?_, ?_, ?_, ?_, ?_⟩ <;> apply fld_of_toNat <;> (try simp only [BitVec.extractLsb'_toNat, Nat.shiftRight_eq_div_pow]) <;> omega

theorem lay1_27_4 {w : BitVec 32} (p0 : BitVec 1) (p1 : BitVec 27) (p2 : BitVec 4)
    (e : w = p0 ++ p1 ++ p2) : fld w 31 1 = p0 ∧
    fld w 25 6 = p1.extractLsb' 21 6 ∧
    fld w 13 12 = p1.extractLsb' 9 12 ∧
    fld w 10 3 = p1.extractLsb' 6 3 ∧
    fld w 4 6 = p1.extractLsb' 0 6 ∧
    fld w 0 4 = p2 := by
  have t := congrArg BitVec.toNat e
  simp only [append_toNat] at t
  have h0 := p0.isLt; have h1 := p1.isLt; have h2 := p2.isLt
  refine ⟨?_, ?_, ?_, ?_, ?_, ?_⟩ <;> apply fld_of_toNat <;> (try simp only [BitVec.extractLsb'_toNat, Nat.shiftRight_eq_div_pow]) <;> omega

theorem lay1_6_6_6_3_6_4 {w : BitVec 32} (p0 : BitVec 1) (p1 : BitVec 6) (p2 : BitVec 6) (p3 : BitVec 6) (p4 : BitVec 3) (p5 : BitVec 6) (p6 : BitVec 4)
    (e : w = p0 ++ p1 ++ p2 ++ p3 ++ p4 ++ p5 ++ p6) : fld w 31 1 = p0 ∧
    fld w 25 6 = p1 ∧
    fld w 19 6 = p2 ∧
    fld w 13 6 = p3 ∧
    fld w 10 3 = p4 ∧
    fld w 4 6 = p5 ∧
    fld w 0 4 = p6 := by
  have t := congrArg BitVec.toNat e
  simp only [append_toNat] at t
  have h0 := p0.isLt; have h1 := p1.isLt; have h2 := p2.isLt; have h3 := p3.isLt; have h4 := p4.isLt; have h5 := p5.isLt; have h6 := p6.isLt
  refine ⟨?_, ?_, ?_, ?_, ?_, ?_, ?_⟩ <;> apply fld_of_toNat <;> omega

theorem lay1_6_6_6_3_10 {w : BitVec 32} (p0 : BitVec 1) (p1 : BitVec 6) (p2 : BitVec 6) (p3 : BitVec 6) (p4 : BitVec 3) (p5 : BitVec 10)
    (e : w = p0 ++ p1 ++ p2 ++ p3 ++ p4 ++ p5) : fld w 31 1 = p0 ∧
    fld w 25 6 = p1 ∧
    fld w 19 6 = p2 ∧
    fld w 13 6 = p3 ∧
    fld w 10 3 = p4 ∧
    fld w 0 10 = p5 := by
  have t := congrArg BitVec.toNat e
  simp only [append_toNat] at t
  have h0 := p0.isLt; have h1 := p1.isLt; have h2 := p2.isLt; have h3 := p3.isLt; have h4 := p4.isLt; have h5 := p5.isLt
  refine ⟨?_, ?_, ?_, ?_, ?_, ?_⟩ <;> apply fld_of_toNat <;> omega

theorem lay1_12_6_13 {w : BitVec 32} (p0 : BitVec 1) (p1 : BitVec 12) (p2 : BitVec 6) (p3 : BitVec 13)
    (e : w = p0 ++ p1 ++ p2 ++ p3) : fld w 31 1 = p0 ∧
    fld w 25 6 = p1.extractLsb' 6 6 ∧
    fld w 19 6 = p1.extractLsb' 0 6 ∧
    fld w 13 6 = p2 ∧
    fld w 10 3 = p3.extractLsb' 10 3 ∧
    fld w 0 10 = p3.extractLsb' 0 10 := by
  have t := congrArg BitVec.toNat e
  simp only [append_toNat] at t
  have h0 := p0.isLt; have h1 := p1.isLt; have h2 := p2.isLt; have h3 := p3.isLt
  refine ⟨?_, ?_, ?_, ?_, ?_, ?_⟩ <;> apply fld_of_toNat <;> (try simp only [BitVec.extractLsb'_toNat, Nat.shiftRight_eq_div_pow]) <;> omega

theorem lay1_6_6_6_6_3_2_2 {w : BitVec 32} (p0 : BitVec 1) (p1 : BitVec 6) (p2 : BitVec 6) (p3 : BitVec 6) (p4 : BitVec 6) (p5 : BitVec 3) (p6 : BitVec 2) (p7 : BitVec 2)
    (e : w = p0 ++ p1 ++ p2 ++ p3 ++ p4 ++ p5 ++ p6 ++ p7) : fld w 31 1 = p0 ∧
    fld w 25 6 = p1 ∧
    fld w 19 6 = p2 ∧
    fld w 13 6 = p3 ∧
    fld w 7 6 = p4 ∧
    fld w 4 3 = p5 ∧
    fld w 2 2 = p6 ∧
    fld w 0 2 = p7 := by
  have t := congrArg BitVec.toNat e
  simp only [append_toNat] at t
  have h0 := p0.isLt; have h1 := p1.isLt; have h2 := p2.isLt; have h3 := p3.isLt; have h4 := p4.isLt; have h5 := p5.isLt; have h6 := p6.isLt; have h7 := p7.isLt
  refine ⟨?_, ?_, ?_, ?_, ?_, ?_, ?_, ?_⟩ <;> apply fld_of_toNat <;> omega

theorem lay1_6_3_3_6_6_3_2_2 {w : BitVec 32} (p0 : BitVec 1) (p1 : BitVec 6) (p2 : BitVec 3) (p3 : BitVec 3) (p4 : BitVec 6) (p5 : BitVec 6) (p6 : BitVec 3) (p7 : BitVec 2) (p8 : BitVec 2)
    (e : w = p0 ++ p1 ++ p2 ++ p3 ++ p4 ++ p5 ++ p6 ++ p7 ++ p8) : fld w 31 1 = p0 ∧
    fld w 25 6 = p1 ∧
    fld w 22 3 = p2 ∧
    fld w 19 3 = p3 ∧
    fld w 13 6 = p4 ∧
    fld w 7 6 = p5 ∧
    fld w 4 3 = p6 ∧
    fld w 2 2 = p7 ∧
    fld w 0 2 = p8 := by
  have t := congrArg BitVec.toNat e
  simp only [append_toNat] at t
  have h0 := p0.isLt; have h1 := p1.isLt; have h2 := p2.isLt; have h3 := p3.isLt; have h4 := p4.isLt; have h5 := p5.isLt; have h6 := p6.isLt; have h7 := p7.isLt; have h8 := p8.isLt
  refine ⟨?_, ?_, ?_, ?_, ?_, ?_, ?_, ?_, ?_⟩ <;> apply fld_of_toNat <;> omega

theorem lay1_6_6_6_9_2_2 {w : BitVec 32} (p0 : BitVec 1) (p1 : BitVec 6) (p2 : BitVec 6) (p3 : BitVec 6) (p4 : BitVec 9) (p5 : BitVec 2) (p6 : BitVec 2)
    (e : w = p0 ++ p1 ++ p2 ++ p3 ++ p4 ++ p5 ++ p6) : fld w 31 1 = p0 ∧
    fld w 25 6 = p1 ∧
    fld w 19 6 = p2 ∧
    fld w 13 6 = p3 ∧
    fld w 7 6 = p4.extractLsb' 3 6 ∧
    fld w 4 9 = p4 ∧
    fld w 4 3 = p4.extractLsb' 0 3 ∧
    fld w 2 2 = p5 ∧
    fld w 0 2 = p6 := by
  have t := congrArg BitVec.toNat e
  simp only [append_toNat] at t
  have h0 := p0.isLt; have h1 := p1.isLt; have h2 := p2.isLt; have h3 := p3.isLt; have h4 := p4.isLt; have h5 := p5.isLt; have h6 := p6.isLt
  refine ⟨?_, ?_, ?_, ?_, ?_, ?_, ?_, ?_, ?_⟩ <;> apply fld_of_toNat <;> (try simp only [BitVec.extractLsb'_toNat, Nat.shiftRight_eq_div_pow]) <;> omega

theorem lay1_6_6_15_2_2 {w : BitVec 32} (p0 : BitVec 1) (p1 : BitVec 6) (p2 : BitVec 6) (p3 : BitVec 15) (p4 : BitVec 2) (p5 : BitVec 2)
    (e : w = p0 ++ p1 ++ p2 ++ p3 ++ p4 ++ p5) : fld w 31 1 = p0 ∧
    fld w 25 6 = p1 ∧
    fld w 19 6 = p2 ∧
    fld w 13 6 = p3.extractLsb' 9 6 ∧
    fld w 7 6 = p3.extractLsb' 3 6 ∧
    fld w 4 3 = p3.extractLsb' 0 3 ∧
    fld w 2 2 = p4 ∧
    fld w 0 2 = p5 := by
  have t := congrArg BitVec.toNat e
  simp only [append_toNat] at t
  have h0 := p0.isLt; have h1 := p1.isLt; have h2 := p2.isLt; have h3 := p3.isLt; have h4 := p4.isLt; have h5 := p5.isLt
  refine ⟨?_, ?_, ?_, ?_, ?_, ?_, ?_, ?_⟩ <;> apply fld_of_toNat <;> (try simp only [BitVec.extractLsb'_toNat, Nat.shiftRight_eq_div_pow]) <;> omega

theorem lay1_9_3_3_3_3_3_7 {w : BitVec 32} (p0 : BitVec 1) (p1 : BitVec 9) (p2 : BitVec 3) (p3 : BitVec 3) (p4 : BitVec 3) (p5 : BitVec 3) (p6 : BitVec 3) (p7 : BitVec 7)
    (e : w = p0 ++ p1 ++ p2 ++ p3 ++ p4 ++ p5 ++ p6 ++ p7) : fld w 31 1 = p0 ∧
    fld w 25 6 = p1.extractLsb' 3 6 ∧
    fld w 22 3 = p1.extractLsb' 0 3 ∧
    fld w 19 3 = p2 ∧
    fld w 16 3 = p3 ∧
    fld w 13 3 = p4 ∧
    fld w 10 3 = p5 ∧
    fld w 7 3 = p6 ∧
    fld w 4 3 = p7.extractLsb' 4 3 ∧
    fld w 0 4 = p7.extractLsb' 0 4 := by
  have t := congrArg BitVec.toNat e
  simp only [append_toNat] at t
  have h0 := p0.isLt; have h1 := p1.isLt; have h2 := p2.isLt; have h3 := p3.isLt; have h4 := p4.isLt; have h5 := p5.isLt; have h6 := p6.isLt; have h7 := p7.isLt
  refine ⟨?_, ?_, ?_, ?_, ?_, ?_, ?_, ?_, ?_, ?_⟩ <;> apply fld_of_toNat <;> (try simp only [BitVec.extractLsb'_toNat, Nat.shiftRight_eq_div_pow]) <;> omega

theorem lay1_9_3_3_3_13 {w : BitVec 32} (p0 : BitVec 1) (p1 : BitVec 9) (p2 : BitVec 3) (p3 : BitVec 3) (p4 : BitVec 3) (p5 : BitVec 13)
    (e : w = p0 ++ p1 ++ p2 ++ p3 ++ p4 ++ p5) : fld w 31 1 = p0 ∧
    fld w 25 6 = p1.extractLsb' 3 6 ∧
    fld w 22 3 = p1.extractLsb' 0 3 ∧
    fld w 19 3 = p2 ∧
    fld w 16 3 = p3 ∧
    fld w 13 3 = p4 ∧
    fld w 7 6 = p5.extractLsb' 7 6 ∧
    fld w 4 3 = p5.extractLsb' 4 3 ∧
    fld w 0 4 = p5.extractLsb' 0 4 := by
  have t := congrArg BitVec.toNat e
  simp only [append_toNat] at t
  have h0 := p0.isLt; have h1 := p1.isLt; have h2 := p2.isLt; have h3 := p3.isLt; have h4 := p4.isLt; have h5 := p5.isLt
  refine ⟨?_, ?_, ?_, ?_, ?_, ?_, ?_, ?_, ?_⟩ <;> apply fld_of_toNat <;> (try simp only [BitVec.extractLsb'_toNat, Nat.shiftRight_eq_div_pow]) <;> omega

theorem lay1_6_6_3_3_3_3_7 {w : BitVec 32} (p0 : BitVec 1) (p1 : BitVec 6) (p2 : BitVec 6) (p3 : BitVec 3) (p4 : BitVec 3)
    (p5 : BitVec 3) (p6 : BitVec 3) (p7 : BitVec 7)
    (e : w = p0 ++ p1 ++ p2 ++ p3 ++ p4 ++ p5 ++ p6 ++ p7) : fld w 31 1 = p0 ∧
    fld w 25 6 = p1 ∧
    fld w 19 6 = p2 ∧
    fld w 16 3 = p3 ∧
    fld w 13 3 = p4 ∧
    fld w 10 3 = p5 ∧
    fld w 7 3 = p6 ∧
    fld w 4 3 = p7.extractLsb' 4 3 ∧
    fld w 0 4 = p7.extractLsb' 0 4 := by
  have t := congrArg BitVec.toNat e
  simp only [append_toNat] at t
  have h0 := p0.isLt; have h1 := p1.isLt; have h2 := p2.isLt; have h3 := p3.isLt; have h4 := p4.isLt; have h5 := p5.isLt
  have h6 := p6.isLt; have h7 := p7.isLt
  refine ⟨?_, ?_, ?_, ?_, ?_, ?_, ?_, ?_, ?_⟩ <;> apply fld_of_toNat <;> (try simp only [BitVec.extractLsb'_toNat, Nat.shiftRight_eq_div_pow]) <;> omega

theorem lay1_6_6_2_6_2_6_3 {w : BitVec 32} (p0 : BitVec 1) (p1 : BitVec 6) (p2 : BitVec 6) (p3 : BitVec 2) (p4 : BitVec 6) (p5 : BitVec 2) (p6 : BitVec 6) (p7 : BitVec 3)
    (e : w = p0 ++ p1 ++ p2 ++ p3 ++ p4 ++ p5 ++ p6 ++ p7) : fld w 31 1 = p0 ∧
    fld w 25 6 = p1 ∧
    fld w 19 6 = p2 ∧
    fld w 17 2 = p3 ∧
    fld w 11 6 = p4 ∧
    fld w 9 2 = p5 ∧
    fld w 3 6 = p6 ∧
    fld w 0 3 = p7 := by
  have t := congrArg BitVec.toNat e
  simp only [append_toNat] at t
  have h0 := p0.isLt; have h1 := p1.isLt; have h2 := p2.isLt; have h3 := p3.isLt; have h4 := p4.isLt; have h5 := p5.isLt; have h6 := p6.isLt; have h7 := p7.isLt
  refine ⟨?_, ?_, ?_, ?_, ?_, ?_, ?_, ?_⟩ <;> apply fld_of_toNat <;> omega

theorem lay1_6_3_3_2_6_2_6_3 {w : BitVec 32} (p0 : BitVec 1) (p1 : BitVec 6) (p2 : BitVec 3) (p3 : BitVec 3) (p4 : BitVec 2) (p5 : BitVec 6) (p6 : BitVec 2) (p7 : BitVec 6) (p8 : BitVec 3)
    (e : w = p0 ++ p1 ++ p2 ++ p3 ++ p4 ++ p5 ++ p6 ++ p7 ++ p8) : fld w 31 1 = p0 ∧
    fld w 25 6 = p1 ∧
    fld w 22 3 = p2 ∧
    fld w 19 3 = p3 ∧
    fld w 17 2 = p4 ∧
    fld w 11 6 = p5 ∧
    fld w 9 2 = p6 ∧
    fld w 3 6 = p7 ∧
    fld w 0 3 = p8 := by
  have t := congrArg BitVec.toNat e
  simp only [append_toNat] at t
  have h0 := p0.isLt; have h1 := p1.isLt; have h2 := p2.isLt; have h3 := p3.isLt; have h4 := p4.isLt; have h5 := p5.isLt; have h6 := p6.isLt; have h7 := p7.isLt; have h8 := p8.isLt
  refine ⟨?_, ?_, ?_, ?_, ?_, ?_, ?_, ?_, ?_⟩ <;> apply fld_of_toNat <;> omega

theorem lay1_6_6_6_6_3_4 {w : BitVec 32} (p0 : BitVec 1) (p1 : BitVec 6) (p2 : BitVec 6) (p3 : BitVec 6) (p4 : BitVec 6) (p5 : BitVec 3) (p6 : BitVec 4)
    (e : w = p0 ++ p1 ++ p2 ++ p3 ++ p4 ++ p5 ++ p6) : fld w 31 1 = p0 ∧
    fld w 25 6 = p1 ∧
    fld w 19 6 = p2 ∧
    fld w 13 6 = p3 ∧
    fld w 7 6 = p4 ∧
    fld w 4 3 = p5 ∧
    fld w 0 4 = p6 := by
  have t := congrArg BitVec.toNat e
  simp only [append_toNat] at t
  have h0 := p0.isLt; have h1 := p1.isLt; have h2 := p2.isLt; have h3 := p3.isLt; have h4 := p4.isLt; have h5 := p5.isLt; have h6 := p6.isLt
  refine ⟨?_, ?_, ?_, ?_, ?_, ?_, ?_⟩ <;> apply fld_of_toNat <;> omega

theorem lay1_6_6_6_3_3_3_2_2 {w : BitVec 32} (p0 : BitVec 1) (p1 : BitVec 6) (p2 : BitVec 6) (p3 : BitVec 6) (p4 : BitVec 3) (p5 : BitVec 3) (p6 : BitVec 3) (p7 : BitVec 2) (p8 : BitVec 2)
    (e : w = p0 ++ p1 ++ p2 ++ p3 ++ p4 ++ p5 ++ p6 ++ p7 ++ p8) : fld w 31 1 = p0 ∧
    fld w 25 6 = p1 ∧
    fld w 19 6 = p2 ∧
    fld w 13 6 = p3 ∧
    fld w 10 3 = p4 ∧
    fld w 7 3 = p5 ∧
    fld w 4 3 = p6 ∧
    fld w 2 2 = p7 ∧
    fld w 0 2 = p8 := by
  have t := congrArg BitVec.toNat e
  simp only [append_toNat] at t
  have h0 := p0.isLt; have h1 := p1.isLt; have h2 := p2.isLt; have h3 := p3.isLt; have h4 := p4.isLt; have h5 := p5.isLt; have h6 := p6.isLt; have h7 := p7.isLt; have h8 := p8.isLt
  refine ⟨?_, ?_, ?_, ?_, ?_, ?_, ?_, ?_, ?_⟩ <;> apply fld_of_toNat <;> omega

theorem lay1_6_6_4_6_6_3 {w : BitVec 32} (p0 : BitVec 1) (p1 : BitVec 6) (p2 : BitVec 6) (p3 : BitVec 4) (p4 : BitVec 6) (p5 : BitVec 6) (p6 : BitVec 3)
    (e : w = p0 ++ p1 ++ p2 ++ p3 ++ p4 ++ p5 ++ p6) : fld w 31 1 = p0 ∧
    fld w 25 6 = p1 ∧
    fld w 19 6 = p2 ∧
    fld w 15 4 = p3 ∧
    fld w 9 6 = p4 ∧
    fld w 3 6 = p5 ∧
    fld w 0 3 = p6 := by
  have t := congrArg BitVec.toNat e
  simp only [append_toNat] at t
  have h0 := p0.isLt; have h1 := p1.isLt; have h2 := p2.isLt; have h3 := p3.isLt; have h4 := p4.isLt; have h5 := p5.isLt; have h6 := p6.isLt
  refine ⟨?_, ?_, ?_, ?_, ?_, ?_, ?_⟩ <;> apply fld_of_toNat <;> omega

theorem lay1_6_6_4_6_4_1_1_3 {w : BitVec 32} (p0 : BitVec 1) (p1 : BitVec 6) (p2 : BitVec 6) (p3 : BitVec 4) (p4 : BitVec 6) (p5 : BitVec 4) (p6 : BitVec 1) (p7 : BitVec 1) (p8 : BitVec 3)
    (e : w = p0 ++ p1 ++ p2 ++ p3 ++ p4 ++ p5 ++ p6 ++ p7 ++ p8) : fld w 31 1 = p0 ∧
    fld w 25 6 = p1 ∧
    fld w 19 6 = p2 ∧
    fld w 15 4 = p3 ∧
    fld w 9 6 = p4 ∧
    fld w 6 3 = p5.extractLsb' 1 3 ∧
    fld w 5 1 = p5.extractLsb' 0 1 ∧
    fld w 4 1 = p6 ∧
    fld w 3 1 = p7 ∧
    fld w 0 3 = p8 := by
  have t := congrArg BitVec.toNat e
  simp only [append_toNat] at t
  have h0 := p0.isLt; have h1 := p1.isLt; have h2 := p2.isLt; have h3 := p3.isLt; have h4 := p4.isLt; have h5 := p5.isLt; have h6 := p6.isLt; have h7 := p7.isLt; have h8 := p8.isLt
  refine ⟨?_, ?_, ?_, ?_, ?_, ?_, ?_, ?_, ?_, ?_⟩ <;> apply fld_of_toNat <;> (try simp only [BitVec.extractLsb'_toNat, Nat.shiftRight_eq_div_pow]) <;> omega

theorem lay1_6_6_4_6_3_3_3 {w : BitVec 32} (p0 : BitVec 1) (p1 : BitVec 6) (p2 : BitVec 6) (p3 : BitVec 4) (p4 : BitVec 6) (p5 : BitVec 3) (p6 : BitVec 3) (p7 : BitVec 3)
    (e : w = p0 ++ p1 ++ p2 ++ p3 ++ p4 ++ p5 ++ p6 ++ p7) : fld w 31 1 = p0 ∧
    fld w 25 6 = p1 ∧
    fld w 19 6 = p2 ∧
    fld w 15 4 = p3 ∧
    fld w 9 6 = p4 ∧
    fld w 6 3 = p5 ∧
    fld w 3 3 = p6 ∧
    fld w 0 3 = p7 := by
  have t := congrArg BitVec.toNat e
  simp only [append_toNat] at t
  have h0 := p0.isLt; have h1 := p1.isLt; have h2 := p2.isLt; have h3 := p3.isLt; have h4 := p4.isLt; have h5 := p5.isLt; have h6 := p6.isLt; have h7 := p7.isLt
  refine ⟨?_, ?_, ?_, ?_, ?_, ?_, ?_, ?_⟩ <;> apply fld_of_toNat <;> omega

theorem lay1_6_6_6_2_4_7 {w : BitVec 32} (p0 : BitVec 1) (p1 : BitVec 6) (p2 : BitVec 6) (p3 : BitVec 6) (p4 : BitVec 2) (p5 : BitVec 4) (p6 : BitVec 7)
    (e : w = p0 ++ p1 ++ p2 ++ p3 ++ p4 ++ p5 ++ p6) : fld w 31 1 = p0 ∧
    fld w 25 6 = p1 ∧
    fld w 19 6 = p2 ∧
    fld w 13 6 = p3 ∧
    fld w 11 2 = p4 ∧
    fld w 7 4 = p5 ∧
    fld w 5 2 = p6.extractLsb' 5 2 ∧
    fld w 0 5 = p6.extractLsb' 0 5 := by
  have t := congrArg BitVec.toNat e
  simp only [append_toNat] at t
  have h0 := p0.isLt; have h1 := p1.isLt; have h2 := p2.isLt; have h3 := p3.isLt; have h4 := p4.isLt; have h5 := p5.isLt; have h6 := p6.isLt
  refine ⟨?_, ?_, ?_, ?_, ?_, ?_, ?_, ?_⟩ <;> apply fld_of_toNat <;> (try simp only [BitVec.extractLsb'_toNat, Nat.shiftRight_eq_div_pow]) <;> omega

theorem lay1_12_6_2_4_7 {w : BitVec 32} (p0 : BitVec 1) (p1 : BitVec 12) (p2 : BitVec 6) (p3 : BitVec 2) (p4 : BitVec 4) (p5 : BitVec 7)
    (e : w = p0 ++ p1 ++ p2 ++ p3 ++ p4 ++ p5) : fld w 31 1 = p0 ∧
    fld w 25 6 = p1.extractLsb' 6 6 ∧
    fld w 19 6 = p1.extractLsb' 0 6 ∧
    fld w 13 6 = p2 ∧
    fld w 11 2 = p3 ∧
    fld w 7 4 = p4 ∧
    fld w 5 2 = p5.extractLsb' 5 2 ∧
    fld w 0 5 = p5.extractLsb' 0 5 := by
  have t := congrArg BitVec.toNat e
  simp only [append_toNat] at t
  have h0 := p0.isLt; have h1 := p1.isLt; have h2 := p2.isLt; have h3 := p3.isLt; have h4 := p4.isLt; have h5 := p5.isLt
  refine ⟨?_, ?_, ?_, ?_, ?_, ?_, ?_, ?_⟩ <;> apply fld_of_toNat <;> (try simp only [BitVec.extractLsb'_toNat, Nat.shiftRight_eq_div_pow]) <;> omega

theorem lay1_6_6_8_4_7 {w : BitVec 32} (p0 : BitVec 1) (p1 : BitVec 6) (p2 : BitVec 6) (p3 : BitVec 8) (p4 : BitVec 4) (p5 : BitVec 7)
    (e : w = p0 ++ p1 ++ p2 ++ p3 ++ p4 ++ p5) : fld w 31 1 = p0 ∧
    fld w 25 6 = p1 ∧
    fld w 19 6 = p2 ∧
    fld w 11 8 = p3 ∧
    fld w 7 4 = p4 ∧
    fld w 5 2 = p5.extractLsb' 5 2 ∧
    fld w 0 5 = p5.extractLsb' 0 5 := by
  have t := congrArg BitVec.toNat e
  simp only [append_toNat] at t
  have h0 := p0.isLt; have h1 := p1.isLt; have h2 := p2.isLt; have h3 := p3.isLt; have h4 := p4.isLt; have h5 := p5.isLt
  refine ⟨?_, ?_, ?_, ?_, ?_, ?_, ?_⟩ <;> apply fld_of_toNat <;> (try simp only [BitVec.extractLsb'_toNat, Nat.shiftRight_eq_div_pow]) <;> omega

theorem lay1_20_4_7 {w : BitVec 32} (p0 : BitVec 1) (p1 : BitVec 20) (p2 : BitVec 4) (p3 : BitVec 7)
    (e : w = p0 ++ p1 ++ p2 ++ p3) : fld w 31 1 = p0 ∧
    fld w 25 6 = p1.extractLsb' 14 6 ∧
    fld w 11 14 = p1.extractLsb' 0 14 ∧
    fld w 7 4 = p2 ∧
    fld w 5 2 = p3.extractLsb' 5 2 ∧
    fld w 0 5 = p3.extractLsb' 0 5 := by
  have t := congrArg BitVec.toNat e
  simp only [append_toNat] at t
  have h0 := p0.isLt; have h1 := p1.isLt; have h2 := p2.isLt; have h3 := p3.isLt
  refine ⟨?_, ?_, ?_, ?_, ?_, ?_⟩ <;> apply fld_of_toNat <;> (try simp only [BitVec.extractLsb'_toNat, Nat.shiftRight_eq_div_pow]) <;> omega

theorem lay1_12_6_6_7 {w : BitVec 32} (p0 : BitVec 1) (p1 : BitVec 12) (p2 : BitVec 6) (p3 : BitVec 6) (p4 : BitVec 7)
    (e : w = p0 ++ p1 ++ p2 ++ p3 ++ p4) : fld w 31 1 = p0 ∧
    fld w 25 6 = p1.extractLsb' 6 6 ∧
    fld w 19 6 = p1.extractLsb' 0 6 ∧
    fld w 13 6 = p2 ∧
    fld w 7 6 = p3 ∧
    fld w 5 2 = p4.extractLsb' 5 2 ∧
    fld w 0 5 = p4.extractLsb' 0 5 := by
  have t := congrArg BitVec.toNat e
  simp only [append_toNat] at t
  have h0 := p0.isLt; have h1 := p1.isLt; have h2 := p2.isLt; have h3 := p3.isLt; have h4 := p4.isLt
  refine ⟨?_, ?_, ?_, ?_, ?_, ?_, ?_⟩ <;> apply fld_of_toNat <;> (try simp only [BitVec.extractLsb'_toNat, Nat.shiftRight_eq_div_pow]) <;> omega

theorem lay1_6_6_2_4_2_4_7 {w : BitVec 32} (p0 : BitVec 1) (p1 : BitVec 6) (p2 : BitVec 6) (p3 : BitVec 2) (p4 : BitVec 4) (p5 : BitVec 2) (p6 : BitVec 4) (p7 : BitVec 7)
    (e : w = p0 ++ p1 ++ p2 ++ p3 ++ p4 ++ p5 ++ p6 ++ p7) : fld w 31 1 = p0 ∧
    fld w 25 6 = p1 ∧
    fld w 19 6 = p2 ∧
    fld w 17 2 = p3 ∧
    fld w 13 4 = p4 ∧
    fld w 11 2 = p5 ∧
    fld w 7 4 = p6 ∧
    fld w 5 2 = p7.extractLsb' 5 2 ∧
    fld w 0 5 = p7.extractLsb' 0 5 := by
  have t := congrArg BitVec.toNat e
  simp only [append_toNat] at t
  have h0 := p0.isLt; have h1 := p1.isLt; have h2 := p2.isLt; have h3 := p3.isLt; have h4 := p4.isLt; have h5 := p5.isLt; have h6 := p6.isLt; have h7 := p7.isLt
  refine ⟨?_, ?_, ?_, ?_, ?_, ?_, ?_, ?_, ?_⟩ <;> apply fld_of_toNat <;> (try simp only [BitVec.extractLsb'_toNat, Nat.shiftRight_eq_div_pow]) <;> omega

theorem lay1_8_4_6_6_7 {w : BitVec 32} (p0 : BitVec 1) (p1 : BitVec 8) (p2 : BitVec 4) (p3 : BitVec 6) (p4 : BitVec 6) (p5 : BitVec 7)
    (e : w = p0 ++ p1 ++ p2 ++ p3 ++ p4 ++ p5) : fld w 31 1 = p0 ∧
    fld w 25 6 = p1.extractLsb' 2 6 ∧
    fld w 23 2 = p1.extractLsb' 0 2 ∧
    fld w 19 4 = p2 ∧
    fld w 13 6 = p3 ∧
    fld w 7 6 = p4 ∧
    fld w 5 2 = p5.extractLsb' 5 2 ∧
    fld w 0 5 = p5.extractLsb' 0 5 := by
  have t := congrArg BitVec.toNat e
  simp only [append_toNat] at t
  have h0 := p0.isLt; have h1 := p1.isLt; have h2 := p2.isLt; have h3 := p3.isLt; have h4 := p4.isLt; have h5 := p5.isLt
  refine ⟨?_, ?_, ?_, ?_, ?_, ?_, ?_, ?_⟩ <;> apply fld_of_toNat <;> (try simp only [BitVec.extractLsb'_toNat, Nat.shiftRight_eq_div_pow]) <;> omega

theorem lay1_6_4_4_6_6_2_3 {w : BitVec 32} (p0 : BitVec 1) (p1 : BitVec 6) (p2 : BitVec 4) (p3 : BitVec 4) (p4 : BitVec 6) (p5 : BitVec 6) (p6 : BitVec 2) (p7 : BitVec 3)
    (e : w = p0 ++ p1 ++ p2 ++ p3 ++ p4 ++ p5 ++ p6 ++ p7) : fld w 31 1 = p0 ∧
    fld w 25 6 = p1 ∧
    fld w 21 4 = p2 ∧
    fld w 17 4 = p3 ∧
    fld w 11 6 = p4 ∧
    fld w 5 6 = p5 ∧
    fld w 3 2 = p6 ∧
    fld w 0 3 = p7 := by
  have t := congrArg BitVec.toNat e
  simp only [append_toNat] at t
  have h0 := p0.isLt; have h1 := p1.isLt; have h2 := p2.isLt; have h3 := p3.isLt; have h4 := p4.isLt; have h5 := p5.isLt; have h6 := p6.isLt; have h7 := p7.isLt
  refine ⟨?_, ?_, ?_, ?_, ?_, ?_, ?_, ?_⟩ <;> apply fld_of_toNat <;> omega

theorem lay1_6_4_4_6_6_5 {w : BitVec 32} (p0 : BitVec 1) (p1 : BitVec 6) (p2 : BitVec 4) (p3 : BitVec 4) (p4 : BitVec 6) (p5 : BitVec 6) (p6 : BitVec 5)
    (e : w = p0 ++ p1 ++ p2 ++ p3 ++ p4 ++ p5 ++ p6) : fld w 31 1 = p0 ∧
    fld w 25 6 = p1 ∧
    fld w 21 4 = p2 ∧
    fld w 17 4 = p3 ∧
    fld w 11 6 = p4 ∧
    fld w 5 6 = p5 ∧
    fld w 3 2 = p6.extractLsb' 3 2 ∧
    fld w 0 3 = p6.extractLsb' 0 3 := by
  have t := congrArg BitVec.toNat e
  simp only [append_toNat] at t
  have h0 := p0.isLt; have h1 := p1.isLt; have h2 := p2.isLt; have h3 := p3.isLt; have h4 := p4.isLt; have h5 := p5.isLt; have h6 := p6.isLt
  refine ⟨?_, ?_, ?_, ?_, ?_, ?_, ?_, ?_⟩ <;> apply fld_of_toNat <;> (try simp only [BitVec.extractLsb'_toNat, Nat.shiftRight_eq_div_pow]) <;> omega

theorem lay1_10_4_6_6_2_3 {w : BitVec 32} (p0 : BitVec 1) (p1 : BitVec 10) (p2 : BitVec 4) (p3 : BitVec 6) (p4 : BitVec 6) (p5 : BitVec 2) (p6 : BitVec 3)
    (e : w = p0 ++ p1 ++ p2 ++ p3 ++ p4 ++ p5 ++ p6) : fld w 31 1 = p0 ∧
    fld w 25 6 = p1.extractLsb' 4 6 ∧
    fld w 21 4 = p1.extractLsb' 0 4 ∧
    fld w 17 4 = p2 ∧
    fld w 11 6 = p3 ∧
    fld w 5 6 = p4 ∧
    fld w 3 2 = p5 ∧
    fld w 0 3 = p6 := by
  have t := congrArg BitVec.toNat e
  simp only [append_toNat] at t
  have h0 := p0.isLt; have h1 := p1.isLt; have h2 := p2.isLt; have h3 := p3.isLt; have h4 := p4.isLt; have h5 := p5.isLt; have h6 := p6.isLt
  refine ⟨?_, ?_, ?_, ?_, ?_, ?_, ?_, ?_⟩ <;> apply fld_of_toNat <;> (try simp only [BitVec.extractLsb'_toNat, Nat.shiftRight_eq_div_pow]) <;> omega

theorem ecall (c : _) : Statement (.ecall c) := by
  intro _
  obtain ⟨f31_1, f25_6, f13_12, -, f8_5, -, f0_8⟩ := lay1_31 (w := encode (.ecall c)) (BitVec.ofBool c) 256#31 rfl
  rw [decodeBytes_wordBytes]
  unfold decode
  rw [f25_6]
  change decSys _ = _
  unfold decSys
  rw [f8_5]
  change pick (true) (fld _ 0 8 == 0 && fld _ 13 12 == 0) (.ecall (cv _)) = _
  simp only [cv_of_fld f31_1, f0_8, f13_12]
  rfl

theorem ebreak (c : _) : Statement (.ebreak c) := by
  intro _
  obtain ⟨f31_1, f25_6, f13_12, -, f8_5, -, f0_8⟩ := lay1_31 (w := encode (.ebreak c)) (BitVec.ofBool c) 512#31 rfl
  rw [decodeBytes_wordBytes]
  unfold decode
  rw [f25_6]
  change decSys _ = _
  unfold decSys
  rw [f8_5]
  change pick (true) (fld _ 0 8 == 0 && fld _ 13 12 == 0) (.ebreak (cv _)) = _
  simp only [cv_of_fld f31_1, f0_8, f13_12]
  rfl

theorem uret (c : _) : Statement (.uret c) := by
  intro _
  obtain ⟨f31_1, f25_6, f13_12, -, f8_5, -, f0_8⟩ := lay1_31 (w := encode (.uret c)) (BitVec.ofBool c) 768#31 rfl
  rw [decodeBytes_wordBytes]
  unfold decode
  rw [f25_6]
  change decSys _ = _
  unfold decSys
  rw [f8_5]
  change pick (true) (fld _ 0 8 == 0 && fld _ 13 12 == 0) (.uret (cv _)) = _
  simp only [cv_of_fld f31_1, f0_8, f13_12]
  rfl

theorem sret (c : _) : Statement (.sret c) := by
  intro _
  obtain ⟨f31_1, f25_6, f13_12, -, f8_5, -, f0_8⟩ := lay1_31 (w := encode (.sret c)) (BitVec.ofBool c) 1024#31 rfl
  rw [decodeBytes_wordBytes]
  unfold decode
  rw [f25_6]
  change decSys _ = _
  unfold decSys
  rw [f8_5]
  change pick (true) (fld _ 0 8 == 0 && fld _ 13 12 == 0) (.sret (cv _)) = _
  simp only [cv_of_fld f31_1, f0_8, f13_12]
  rfl

theorem fenceSv (c s : _) : Statement (.fenceSv c s) := by
  intro ok
  have ok : (scopeOk s) = true := ok
  obtain ⟨f31_1, f25_6, f13_12, f8_5, f3_5, f0_3⟩ := lay1_28_3 (w := encode (.fenceSv c s)) (BitVec.ofBool c) 160#28 s rfl
  rw [decodeBytes_wordBytes]
  unfold decode
  rw [f25_6]
  change decSys _ = _
  unfold decSys
  rw [f8_5]
  change pick (scopeOk (fld _ 0 3)) (fld _ 3 5 == 0 && fld _ 13 12 == 0) (.fenceSv (cv _) (fld _ 0 3)) = _
  simp only [cv_of_fld f31_1, f0_3, f13_12, f3_5, ok]
  rfl

theorem fenceVs (c s : _) : Statement (.fenceVs c s) := by
  intro ok
  have ok : (scopeOk s) = true := ok
  obtain ⟨f31_1, f25_6, f13_12, f8_5, f3_5, f0_3⟩ := lay1_28_3 (w := encode (.fenceVs c s)) (BitVec.ofBool c) 192#28 s rfl
  rw [decodeBytes_wordBytes]
  unfold decode
  rw [f25_6]
  change decSys _ = _
  unfold decSys
  rw [f8_5]
  change pick (scopeOk (fld _ 0 3)) (fld _ 3 5 == 0 && fld _ 13 12 == 0) (.fenceVs (cv _) (fld _ 0 3)) = _
  simp only [cv_of_fld f31_1, f0_3, f13_12, f3_5, ok]
  rfl

theorem fenceVv (c s : _) : Statement (.fenceVv c s) := by
  intro ok
  have ok : (scopeOk s) = true := ok
  obtain ⟨f31_1, f25_6, f13_12, f8_5, f3_5, f0_3⟩ := lay1_28_3 (w := encode (.fenceVv c s)) (BitVec.ofBool c) 224#28 s rfl
  rw [decodeBytes_wordBytes]
  unfold decode
  rw [f25_6]
  change decSys _ = _
  unfold decSys
  rw [f8_5]
  change pick (scopeOk (fld _ 0 3)) (fld _ 3 5 == 0 && fld _ 13 12 == 0) (.fenceVv (cv _) (fld _ 0 3)) = _
  simp only [cv_of_fld f31_1, f0_3, f13_12, f3_5, ok]
  rfl

theorem fenceAll (c s : _) : Statement (.fenceAll c s) := by
  intro ok
  have ok : (scopeOk s) = true := ok
  obtain ⟨f31_1, f25_6, f13_12, f8_5, f3_5, f0_3⟩ := lay1_28_3 (w := encode (.fenceAll c s)) (BitVec.ofBool c) 256#28 s rfl
  rw [decodeBytes_wordBytes]
  unfold decode
  rw [f25_6]
  change decSys _ = _
  unfold decSys
  rw [f8_5]
  change pick (scopeOk (fld _ 0 3)) (fld _ 3 5 == 0 && fld _ 13 12 == 0) (.fenceAll (cv _) (fld _ 0 3)) = _
  simp only [cv_of_fld f31_1, f0_3, f13_12, f3_5, ok]
  rfl

theorem rdsr (c d r : _) : Statement (.rdsr c d r) := by
  intro ok
  have ok : (srReadable r) = true := ok
  obtain ⟨f31_1, f25_6, f19_6, f13_6, -, f8_5, -, f0_8⟩ := lay1_6_6_11_8 (w := encode (.rdsr c d r)) (BitVec.ofBool c) 0#6 d 9#11 r rfl
  rw [decodeBytes_wordBytes]
  unfold decode
  rw [f25_6]
  change decSys _ = _
  unfold decSys
  rw [f8_5]
  change pick (srReadable (fld _ 0 8)) (fld _ 13 6 == 0) (.rdsr (cv _) (fld _ 19 6) (fld _ 0 8)) = _
  simp only [cv_of_fld f31_1, f0_8, f13_6, f19_6, ok]
  rfl

theorem wrsr (c a r : _) : Statement (.wrsr c a r) := by
  intro ok
  have ok : (srWritable r) = true := ok
  obtain ⟨f31_1, f25_6, f19_6, f13_6, f8_5, f0_8⟩ := lay1_12_6_5_8 (w := encode (.wrsr c a r)) (BitVec.ofBool c) 0#12 a 10#5 r rfl
  rw [decodeBytes_wordBytes]
  unfold decode
  rw [f25_6]
  change decSys _ = _
  unfold decSys
  rw [f8_5]
  change pick (srWritable (fld _ 0 8)) (fld _ 19 6 == 0) (.wrsr (cv _) (fld _ 13 6) (fld _ 0 8)) = _
  simp only [cv_of_fld f31_1, f0_8, f13_6, f19_6, ok]
  rfl

theorem setsr (c d a r : _) : Statement (.setsr c d a r) := by
  intro ok
  have ok : (srWritable r) = true := ok
  obtain ⟨f31_1, f25_6, f19_6, f13_6, f8_5, f0_8⟩ := lay1_6_6_6_5_8 (w := encode (.setsr c d a r)) (BitVec.ofBool c) 0#6 d a 11#5 r rfl
  rw [decodeBytes_wordBytes]
  unfold decode
  rw [f25_6]
  change decSys _ = _
  unfold decSys
  rw [f8_5]
  change pick (srWritable (fld _ 0 8)) (true) (.setsr (cv _) (fld _ 19 6) (fld _ 13 6) (fld _ 0 8)) = _
  simp only [cv_of_fld f31_1, f0_8, f13_6, f19_6, ok]
  rfl

theorem clrsr (c d a r : _) : Statement (.clrsr c d a r) := by
  intro ok
  have ok : (srWritable r) = true := ok
  obtain ⟨f31_1, f25_6, f19_6, f13_6, f8_5, f0_8⟩ := lay1_6_6_6_5_8 (w := encode (.clrsr c d a r)) (BitVec.ofBool c) 0#6 d a 12#5 r rfl
  rw [decodeBytes_wordBytes]
  unfold decode
  rw [f25_6]
  change decSys _ = _
  unfold decSys
  rw [f8_5]
  change pick (srWritable (fld _ 0 8)) (true) (.clrsr (cv _) (fld _ 19 6) (fld _ 13 6) (fld _ 0 8)) = _
  simp only [cv_of_fld f31_1, f0_8, f13_6, f19_6, ok]
  rfl

theorem tlbinv (c d a k : _) : Statement (.tlbinv c d a k) := by
  intro ok
  have ok : (k != 3) = true := ok
  obtain ⟨f31_1, f25_6, f19_6, f13_6, f8_5, f2_6, f0_2⟩ := lay1_6_6_6_11_2 (w := encode (.tlbinv c d a k)) (BitVec.ofBool c) 0#6 d a 832#11 k rfl
  rw [decodeBytes_wordBytes]
  unfold decode
  rw [f25_6]
  change decSys _ = _
  unfold decSys
  rw [f8_5]
  change pick ((fld _ 0 2) != 3) (fld _ 2 6 == 0) (.tlbinv (cv _) (fld _ 19 6) (fld _ 13 6) (fld _ 0 2)) = _
  simp only [cv_of_fld f31_1, f0_2, f13_6, f19_6, f2_6, ok]
  rfl

theorem htinv (c d a k : _) : Statement (.htinv c d a k) := by
  intro _
  obtain ⟨f31_1, f25_6, f19_6, f13_6, f8_5, -, -, f1_7, -, f0_1⟩ := lay1_6_6_6_12_1 (w := encode (.htinv c d a k)) (BitVec.ofBool c) 0#6 d a 1792#12 k rfl
  rw [decodeBytes_wordBytes]
  unfold decode
  rw [f25_6]
  change decSys _ = _
  unfold decSys
  rw [f8_5]
  change pick (true) (fld _ 1 7 == 0) (.htinv (cv _) (fld _ 19 6) (fld _ 13 6) (fld _ 0 1)) = _
  simp only [cv_of_fld f31_1, f0_1, f13_6, f19_6, f1_7]
  rfl

theorem vfsave (c a h : _) : Statement (.vfsave c a h) := by
  intro _
  obtain ⟨f31_1, f25_6, f19_6, f13_6, f8_5, f4_4, f0_4⟩ := lay1_12_6_9_4 (w := encode (.vfsave c a h)) (BitVec.ofBool c) 0#12 a 240#9 h rfl
  rw [decodeBytes_wordBytes]
  unfold decode
  rw [f25_6]
  change decSys _ = _
  unfold decSys
  rw [f8_5]
  change pick (true) (fld _ 4 4 == 0 && fld _ 19 6 == 0) (.vfsave (cv _) (fld _ 13 6) (fld _ 0 4)) = _
  simp only [cv_of_fld f31_1, f0_4, f13_6, f19_6, f4_4]
  rfl

theorem vfrestore (c a h : _) : Statement (.vfrestore c a h) := by
  intro _
  obtain ⟨f31_1, f25_6, f19_6, f13_6, f8_5, f4_4, f0_4⟩ := lay1_12_6_9_4 (w := encode (.vfrestore c a h)) (BitVec.ofBool c) 0#12 a 256#9 h rfl
  rw [decodeBytes_wordBytes]
  unfold decode
  rw [f25_6]
  change decSys _ = _
  unfold decSys
  rw [f8_5]
  change pick (true) (fld _ 4 4 == 0 && fld _ 19 6 == 0) (.vfrestore (cv _) (fld _ 13 6) (fld _ 0 4)) = _
  simp only [cv_of_fld f31_1, f0_4, f13_6, f19_6, f4_4]
  rfl

theorem wfi (c : _) : Statement (.wfi c) := by
  intro _
  obtain ⟨f31_1, f25_6, f13_12, -, f8_5, -, f0_8⟩ := lay1_31 (w := encode (.wfi c)) (BitVec.ofBool c) 4352#31 rfl
  rw [decodeBytes_wordBytes]
  unfold decode
  rw [f25_6]
  change decSys _ = _
  unfold decSys
  rw [f8_5]
  change pick (true) (fld _ 0 8 == 0 && fld _ 13 12 == 0) (.wfi (cv _)) = _
  simp only [cv_of_fld f31_1, f0_8, f13_12]
  rfl

theorem add (c d a b : _) : Statement (.add c d a b) := by
  intro _
  obtain ⟨f31_1, f25_6, f19_6, f13_6, f7_6, -, -, f0_7, -, -⟩ := lay1_6_6_6_6_7 (w := encode (.add c d a b)) (BitVec.ofBool c) 1#6 d a b 0#7 rfl
  rw [decodeBytes_wordBytes]
  unfold decode
  rw [f25_6]
  change decSalu _ = _
  unfold decSalu
  rw [f0_7]
  change Decoded.ok (.add (cv _) (fld _ 19 6) (fld _ 13 6) (fld _ 7 6)) = _
  rw [cv_of_fld f31_1, f13_6, f19_6, f7_6]

theorem sub (c d a b : _) : Statement (.sub c d a b) := by
  intro _
  obtain ⟨f31_1, f25_6, f19_6, f13_6, f7_6, -, -, f0_7, -, -⟩ := lay1_6_6_6_6_7 (w := encode (.sub c d a b)) (BitVec.ofBool c) 1#6 d a b 1#7 rfl
  rw [decodeBytes_wordBytes]
  unfold decode
  rw [f25_6]
  change decSalu _ = _
  unfold decSalu
  rw [f0_7]
  change Decoded.ok (.sub (cv _) (fld _ 19 6) (fld _ 13 6) (fld _ 7 6)) = _
  rw [cv_of_fld f31_1, f13_6, f19_6, f7_6]

theorem and (c d a b : _) : Statement (.and c d a b) := by
  intro _
  obtain ⟨f31_1, f25_6, f19_6, f13_6, f7_6, -, -, f0_7, -, -⟩ := lay1_6_6_6_6_7 (w := encode (.and c d a b)) (BitVec.ofBool c) 1#6 d a b 2#7 rfl
  rw [decodeBytes_wordBytes]
  unfold decode
  rw [f25_6]
  change decSalu _ = _
  unfold decSalu
  rw [f0_7]
  change Decoded.ok (.and (cv _) (fld _ 19 6) (fld _ 13 6) (fld _ 7 6)) = _
  rw [cv_of_fld f31_1, f13_6, f19_6, f7_6]

theorem or (c d a b : _) : Statement (.or c d a b) := by
  intro _
  obtain ⟨f31_1, f25_6, f19_6, f13_6, f7_6, -, -, f0_7, -, -⟩ := lay1_6_6_6_6_7 (w := encode (.or c d a b)) (BitVec.ofBool c) 1#6 d a b 3#7 rfl
  rw [decodeBytes_wordBytes]
  unfold decode
  rw [f25_6]
  change decSalu _ = _
  unfold decSalu
  rw [f0_7]
  change Decoded.ok (.or (cv _) (fld _ 19 6) (fld _ 13 6) (fld _ 7 6)) = _
  rw [cv_of_fld f31_1, f13_6, f19_6, f7_6]

theorem xor (c d a b : _) : Statement (.xor c d a b) := by
  intro _
  obtain ⟨f31_1, f25_6, f19_6, f13_6, f7_6, -, -, f0_7, -, -⟩ := lay1_6_6_6_6_7 (w := encode (.xor c d a b)) (BitVec.ofBool c) 1#6 d a b 4#7 rfl
  rw [decodeBytes_wordBytes]
  unfold decode
  rw [f25_6]
  change decSalu _ = _
  unfold decSalu
  rw [f0_7]
  change Decoded.ok (.xor (cv _) (fld _ 19 6) (fld _ 13 6) (fld _ 7 6)) = _
  rw [cv_of_fld f31_1, f13_6, f19_6, f7_6]

theorem sll (c d a b : _) : Statement (.sll c d a b) := by
  intro _
  obtain ⟨f31_1, f25_6, f19_6, f13_6, f7_6, -, -, f0_7, -, -⟩ := lay1_6_6_6_6_7 (w := encode (.sll c d a b)) (BitVec.ofBool c) 1#6 d a b 5#7 rfl
  rw [decodeBytes_wordBytes]
  unfold decode
  rw [f25_6]
  change decSalu _ = _
  unfold decSalu
  rw [f0_7]
  change Decoded.ok (.sll (cv _) (fld _ 19 6) (fld _ 13 6) (fld _ 7 6)) = _
  rw [cv_of_fld f31_1, f13_6, f19_6, f7_6]

theorem srl (c d a b : _) : Statement (.srl c d a b) := by
  intro _
  obtain ⟨f31_1, f25_6, f19_6, f13_6, f7_6, -, -, f0_7, -, -⟩ := lay1_6_6_6_6_7 (w := encode (.srl c d a b)) (BitVec.ofBool c) 1#6 d a b 6#7 rfl
  rw [decodeBytes_wordBytes]
  unfold decode
  rw [f25_6]
  change decSalu _ = _
  unfold decSalu
  rw [f0_7]
  change Decoded.ok (.srl (cv _) (fld _ 19 6) (fld _ 13 6) (fld _ 7 6)) = _
  rw [cv_of_fld f31_1, f13_6, f19_6, f7_6]

theorem sra (c d a b : _) : Statement (.sra c d a b) := by
  intro _
  obtain ⟨f31_1, f25_6, f19_6, f13_6, f7_6, -, -, f0_7, -, -⟩ := lay1_6_6_6_6_7 (w := encode (.sra c d a b)) (BitVec.ofBool c) 1#6 d a b 7#7 rfl
  rw [decodeBytes_wordBytes]
  unfold decode
  rw [f25_6]
  change decSalu _ = _
  unfold decSalu
  rw [f0_7]
  change Decoded.ok (.sra (cv _) (fld _ 19 6) (fld _ 13 6) (fld _ 7 6)) = _
  rw [cv_of_fld f31_1, f13_6, f19_6, f7_6]

theorem slt (c d a b : _) : Statement (.slt c d a b) := by
  intro _
  obtain ⟨f31_1, f25_6, f19_6, f13_6, f7_6, -, -, f0_7, -, -⟩ := lay1_6_6_6_6_7 (w := encode (.slt c d a b)) (BitVec.ofBool c) 1#6 d a b 8#7 rfl
  rw [decodeBytes_wordBytes]
  unfold decode
  rw [f25_6]
  change decSalu _ = _
  unfold decSalu
  rw [f0_7]
  change Decoded.ok (.slt (cv _) (fld _ 19 6) (fld _ 13 6) (fld _ 7 6)) = _
  rw [cv_of_fld f31_1, f13_6, f19_6, f7_6]

theorem sltu (c d a b : _) : Statement (.sltu c d a b) := by
  intro _
  obtain ⟨f31_1, f25_6, f19_6, f13_6, f7_6, -, -, f0_7, -, -⟩ := lay1_6_6_6_6_7 (w := encode (.sltu c d a b)) (BitVec.ofBool c) 1#6 d a b 9#7 rfl
  rw [decodeBytes_wordBytes]
  unfold decode
  rw [f25_6]
  change decSalu _ = _
  unfold decSalu
  rw [f0_7]
  change Decoded.ok (.sltu (cv _) (fld _ 19 6) (fld _ 13 6) (fld _ 7 6)) = _
  rw [cv_of_fld f31_1, f13_6, f19_6, f7_6]

theorem min (c d a b : _) : Statement (.min c d a b) := by
  intro _
  obtain ⟨f31_1, f25_6, f19_6, f13_6, f7_6, -, -, f0_7, -, -⟩ := lay1_6_6_6_6_7 (w := encode (.min c d a b)) (BitVec.ofBool c) 1#6 d a b 10#7 rfl
  rw [decodeBytes_wordBytes]
  unfold decode
  rw [f25_6]
  change decSalu _ = _
  unfold decSalu
  rw [f0_7]
  change Decoded.ok (.min (cv _) (fld _ 19 6) (fld _ 13 6) (fld _ 7 6)) = _
  rw [cv_of_fld f31_1, f13_6, f19_6, f7_6]

theorem max (c d a b : _) : Statement (.max c d a b) := by
  intro _
  obtain ⟨f31_1, f25_6, f19_6, f13_6, f7_6, -, -, f0_7, -, -⟩ := lay1_6_6_6_6_7 (w := encode (.max c d a b)) (BitVec.ofBool c) 1#6 d a b 11#7 rfl
  rw [decodeBytes_wordBytes]
  unfold decode
  rw [f25_6]
  change decSalu _ = _
  unfold decSalu
  rw [f0_7]
  change Decoded.ok (.max (cv _) (fld _ 19 6) (fld _ 13 6) (fld _ 7 6)) = _
  rw [cv_of_fld f31_1, f13_6, f19_6, f7_6]

theorem minu (c d a b : _) : Statement (.minu c d a b) := by
  intro _
  obtain ⟨f31_1, f25_6, f19_6, f13_6, f7_6, -, -, f0_7, -, -⟩ := lay1_6_6_6_6_7 (w := encode (.minu c d a b)) (BitVec.ofBool c) 1#6 d a b 12#7 rfl
  rw [decodeBytes_wordBytes]
  unfold decode
  rw [f25_6]
  change decSalu _ = _
  unfold decSalu
  rw [f0_7]
  change Decoded.ok (.minu (cv _) (fld _ 19 6) (fld _ 13 6) (fld _ 7 6)) = _
  rw [cv_of_fld f31_1, f13_6, f19_6, f7_6]

theorem maxu (c d a b : _) : Statement (.maxu c d a b) := by
  intro _
  obtain ⟨f31_1, f25_6, f19_6, f13_6, f7_6, -, -, f0_7, -, -⟩ := lay1_6_6_6_6_7 (w := encode (.maxu c d a b)) (BitVec.ofBool c) 1#6 d a b 13#7 rfl
  rw [decodeBytes_wordBytes]
  unfold decode
  rw [f25_6]
  change decSalu _ = _
  unfold decSalu
  rw [f0_7]
  change Decoded.ok (.maxu (cv _) (fld _ 19 6) (fld _ 13 6) (fld _ 7 6)) = _
  rw [cv_of_fld f31_1, f13_6, f19_6, f7_6]

theorem mul (c d a b : _) : Statement (.mul c d a b) := by
  intro _
  obtain ⟨f31_1, f25_6, f19_6, f13_6, f7_6, -, -, f0_7, -, -⟩ := lay1_6_6_6_6_7 (w := encode (.mul c d a b)) (BitVec.ofBool c) 1#6 d a b 14#7 rfl
  rw [decodeBytes_wordBytes]
  unfold decode
  rw [f25_6]
  change decSalu _ = _
  unfold decSalu
  rw [f0_7]
  change Decoded.ok (.mul (cv _) (fld _ 19 6) (fld _ 13 6) (fld _ 7 6)) = _
  rw [cv_of_fld f31_1, f13_6, f19_6, f7_6]

theorem mulh (c d a b : _) : Statement (.mulh c d a b) := by
  intro _
  obtain ⟨f31_1, f25_6, f19_6, f13_6, f7_6, -, -, f0_7, -, -⟩ := lay1_6_6_6_6_7 (w := encode (.mulh c d a b)) (BitVec.ofBool c) 1#6 d a b 15#7 rfl
  rw [decodeBytes_wordBytes]
  unfold decode
  rw [f25_6]
  change decSalu _ = _
  unfold decSalu
  rw [f0_7]
  change Decoded.ok (.mulh (cv _) (fld _ 19 6) (fld _ 13 6) (fld _ 7 6)) = _
  rw [cv_of_fld f31_1, f13_6, f19_6, f7_6]

theorem mulhu (c d a b : _) : Statement (.mulhu c d a b) := by
  intro _
  obtain ⟨f31_1, f25_6, f19_6, f13_6, f7_6, -, -, f0_7, -, -⟩ := lay1_6_6_6_6_7 (w := encode (.mulhu c d a b)) (BitVec.ofBool c) 1#6 d a b 16#7 rfl
  rw [decodeBytes_wordBytes]
  unfold decode
  rw [f25_6]
  change decSalu _ = _
  unfold decSalu
  rw [f0_7]
  change Decoded.ok (.mulhu (cv _) (fld _ 19 6) (fld _ 13 6) (fld _ 7 6)) = _
  rw [cv_of_fld f31_1, f13_6, f19_6, f7_6]

theorem div (c d a b : _) : Statement (.div c d a b) := by
  intro _
  obtain ⟨f31_1, f25_6, f19_6, f13_6, f7_6, -, -, f0_7, -, -⟩ := lay1_6_6_6_6_7 (w := encode (.div c d a b)) (BitVec.ofBool c) 1#6 d a b 17#7 rfl
  rw [decodeBytes_wordBytes]
  unfold decode
  rw [f25_6]
  change decSalu _ = _
  unfold decSalu
  rw [f0_7]
  change Decoded.ok (.div (cv _) (fld _ 19 6) (fld _ 13 6) (fld _ 7 6)) = _
  rw [cv_of_fld f31_1, f13_6, f19_6, f7_6]

theorem divu (c d a b : _) : Statement (.divu c d a b) := by
  intro _
  obtain ⟨f31_1, f25_6, f19_6, f13_6, f7_6, -, -, f0_7, -, -⟩ := lay1_6_6_6_6_7 (w := encode (.divu c d a b)) (BitVec.ofBool c) 1#6 d a b 18#7 rfl
  rw [decodeBytes_wordBytes]
  unfold decode
  rw [f25_6]
  change decSalu _ = _
  unfold decSalu
  rw [f0_7]
  change Decoded.ok (.divu (cv _) (fld _ 19 6) (fld _ 13 6) (fld _ 7 6)) = _
  rw [cv_of_fld f31_1, f13_6, f19_6, f7_6]

theorem rem (c d a b : _) : Statement (.rem c d a b) := by
  intro _
  obtain ⟨f31_1, f25_6, f19_6, f13_6, f7_6, -, -, f0_7, -, -⟩ := lay1_6_6_6_6_7 (w := encode (.rem c d a b)) (BitVec.ofBool c) 1#6 d a b 19#7 rfl
  rw [decodeBytes_wordBytes]
  unfold decode
  rw [f25_6]
  change decSalu _ = _
  unfold decSalu
  rw [f0_7]
  change Decoded.ok (.rem (cv _) (fld _ 19 6) (fld _ 13 6) (fld _ 7 6)) = _
  rw [cv_of_fld f31_1, f13_6, f19_6, f7_6]

theorem remu (c d a b : _) : Statement (.remu c d a b) := by
  intro _
  obtain ⟨f31_1, f25_6, f19_6, f13_6, f7_6, -, -, f0_7, -, -⟩ := lay1_6_6_6_6_7 (w := encode (.remu c d a b)) (BitVec.ofBool c) 1#6 d a b 20#7 rfl
  rw [decodeBytes_wordBytes]
  unfold decode
  rw [f25_6]
  change decSalu _ = _
  unfold decSalu
  rw [f0_7]
  change Decoded.ok (.remu (cv _) (fld _ 19 6) (fld _ 13 6) (fld _ 7 6)) = _
  rw [cv_of_fld f31_1, f13_6, f19_6, f7_6]

theorem clz (c d a : _) : Statement (.clz c d a) := by
  intro _
  obtain ⟨f31_1, f25_6, f19_6, f13_6, -, f7_6, -, -, -, -, -, -, -, f0_7, -, -, -⟩ := lay1_6_6_6_13 (w := encode (.clz c d a)) (BitVec.ofBool c) 1#6 d a 21#13 rfl
  rw [decodeBytes_wordBytes]
  unfold decode
  rw [f25_6]
  change decSalu _ = _
  unfold decSalu
  rw [f0_7]
  change pick (true) (fld _ 7 6 == 0) (.clz (cv _) (fld _ 19 6) (fld _ 13 6)) = _
  simp only [cv_of_fld f31_1, f13_6, f19_6, f7_6]
  rfl

theorem ctz (c d a : _) : Statement (.ctz c d a) := by
  intro _
  obtain ⟨f31_1, f25_6, f19_6, f13_6, -, f7_6, -, -, -, -, -, -, -, f0_7, -, -, -⟩ := lay1_6_6_6_13 (w := encode (.ctz c d a)) (BitVec.ofBool c) 1#6 d a 22#13 rfl
  rw [decodeBytes_wordBytes]
  unfold decode
  rw [f25_6]
  change decSalu _ = _
  unfold decSalu
  rw [f0_7]
  change pick (true) (fld _ 7 6 == 0) (.ctz (cv _) (fld _ 19 6) (fld _ 13 6)) = _
  simp only [cv_of_fld f31_1, f13_6, f19_6, f7_6]
  rfl

theorem popc (c d a : _) : Statement (.popc c d a) := by
  intro _
  obtain ⟨f31_1, f25_6, f19_6, f13_6, -, f7_6, -, -, -, -, -, -, -, f0_7, -, -, -⟩ := lay1_6_6_6_13 (w := encode (.popc c d a)) (BitVec.ofBool c) 1#6 d a 23#13 rfl
  rw [decodeBytes_wordBytes]
  unfold decode
  rw [f25_6]
  change decSalu _ = _
  unfold decSalu
  rw [f0_7]
  change pick (true) (fld _ 7 6 == 0) (.popc (cv _) (fld _ 19 6) (fld _ 13 6)) = _
  simp only [cv_of_fld f31_1, f13_6, f19_6, f7_6]
  rfl

theorem sext (c d a w : _) : Statement (.sext c d a w) := by
  intro ok
  have ok : (w != 3) = true := ok
  obtain ⟨f31_1, f25_6, f19_6, f13_6, f9_4, f7_2, f0_7⟩ := lay1_6_6_6_4_2_7 (w := encode (.sext c d a w)) (BitVec.ofBool c) 1#6 d a 0#4 w 24#7 rfl
  rw [decodeBytes_wordBytes]
  unfold decode
  rw [f25_6]
  change decSalu _ = _
  unfold decSalu
  rw [f0_7]
  change pick ((fld _ 7 2) != 3) (fld _ 9 4 == 0) (.sext (cv _) (fld _ 19 6) (fld _ 13 6) (fld _ 7 2)) = _
  simp only [cv_of_fld f31_1, f13_6, f19_6, f7_2, f9_4, ok]
  rfl

theorem zext (c d a w : _) : Statement (.zext c d a w) := by
  intro ok
  have ok : (w != 3) = true := ok
  obtain ⟨f31_1, f25_6, f19_6, f13_6, f9_4, f7_2, f0_7⟩ := lay1_6_6_6_4_2_7 (w := encode (.zext c d a w)) (BitVec.ofBool c) 1#6 d a 0#4 w 25#7 rfl
  rw [decodeBytes_wordBytes]
  unfold decode
  rw [f25_6]
  change decSalu _ = _
  unfold decSalu
  rw [f0_7]
  change pick ((fld _ 7 2) != 3) (fld _ 9 4 == 0) (.zext (cv _) (fld _ 19 6) (fld _ 13 6) (fld _ 7 2)) = _
  simp only [cv_of_fld f31_1, f13_6, f19_6, f7_2, f9_4, ok]
  rfl

theorem addi (c d a i : _) : Statement (.addi c d a i) := by
  intro _
  obtain ⟨f31_1, f25_6, f19_6, f13_6, -, -, -, -, -, -, -, f0_13, -, -, -, -, -⟩ := lay1_6_6_6_13 (w := encode (.addi c d a i)) (BitVec.ofBool c) 2#6 d a i rfl
  rw [decodeBytes_wordBytes]
  unfold decode
  rw [f25_6]
  change Decoded.ok (.addi (cv _) (fld _ 19 6) (fld _ 13 6) (fld _ 0 13)) = _
  rw [cv_of_fld f31_1, f0_13, f13_6, f19_6]

theorem andi (c d a i : _) : Statement (.andi c d a i) := by
  intro _
  obtain ⟨f31_1, f25_6, f19_6, f13_6, -, -, -, -, -, -, -, f0_13, -, -, -, -, -⟩ := lay1_6_6_6_13 (w := encode (.andi c d a i)) (BitVec.ofBool c) 3#6 d a i rfl
  rw [decodeBytes_wordBytes]
  unfold decode
  rw [f25_6]
  change Decoded.ok (.andi (cv _) (fld _ 19 6) (fld _ 13 6) (fld _ 0 13)) = _
  rw [cv_of_fld f31_1, f0_13, f13_6, f19_6]

theorem ori (c d a i : _) : Statement (.ori c d a i) := by
  intro _
  obtain ⟨f31_1, f25_6, f19_6, f13_6, -, -, -, -, -, -, -, f0_13, -, -, -, -, -⟩ := lay1_6_6_6_13 (w := encode (.ori c d a i)) (BitVec.ofBool c) 4#6 d a i rfl
  rw [decodeBytes_wordBytes]
  unfold decode
  rw [f25_6]
  change Decoded.ok (.ori (cv _) (fld _ 19 6) (fld _ 13 6) (fld _ 0 13)) = _
  rw [cv_of_fld f31_1, f0_13, f13_6, f19_6]

theorem xori (c d a i : _) : Statement (.xori c d a i) := by
  intro _
  obtain ⟨f31_1, f25_6, f19_6, f13_6, -, -, -, -, -, -, -, f0_13, -, -, -, -, -⟩ := lay1_6_6_6_13 (w := encode (.xori c d a i)) (BitVec.ofBool c) 5#6 d a i rfl
  rw [decodeBytes_wordBytes]
  unfold decode
  rw [f25_6]
  change Decoded.ok (.xori (cv _) (fld _ 19 6) (fld _ 13 6) (fld _ 0 13)) = _
  rw [cv_of_fld f31_1, f0_13, f13_6, f19_6]

theorem slti (c d a i : _) : Statement (.slti c d a i) := by
  intro _
  obtain ⟨f31_1, f25_6, f19_6, f13_6, -, -, -, -, -, -, -, f0_13, -, -, -, -, -⟩ := lay1_6_6_6_13 (w := encode (.slti c d a i)) (BitVec.ofBool c) 6#6 d a i rfl
  rw [decodeBytes_wordBytes]
  unfold decode
  rw [f25_6]
  change Decoded.ok (.slti (cv _) (fld _ 19 6) (fld _ 13 6) (fld _ 0 13)) = _
  rw [cv_of_fld f31_1, f0_13, f13_6, f19_6]

theorem slli (c d a n : _) : Statement (.slli c d a n) := by
  intro _
  obtain ⟨f31_1, f25_6, f19_6, f13_6, f11_2, -, f6_5, -, f0_6⟩ := lay1_6_6_6_7_6 (w := encode (.slli c d a n)) (BitVec.ofBool c) 7#6 d a 0#7 n rfl
  rw [decodeBytes_wordBytes]
  unfold decode
  rw [f25_6]
  change decShi _ = _
  unfold decShi
  rw [f11_2]
  change pick (true) (fld _ 6 5 == 0) (.slli (cv _) (fld _ 19 6) (fld _ 13 6) (fld _ 0 6)) = _
  simp only [cv_of_fld f31_1, f0_6, f13_6, f19_6, f6_5]
  rfl

theorem srli (c d a n : _) : Statement (.srli c d a n) := by
  intro _
  obtain ⟨f31_1, f25_6, f19_6, f13_6, f11_2, -, f6_5, -, f0_6⟩ := lay1_6_6_6_7_6 (w := encode (.srli c d a n)) (BitVec.ofBool c) 7#6 d a 32#7 n rfl
  rw [decodeBytes_wordBytes]
  unfold decode
  rw [f25_6]
  change decShi _ = _
  unfold decShi
  rw [f11_2]
  change pick (true) (fld _ 6 5 == 0) (.srli (cv _) (fld _ 19 6) (fld _ 13 6) (fld _ 0 6)) = _
  simp only [cv_of_fld f31_1, f0_6, f13_6, f19_6, f6_5]
  rfl

theorem srai (c d a n : _) : Statement (.srai c d a n) := by
  intro _
  obtain ⟨f31_1, f25_6, f19_6, f13_6, f11_2, -, f6_5, -, f0_6⟩ := lay1_6_6_6_7_6 (w := encode (.srai c d a n)) (BitVec.ofBool c) 7#6 d a 64#7 n rfl
  rw [decodeBytes_wordBytes]
  unfold decode
  rw [f25_6]
  change decShi _ = _
  unfold decShi
  rw [f11_2]
  change pick (true) (fld _ 6 5 == 0) (.srai (cv _) (fld _ 19 6) (fld _ 13 6) (fld _ 0 6)) = _
  simp only [cv_of_fld f31_1, f0_6, f13_6, f19_6, f6_5]
  rfl

theorem ldhi (c d i : _) : Statement (.ldhi c d i) := by
  intro _
  obtain ⟨f31_1, f25_6, f19_6, f0_19⟩ := lay1_6_6_19 (w := encode (.ldhi c d i)) (BitVec.ofBool c) 8#6 d i rfl
  rw [decodeBytes_wordBytes]
  unfold decode
  rw [f25_6]
  change Decoded.ok (.ldhi (cv _) (fld _ 19 6) (fld _ 0 19)) = _
  rw [cv_of_fld f31_1, f0_19, f19_6]

theorem addpc (c d i : _) : Statement (.addpc c d i) := by
  intro _
  obtain ⟨f31_1, f25_6, f19_6, f0_19⟩ := lay1_6_6_19 (w := encode (.addpc c d i)) (BitVec.ofBool c) 9#6 d i rfl
  rw [decodeBytes_wordBytes]
  unfold decode
  rw [f25_6]
  change Decoded.ok (.addpc (cv _) (fld _ 19 6) (fld _ 0 19)) = _
  rw [cv_of_fld f31_1, f0_19, f19_6]

theorem sfaddF32 (c d a b : _) : Statement (.sfaddF32 c d a b) := by
  intro _
  obtain ⟨f31_1, f25_6, f19_6, f13_6, f7_6, f5_2, -, -, f0_5, -⟩ := lay1_6_6_6_6_7 (w := encode (.sfaddF32 c d a b)) (BitVec.ofBool c) 10#6 d a b 0#7 rfl
  rw [decodeBytes_wordBytes]
  unfold decode
  rw [f25_6]
  change decSfp _ = _
  unfold decSfp
  rw [f0_5]
  change pick (true) (fld _ 5 2 == 0) (.sfaddF32 (cv _) (fld _ 19 6) (fld _ 13 6) (fld _ 7 6)) = _
  simp only [cv_of_fld f31_1, f13_6, f19_6, f5_2, f7_6]
  rfl

theorem sfaddF64 (c d a b : _) : Statement (.sfaddF64 c d a b) := by
  intro _
  obtain ⟨f31_1, f25_6, f19_6, f13_6, f7_6, f5_2, -, -, f0_5, -⟩ := lay1_6_6_6_6_7 (w := encode (.sfaddF64 c d a b)) (BitVec.ofBool c) 10#6 d a b 16#7 rfl
  rw [decodeBytes_wordBytes]
  unfold decode
  rw [f25_6]
  change decSfp _ = _
  unfold decSfp
  rw [f0_5]
  change pick (true) (fld _ 5 2 == 0) (.sfaddF64 (cv _) (fld _ 19 6) (fld _ 13 6) (fld _ 7 6)) = _
  simp only [cv_of_fld f31_1, f13_6, f19_6, f5_2, f7_6]
  rfl

theorem sfsubF32 (c d a b : _) : Statement (.sfsubF32 c d a b) := by
  intro _
  obtain ⟨f31_1, f25_6, f19_6, f13_6, f7_6, f5_2, -, -, f0_5, -⟩ := lay1_6_6_6_6_7 (w := encode (.sfsubF32 c d a b)) (BitVec.ofBool c) 10#6 d a b 1#7 rfl
  rw [decodeBytes_wordBytes]
  unfold decode
  rw [f25_6]
  change decSfp _ = _
  unfold decSfp
  rw [f0_5]
  change pick (true) (fld _ 5 2 == 0) (.sfsubF32 (cv _) (fld _ 19 6) (fld _ 13 6) (fld _ 7 6)) = _
  simp only [cv_of_fld f31_1, f13_6, f19_6, f5_2, f7_6]
  rfl

theorem sfsubF64 (c d a b : _) : Statement (.sfsubF64 c d a b) := by
  intro _
  obtain ⟨f31_1, f25_6, f19_6, f13_6, f7_6, f5_2, -, -, f0_5, -⟩ := lay1_6_6_6_6_7 (w := encode (.sfsubF64 c d a b)) (BitVec.ofBool c) 10#6 d a b 17#7 rfl
  rw [decodeBytes_wordBytes]
  unfold decode
  rw [f25_6]
  change decSfp _ = _
  unfold decSfp
  rw [f0_5]
  change pick (true) (fld _ 5 2 == 0) (.sfsubF64 (cv _) (fld _ 19 6) (fld _ 13 6) (fld _ 7 6)) = _
  simp only [cv_of_fld f31_1, f13_6, f19_6, f5_2, f7_6]
  rfl

theorem sfmulF32 (c d a b : _) : Statement (.sfmulF32 c d a b) := by
  intro _
  obtain ⟨f31_1, f25_6, f19_6, f13_6, f7_6, f5_2, -, -, f0_5, -⟩ := lay1_6_6_6_6_7 (w := encode (.sfmulF32 c d a b)) (BitVec.ofBool c) 10#6 d a b 2#7 rfl
  rw [decodeBytes_wordBytes]
  unfold decode
  rw [f25_6]
  change decSfp _ = _
  unfold decSfp
  rw [f0_5]
  change pick (true) (fld _ 5 2 == 0) (.sfmulF32 (cv _) (fld _ 19 6) (fld _ 13 6) (fld _ 7 6)) = _
  simp only [cv_of_fld f31_1, f13_6, f19_6, f5_2, f7_6]
  rfl

theorem sfmulF64 (c d a b : _) : Statement (.sfmulF64 c d a b) := by
  intro _
  obtain ⟨f31_1, f25_6, f19_6, f13_6, f7_6, f5_2, -, -, f0_5, -⟩ := lay1_6_6_6_6_7 (w := encode (.sfmulF64 c d a b)) (BitVec.ofBool c) 10#6 d a b 18#7 rfl
  rw [decodeBytes_wordBytes]
  unfold decode
  rw [f25_6]
  change decSfp _ = _
  unfold decSfp
  rw [f0_5]
  change pick (true) (fld _ 5 2 == 0) (.sfmulF64 (cv _) (fld _ 19 6) (fld _ 13 6) (fld _ 7 6)) = _
  simp only [cv_of_fld f31_1, f13_6, f19_6, f5_2, f7_6]
  rfl

theorem sfdivF32 (c d a b : _) : Statement (.sfdivF32 c d a b) := by
  intro _
  obtain ⟨f31_1, f25_6, f19_6, f13_6, f7_6, f5_2, -, -, f0_5, -⟩ := lay1_6_6_6_6_7 (w := encode (.sfdivF32 c d a b)) (BitVec.ofBool c) 10#6 d a b 3#7 rfl
  rw [decodeBytes_wordBytes]
  unfold decode
  rw [f25_6]
  change decSfp _ = _
  unfold decSfp
  rw [f0_5]
  change pick (true) (fld _ 5 2 == 0) (.sfdivF32 (cv _) (fld _ 19 6) (fld _ 13 6) (fld _ 7 6)) = _
  simp only [cv_of_fld f31_1, f13_6, f19_6, f5_2, f7_6]
  rfl

theorem sfdivF64 (c d a b : _) : Statement (.sfdivF64 c d a b) := by
  intro _
  obtain ⟨f31_1, f25_6, f19_6, f13_6, f7_6, f5_2, -, -, f0_5, -⟩ := lay1_6_6_6_6_7 (w := encode (.sfdivF64 c d a b)) (BitVec.ofBool c) 10#6 d a b 19#7 rfl
  rw [decodeBytes_wordBytes]
  unfold decode
  rw [f25_6]
  change decSfp _ = _
  unfold decSfp
  rw [f0_5]
  change pick (true) (fld _ 5 2 == 0) (.sfdivF64 (cv _) (fld _ 19 6) (fld _ 13 6) (fld _ 7 6)) = _
  simp only [cv_of_fld f31_1, f13_6, f19_6, f5_2, f7_6]
  rfl

theorem sfmaF32 (c d a b : _) : Statement (.sfmaF32 c d a b) := by
  intro _
  obtain ⟨f31_1, f25_6, f19_6, f13_6, f7_6, f5_2, -, -, f0_5, -⟩ := lay1_6_6_6_6_7 (w := encode (.sfmaF32 c d a b)) (BitVec.ofBool c) 10#6 d a b 4#7 rfl
  rw [decodeBytes_wordBytes]
  unfold decode
  rw [f25_6]
  change decSfp _ = _
  unfold decSfp
  rw [f0_5]
  change pick (true) (fld _ 5 2 == 0) (.sfmaF32 (cv _) (fld _ 19 6) (fld _ 13 6) (fld _ 7 6)) = _
  simp only [cv_of_fld f31_1, f13_6, f19_6, f5_2, f7_6]
  rfl

theorem sfmaF64 (c d a b : _) : Statement (.sfmaF64 c d a b) := by
  intro _
  obtain ⟨f31_1, f25_6, f19_6, f13_6, f7_6, f5_2, -, -, f0_5, -⟩ := lay1_6_6_6_6_7 (w := encode (.sfmaF64 c d a b)) (BitVec.ofBool c) 10#6 d a b 20#7 rfl
  rw [decodeBytes_wordBytes]
  unfold decode
  rw [f25_6]
  change decSfp _ = _
  unfold decSfp
  rw [f0_5]
  change pick (true) (fld _ 5 2 == 0) (.sfmaF64 (cv _) (fld _ 19 6) (fld _ 13 6) (fld _ 7 6)) = _
  simp only [cv_of_fld f31_1, f13_6, f19_6, f5_2, f7_6]
  rfl

theorem sfsqrtF32 (c d a : _) : Statement (.sfsqrtF32 c d a) := by
  intro _
  obtain ⟨f31_1, f25_6, f19_6, f13_6, -, -, f5_8, -, -, -, -, -, -, -, f0_5, -, -⟩ := lay1_6_6_6_13 (w := encode (.sfsqrtF32 c d a)) (BitVec.ofBool c) 10#6 d a 5#13 rfl
  rw [decodeBytes_wordBytes]
  unfold decode
  rw [f25_6]
  change decSfp _ = _
  unfold decSfp
  rw [f0_5]
  change pick (true) (fld _ 5 8 == 0) (.sfsqrtF32 (cv _) (fld _ 19 6) (fld _ 13 6)) = _
  simp only [cv_of_fld f31_1, f13_6, f19_6, f5_8]
  rfl

theorem sfsqrtF64 (c d a : _) : Statement (.sfsqrtF64 c d a) := by
  intro _
  obtain ⟨f31_1, f25_6, f19_6, f13_6, -, -, f5_8, -, -, -, -, -, -, -, f0_5, -, -⟩ := lay1_6_6_6_13 (w := encode (.sfsqrtF64 c d a)) (BitVec.ofBool c) 10#6 d a 21#13 rfl
  rw [decodeBytes_wordBytes]
  unfold decode
  rw [f25_6]
  change decSfp _ = _
  unfold decSfp
  rw [f0_5]
  change pick (true) (fld _ 5 8 == 0) (.sfsqrtF64 (cv _) (fld _ 19 6) (fld _ 13 6)) = _
  simp only [cv_of_fld f31_1, f13_6, f19_6, f5_8]
  rfl

theorem sfminF32 (c d a b : _) : Statement (.sfminF32 c d a b) := by
  intro _
  obtain ⟨f31_1, f25_6, f19_6, f13_6, f7_6, f5_2, -, -, f0_5, -⟩ := lay1_6_6_6_6_7 (w := encode (.sfminF32 c d a b)) (BitVec.ofBool c) 10#6 d a b 6#7 rfl
  rw [decodeBytes_wordBytes]
  unfold decode
  rw [f25_6]
  change decSfp _ = _
  unfold decSfp
  rw [f0_5]
  change pick (true) (fld _ 5 2 == 0) (.sfminF32 (cv _) (fld _ 19 6) (fld _ 13 6) (fld _ 7 6)) = _
  simp only [cv_of_fld f31_1, f13_6, f19_6, f5_2, f7_6]
  rfl

theorem sfminF64 (c d a b : _) : Statement (.sfminF64 c d a b) := by
  intro _
  obtain ⟨f31_1, f25_6, f19_6, f13_6, f7_6, f5_2, -, -, f0_5, -⟩ := lay1_6_6_6_6_7 (w := encode (.sfminF64 c d a b)) (BitVec.ofBool c) 10#6 d a b 22#7 rfl
  rw [decodeBytes_wordBytes]
  unfold decode
  rw [f25_6]
  change decSfp _ = _
  unfold decSfp
  rw [f0_5]
  change pick (true) (fld _ 5 2 == 0) (.sfminF64 (cv _) (fld _ 19 6) (fld _ 13 6) (fld _ 7 6)) = _
  simp only [cv_of_fld f31_1, f13_6, f19_6, f5_2, f7_6]
  rfl

theorem sfmaxF32 (c d a b : _) : Statement (.sfmaxF32 c d a b) := by
  intro _
  obtain ⟨f31_1, f25_6, f19_6, f13_6, f7_6, f5_2, -, -, f0_5, -⟩ := lay1_6_6_6_6_7 (w := encode (.sfmaxF32 c d a b)) (BitVec.ofBool c) 10#6 d a b 7#7 rfl
  rw [decodeBytes_wordBytes]
  unfold decode
  rw [f25_6]
  change decSfp _ = _
  unfold decSfp
  rw [f0_5]
  change pick (true) (fld _ 5 2 == 0) (.sfmaxF32 (cv _) (fld _ 19 6) (fld _ 13 6) (fld _ 7 6)) = _
  simp only [cv_of_fld f31_1, f13_6, f19_6, f5_2, f7_6]
  rfl

theorem sfmaxF64 (c d a b : _) : Statement (.sfmaxF64 c d a b) := by
  intro _
  obtain ⟨f31_1, f25_6, f19_6, f13_6, f7_6, f5_2, -, -, f0_5, -⟩ := lay1_6_6_6_6_7 (w := encode (.sfmaxF64 c d a b)) (BitVec.ofBool c) 10#6 d a b 23#7 rfl
  rw [decodeBytes_wordBytes]
  unfold decode
  rw [f25_6]
  change decSfp _ = _
  unfold decSfp
  rw [f0_5]
  change pick (true) (fld _ 5 2 == 0) (.sfmaxF64 (cv _) (fld _ 19 6) (fld _ 13 6) (fld _ 7 6)) = _
  simp only [cv_of_fld f31_1, f13_6, f19_6, f5_2, f7_6]
  rfl

theorem sfcmpF32 (c d a b o : _) : Statement (.sfcmpF32 c d a b o) := by
  intro _
  obtain ⟨f31_1, f25_6, f19_6, f13_6, f7_6, f5_2, f0_5⟩ := lay1_6_6_6_6_2_5 (w := encode (.sfcmpF32 c d a b o)) (BitVec.ofBool c) 10#6 d a b o 8#5 rfl
  rw [decodeBytes_wordBytes]
  unfold decode
  rw [f25_6]
  change decSfp _ = _
  unfold decSfp
  rw [f0_5]
  change Decoded.ok (.sfcmpF32 (cv _) (fld _ 19 6) (fld _ 13 6) (fld _ 7 6) (fld _ 5 2)) = _
  rw [cv_of_fld f31_1, f13_6, f19_6, f5_2, f7_6]

theorem sfcmpF64 (c d a b o : _) : Statement (.sfcmpF64 c d a b o) := by
  intro _
  obtain ⟨f31_1, f25_6, f19_6, f13_6, f7_6, f5_2, f0_5⟩ := lay1_6_6_6_6_2_5 (w := encode (.sfcmpF64 c d a b o)) (BitVec.ofBool c) 10#6 d a b o 24#5 rfl
  rw [decodeBytes_wordBytes]
  unfold decode
  rw [f25_6]
  change decSfp _ = _
  unfold decSfp
  rw [f0_5]
  change Decoded.ok (.sfcmpF64 (cv _) (fld _ 19 6) (fld _ 13 6) (fld _ 7 6) (fld _ 5 2)) = _
  rw [cv_of_fld f31_1, f13_6, f19_6, f5_2, f7_6]

theorem sfcvtF32 (c d a o : _) : Statement (.sfcvtF32 c d a o) := by
  intro _
  obtain ⟨f31_1, f25_6, f19_6, f13_6, f7_6, f5_2, f0_5⟩ := lay1_6_6_6_6_2_5 (w := encode (.sfcvtF32 c d a o)) (BitVec.ofBool c) 10#6 d a 0#6 o 9#5 rfl
  rw [decodeBytes_wordBytes]
  unfold decode
  rw [f25_6]
  change decSfp _ = _
  unfold decSfp
  rw [f0_5]
  change pick (true) (fld _ 7 6 == 0) (.sfcvtF32 (cv _) (fld _ 19 6) (fld _ 13 6) (fld _ 5 2)) = _
  simp only [cv_of_fld f31_1, f13_6, f19_6, f5_2, f7_6]
  rfl

theorem sfcvtF64 (c d a o : _) : Statement (.sfcvtF64 c d a o) := by
  intro _
  obtain ⟨f31_1, f25_6, f19_6, f13_6, f7_6, f5_2, f0_5⟩ := lay1_6_6_6_6_2_5 (w := encode (.sfcvtF64 c d a o)) (BitVec.ofBool c) 10#6 d a 0#6 o 25#5 rfl
  rw [decodeBytes_wordBytes]
  unfold decode
  rw [f25_6]
  change decSfp _ = _
  unfold decSfp
  rw [f0_5]
  change pick (true) (fld _ 7 6 == 0) (.sfcvtF64 (cv _) (fld _ 19 6) (fld _ 13 6) (fld _ 5 2)) = _
  simp only [cv_of_fld f31_1, f13_6, f19_6, f5_2, f7_6]
  rfl

theorem sfmvF32 (c d a : _) : Statement (.sfmvF32 c d a) := by
  intro _
  obtain ⟨f31_1, f25_6, f19_6, f13_6, -, -, f5_8, -, -, -, -, -, -, -, f0_5, -, -⟩ := lay1_6_6_6_13 (w := encode (.sfmvF32 c d a)) (BitVec.ofBool c) 10#6 d a 10#13 rfl
  rw [decodeBytes_wordBytes]
  unfold decode
  rw [f25_6]
  change decSfp _ = _
  unfold decSfp
  rw [f0_5]
  change pick (true) (fld _ 5 8 == 0) (.sfmvF32 (cv _) (fld _ 19 6) (fld _ 13 6)) = _
  simp only [cv_of_fld f31_1, f13_6, f19_6, f5_8]
  rfl

theorem sfmvF64 (c d a : _) : Statement (.sfmvF64 c d a) := by
  intro _
  obtain ⟨f31_1, f25_6, f19_6, f13_6, -, -, f5_8, -, -, -, -, -, -, -, f0_5, -, -⟩ := lay1_6_6_6_13 (w := encode (.sfmvF64 c d a)) (BitVec.ofBool c) 10#6 d a 26#13 rfl
  rw [decodeBytes_wordBytes]
  unfold decode
  rw [f25_6]
  change decSfp _ = _
  unfold decSfp
  rw [f0_5]
  change pick (true) (fld _ 5 8 == 0) (.sfmvF64 (cv _) (fld _ 19 6) (fld _ 13 6)) = _
  simp only [cv_of_fld f31_1, f13_6, f19_6, f5_8]
  rfl

theorem sld (c d h a w i : _) : Statement (.sld c d h a w i) := by
  intro ok
  have ok : (w != 7) = true := ok
  obtain ⟨f31_1, f25_6, f19_6, f15_4, f9_6, f6_3, f0_6⟩ := lay1_6_6_4_6_3_6 (w := encode (.sld c d h a w i)) (BitVec.ofBool c) 11#6 d h a w i rfl
  rw [decodeBytes_wordBytes]
  unfold decode
  rw [f25_6]
  change pick ((fld _ 6 3) != 7) (true) (.sld (cv _) (fld _ 19 6) (fld _ 15 4) (fld _ 9 6) (fld _ 6 3) (fld _ 0 6)) = _
  simp only [cv_of_fld f31_1, f0_6, f15_4, f19_6, f6_3, f9_6, ok]
  rfl

theorem sst (c d h a w i : _) : Statement (.sst c d h a w i) := by
  intro ok
  have ok : (decide (w.toNat < 4)) = true := ok
  obtain ⟨f31_1, f25_6, f19_6, f15_4, f9_6, f6_3, f0_6⟩ := lay1_6_6_4_6_3_6 (w := encode (.sst c d h a w i)) (BitVec.ofBool c) 12#6 d h a w i rfl
  rw [decodeBytes_wordBytes]
  unfold decode
  rw [f25_6]
  change pick ((fld _ 6 3).toNat < 4) (true) (.sst (cv _) (fld _ 19 6) (fld _ 15 4) (fld _ 9 6) (fld _ 6 3) (fld _ 0 6)) = _
  simp only [cv_of_fld f31_1, f0_6, f15_4, f19_6, f6_3, f9_6, ok]
  rfl

theorem samoAdd (c d h i w q r s : _) : Statement (.samoAdd c d h i w q r s) := by
  intro ok
  have ok : (scopeOk s) = true := ok
  obtain ⟨f31_1, f25_6, f19_6, f15_4, f9_6, f6_3, f5_1, f4_1, f3_1, f0_3⟩ := lay1_6_6_4_6_3_1_1_1_3 (w := encode (.samoAdd c d h i w q r s)) (BitVec.ofBool c) 13#6 d h i 0#3 w q r s rfl
  rw [decodeBytes_wordBytes]
  unfold decode
  rw [f25_6]
  change decSamo _ = _
  unfold decSamo
  rw [f6_3]
  change pick (scopeOk (fld _ 0 3)) (true) (.samoAdd (cv _) (fld _ 19 6) (fld _ 15 4) (fld _ 9 6) (fld _ 5 1) (fld _ 4 1) (fld _ 3 1) (fld _ 0 3)) = _
  simp only [cv_of_fld f31_1, f0_3, f15_4, f19_6, f3_1, f4_1, f5_1, f9_6, ok]
  rfl

theorem samoAddsat (c d h i w q r s : _) : Statement (.samoAddsat c d h i w q r s) := by
  intro ok
  have ok : (scopeOk s) = true := ok
  obtain ⟨f31_1, f25_6, f19_6, f15_4, f9_6, f6_3, f5_1, f4_1, f3_1, f0_3⟩ := lay1_6_6_4_6_3_1_1_1_3 (w := encode (.samoAddsat c d h i w q r s)) (BitVec.ofBool c) 13#6 d h i 1#3 w q r s rfl
  rw [decodeBytes_wordBytes]
  unfold decode
  rw [f25_6]
  change decSamo _ = _
  unfold decSamo
  rw [f6_3]
  change pick (scopeOk (fld _ 0 3)) (true) (.samoAddsat (cv _) (fld _ 19 6) (fld _ 15 4) (fld _ 9 6) (fld _ 5 1) (fld _ 4 1) (fld _ 3 1) (fld _ 0 3)) = _
  simp only [cv_of_fld f31_1, f0_3, f15_4, f19_6, f3_1, f4_1, f5_1, f9_6, ok]
  rfl

theorem samoMin (c d h i w q r s : _) : Statement (.samoMin c d h i w q r s) := by
  intro ok
  have ok : (scopeOk s) = true := ok
  obtain ⟨f31_1, f25_6, f19_6, f15_4, f9_6, f6_3, f5_1, f4_1, f3_1, f0_3⟩ := lay1_6_6_4_6_3_1_1_1_3 (w := encode (.samoMin c d h i w q r s)) (BitVec.ofBool c) 13#6 d h i 2#3 w q r s rfl
  rw [decodeBytes_wordBytes]
  unfold decode
  rw [f25_6]
  change decSamo _ = _
  unfold decSamo
  rw [f6_3]
  change pick (scopeOk (fld _ 0 3)) (true) (.samoMin (cv _) (fld _ 19 6) (fld _ 15 4) (fld _ 9 6) (fld _ 5 1) (fld _ 4 1) (fld _ 3 1) (fld _ 0 3)) = _
  simp only [cv_of_fld f31_1, f0_3, f15_4, f19_6, f3_1, f4_1, f5_1, f9_6, ok]
  rfl

theorem samoMax (c d h i w q r s : _) : Statement (.samoMax c d h i w q r s) := by
  intro ok
  have ok : (scopeOk s) = true := ok
  obtain ⟨f31_1, f25_6, f19_6, f15_4, f9_6, f6_3, f5_1, f4_1, f3_1, f0_3⟩ := lay1_6_6_4_6_3_1_1_1_3 (w := encode (.samoMax c d h i w q r s)) (BitVec.ofBool c) 13#6 d h i 3#3 w q r s rfl
  rw [decodeBytes_wordBytes]
  unfold decode
  rw [f25_6]
  change decSamo _ = _
  unfold decSamo
  rw [f6_3]
  change pick (scopeOk (fld _ 0 3)) (true) (.samoMax (cv _) (fld _ 19 6) (fld _ 15 4) (fld _ 9 6) (fld _ 5 1) (fld _ 4 1) (fld _ 3 1) (fld _ 0 3)) = _
  simp only [cv_of_fld f31_1, f0_3, f15_4, f19_6, f3_1, f4_1, f5_1, f9_6, ok]
  rfl

theorem samoAnd (c d h i w q r s : _) : Statement (.samoAnd c d h i w q r s) := by
  intro ok
  have ok : (scopeOk s) = true := ok
  obtain ⟨f31_1, f25_6, f19_6, f15_4, f9_6, f6_3, f5_1, f4_1, f3_1, f0_3⟩ := lay1_6_6_4_6_3_1_1_1_3 (w := encode (.samoAnd c d h i w q r s)) (BitVec.ofBool c) 13#6 d h i 4#3 w q r s rfl
  rw [decodeBytes_wordBytes]
  unfold decode
  rw [f25_6]
  change decSamo _ = _
  unfold decSamo
  rw [f6_3]
  change pick (scopeOk (fld _ 0 3)) (true) (.samoAnd (cv _) (fld _ 19 6) (fld _ 15 4) (fld _ 9 6) (fld _ 5 1) (fld _ 4 1) (fld _ 3 1) (fld _ 0 3)) = _
  simp only [cv_of_fld f31_1, f0_3, f15_4, f19_6, f3_1, f4_1, f5_1, f9_6, ok]
  rfl

theorem samoOr (c d h i w q r s : _) : Statement (.samoOr c d h i w q r s) := by
  intro ok
  have ok : (scopeOk s) = true := ok
  obtain ⟨f31_1, f25_6, f19_6, f15_4, f9_6, f6_3, f5_1, f4_1, f3_1, f0_3⟩ := lay1_6_6_4_6_3_1_1_1_3 (w := encode (.samoOr c d h i w q r s)) (BitVec.ofBool c) 13#6 d h i 5#3 w q r s rfl
  rw [decodeBytes_wordBytes]
  unfold decode
  rw [f25_6]
  change decSamo _ = _
  unfold decSamo
  rw [f6_3]
  change pick (scopeOk (fld _ 0 3)) (true) (.samoOr (cv _) (fld _ 19 6) (fld _ 15 4) (fld _ 9 6) (fld _ 5 1) (fld _ 4 1) (fld _ 3 1) (fld _ 0 3)) = _
  simp only [cv_of_fld f31_1, f0_3, f15_4, f19_6, f3_1, f4_1, f5_1, f9_6, ok]
  rfl

theorem samoXor (c d h i w q r s : _) : Statement (.samoXor c d h i w q r s) := by
  intro ok
  have ok : (scopeOk s) = true := ok
  obtain ⟨f31_1, f25_6, f19_6, f15_4, f9_6, f6_3, f5_1, f4_1, f3_1, f0_3⟩ := lay1_6_6_4_6_3_1_1_1_3 (w := encode (.samoXor c d h i w q r s)) (BitVec.ofBool c) 13#6 d h i 6#3 w q r s rfl
  rw [decodeBytes_wordBytes]
  unfold decode
  rw [f25_6]
  change decSamo _ = _
  unfold decSamo
  rw [f6_3]
  change pick (scopeOk (fld _ 0 3)) (true) (.samoXor (cv _) (fld _ 19 6) (fld _ 15 4) (fld _ 9 6) (fld _ 5 1) (fld _ 4 1) (fld _ 3 1) (fld _ 0 3)) = _
  simp only [cv_of_fld f31_1, f0_3, f15_4, f19_6, f3_1, f4_1, f5_1, f9_6, ok]
  rfl

theorem samoSwap (c d h i w q r s : _) : Statement (.samoSwap c d h i w q r s) := by
  intro ok
  have ok : (scopeOk s) = true := ok
  obtain ⟨f31_1, f25_6, f19_6, f15_4, f9_6, f6_3, f5_1, f4_1, f3_1, f0_3⟩ := lay1_6_6_4_6_3_1_1_1_3 (w := encode (.samoSwap c d h i w q r s)) (BitVec.ofBool c) 13#6 d h i 7#3 w q r s rfl
  rw [decodeBytes_wordBytes]
  unfold decode
  rw [f25_6]
  change decSamo _ = _
  unfold decSamo
  rw [f6_3]
  change pick (scopeOk (fld _ 0 3)) (true) (.samoSwap (cv _) (fld _ 19 6) (fld _ 15 4) (fld _ 9 6) (fld _ 5 1) (fld _ 4 1) (fld _ 3 1) (fld _ 0 3)) = _
  simp only [cv_of_fld f31_1, f0_3, f15_4, f19_6, f3_1, f4_1, f5_1, f9_6, ok]
  rfl

theorem beq (c a b o : _) : Statement (.beq c a b o) := by
  intro _
  obtain ⟨f31_1, f25_6, f22_3, f16_6, f10_6, f0_10⟩ := lay1_9_6_6_10 (w := encode (.beq c a b o)) (BitVec.ofBool c) 112#9 a b o rfl
  rw [decodeBytes_wordBytes]
  unfold decode
  rw [f25_6]
  change decBra _ = _
  unfold decBra
  rw [f22_3]
  change Decoded.ok (.beq (cv _) (fld _ 16 6) (fld _ 10 6) (fld _ 0 10)) = _
  rw [cv_of_fld f31_1, f0_10, f10_6, f16_6]

theorem bne (c a b o : _) : Statement (.bne c a b o) := by
  intro _
  obtain ⟨f31_1, f25_6, f22_3, f16_6, f10_6, f0_10⟩ := lay1_9_6_6_10 (w := encode (.bne c a b o)) (BitVec.ofBool c) 113#9 a b o rfl
  rw [decodeBytes_wordBytes]
  unfold decode
  rw [f25_6]
  change decBra _ = _
  unfold decBra
  rw [f22_3]
  change Decoded.ok (.bne (cv _) (fld _ 16 6) (fld _ 10 6) (fld _ 0 10)) = _
  rw [cv_of_fld f31_1, f0_10, f10_6, f16_6]

theorem blt (c a b o : _) : Statement (.blt c a b o) := by
  intro _
  obtain ⟨f31_1, f25_6, f22_3, f16_6, f10_6, f0_10⟩ := lay1_9_6_6_10 (w := encode (.blt c a b o)) (BitVec.ofBool c) 114#9 a b o rfl
  rw [decodeBytes_wordBytes]
  unfold decode
  rw [f25_6]
  change decBra _ = _
  unfold decBra
  rw [f22_3]
  change Decoded.ok (.blt (cv _) (fld _ 16 6) (fld _ 10 6) (fld _ 0 10)) = _
  rw [cv_of_fld f31_1, f0_10, f10_6, f16_6]

theorem bge (c a b o : _) : Statement (.bge c a b o) := by
  intro _
  obtain ⟨f31_1, f25_6, f22_3, f16_6, f10_6, f0_10⟩ := lay1_9_6_6_10 (w := encode (.bge c a b o)) (BitVec.ofBool c) 115#9 a b o rfl
  rw [decodeBytes_wordBytes]
  unfold decode
  rw [f25_6]
  change decBra _ = _
  unfold decBra
  rw [f22_3]
  change Decoded.ok (.bge (cv _) (fld _ 16 6) (fld _ 10 6) (fld _ 0 10)) = _
  rw [cv_of_fld f31_1, f0_10, f10_6, f16_6]

theorem bltu (c a b o : _) : Statement (.bltu c a b o) := by
  intro _
  obtain ⟨f31_1, f25_6, f22_3, f16_6, f10_6, f0_10⟩ := lay1_9_6_6_10 (w := encode (.bltu c a b o)) (BitVec.ofBool c) 116#9 a b o rfl
  rw [decodeBytes_wordBytes]
  unfold decode
  rw [f25_6]
  change decBra _ = _
  unfold decBra
  rw [f22_3]
  change Decoded.ok (.bltu (cv _) (fld _ 16 6) (fld _ 10 6) (fld _ 0 10)) = _
  rw [cv_of_fld f31_1, f0_10, f10_6, f16_6]

theorem bgeu (c a b o : _) : Statement (.bgeu c a b o) := by
  intro _
  obtain ⟨f31_1, f25_6, f22_3, f16_6, f10_6, f0_10⟩ := lay1_9_6_6_10 (w := encode (.bgeu c a b o)) (BitVec.ofBool c) 117#9 a b o rfl
  rw [decodeBytes_wordBytes]
  unfold decode
  rw [f25_6]
  change decBra _ = _
  unfold decBra
  rw [f22_3]
  change Decoded.ok (.bgeu (cv _) (fld _ 16 6) (fld _ 10 6) (fld _ 0 10)) = _
  rw [cv_of_fld f31_1, f0_10, f10_6, f16_6]

theorem jal (c d i : _) : Statement (.jal c d i) := by
  intro _
  obtain ⟨f31_1, f25_6, f19_6, f0_19⟩ := lay1_6_6_19 (w := encode (.jal c d i)) (BitVec.ofBool c) 15#6 d i rfl
  rw [decodeBytes_wordBytes]
  unfold decode
  rw [f25_6]
  change Decoded.ok (.jal (cv _) (fld _ 19 6) (fld _ 0 19)) = _
  rw [cv_of_fld f31_1, f0_19, f19_6]

theorem jalr (c d a i : _) : Statement (.jalr c d a i) := by
  intro _
  obtain ⟨f31_1, f25_6, f19_6, f13_6, -, -, -, -, -, -, -, f0_13, -, -, -, -, -⟩ := lay1_6_6_6_13 (w := encode (.jalr c d a i)) (BitVec.ofBool c) 16#6 d a i rfl
  rw [decodeBytes_wordBytes]
  unfold decode
  rw [f25_6]
  change Decoded.ok (.jalr (cv _) (fld _ 19 6) (fld _ 13 6) (fld _ 0 13)) = _
  rw [cv_of_fld f31_1, f0_13, f13_6, f19_6]

theorem subbnz (c a b o : _) : Statement (.subbnz c a b o) := by
  intro _
  obtain ⟨f31_1, f25_6, f22_3, f16_6, f10_6, f0_10⟩ := lay1_9_6_6_10 (w := encode (.subbnz c a b o)) (BitVec.ofBool c) 136#9 a b o rfl
  rw [decodeBytes_wordBytes]
  unfold decode
  rw [f25_6]
  change pick (true) (fld _ 22 3 == 0) (.subbnz (cv _) (fld _ 16 6) (fld _ 10 6) (fld _ 0 10)) = _
  simp only [cv_of_fld f31_1, f0_10, f10_6, f16_6, f22_3]
  rfl

theorem vcfg (c n t : _) : Statement (.vcfg c n t) := by
  intro _
  obtain ⟨f31_1, f25_6, f13_12, f10_3, f8_2, f0_8⟩ := lay1_21_2_8 (w := encode (.vcfg c n t)) (BitVec.ofBool c) 589824#21 n t rfl
  rw [decodeBytes_wordBytes]
  unfold decode
  rw [f25_6]
  change decCfg _ = _
  unfold decCfg
  rw [f10_3]
  change pick (true) (fld _ 13 12 == 0) (.vcfg (cv _) (fld _ 8 2) (fld _ 0 8)) = _
  simp only [cv_of_fld f31_1, f0_8, f13_12, f8_2]
  rfl

theorem vtag (c d t : _) : Statement (.vtag c d t) := by
  intro _
  obtain ⟨f31_1, f25_6, f19_6, f13_6, f10_3, -, f8_2, f0_8⟩ := lay1_6_6_11_8 (w := encode (.vtag c d t)) (BitVec.ofBool c) 18#6 d 4#11 t rfl
  rw [decodeBytes_wordBytes]
  unfold decode
  rw [f25_6]
  change decCfg _ = _
  unfold decCfg
  rw [f10_3]
  change pick (true) (fld _ 8 2 == 0 && fld _ 13 6 == 0) (.vtag (cv _) (fld _ 19 6) (fld _ 0 8)) = _
  simp only [cv_of_fld f31_1, f0_8, f13_6, f19_6, f8_2]
  rfl

theorem vsetvl (c d a b : _) : Statement (.vsetvl c d a b) := by
  intro _
  obtain ⟨f31_1, f25_6, f19_6, f13_6, -, f10_3, -, f6_4, f0_6⟩ := lay1_6_6_6_7_6 (w := encode (.vsetvl c d a b)) (BitVec.ofBool c) 18#6 d a 32#7 b rfl
  rw [decodeBytes_wordBytes]
  unfold decode
  rw [f25_6]
  change decCfg _ = _
  unfold decCfg
  rw [f10_3]
  change pick (true) (fld _ 6 4 == 0) (.vsetvl (cv _) (fld _ 19 6) (fld _ 13 6) (fld _ 0 6)) = _
  simp only [cv_of_fld f31_1, f0_6, f13_6, f19_6, f6_4]
  rfl

theorem vsetvlg (c d a b : _) : Statement (.vsetvlg c d a b) := by
  intro _
  obtain ⟨f31_1, f25_6, f19_6, f13_6, -, f10_3, -, f6_4, f0_6⟩ := lay1_6_6_6_7_6 (w := encode (.vsetvlg c d a b)) (BitVec.ofBool c) 18#6 d a 48#7 b rfl
  rw [decodeBytes_wordBytes]
  unfold decode
  rw [f25_6]
  change decCfg _ = _
  unfold decCfg
  rw [f10_3]
  change pick (true) (fld _ 6 4 == 0) (.vsetvlg (cv _) (fld _ 19 6) (fld _ 13 6) (fld _ 0 6)) = _
  simp only [cv_of_fld f31_1, f0_6, f13_6, f19_6, f6_4]
  rfl

theorem part (c n : _) : Statement (.part c n) := by
  intro ok
  have ok : ((n == 1 || n == 2 || n == 4 || n == 8)) = true := ok
  obtain ⟨f31_1, f25_6, f13_12, f10_3, f4_6, f0_4⟩ := lay1_27_4 (w := encode (.part c n)) (BitVec.ofBool c) 37748992#27 n rfl
  rw [decodeBytes_wordBytes]
  unfold decode
  rw [f25_6]
  change decCfg _ = _
  unfold decCfg
  rw [f10_3]
  change pick (((fld _ 0 4) == 1 || (fld _ 0 4) == 2 || (fld _ 0 4) == 4 || (fld _ 0 4) == 8)) (fld _ 4 6 == 0 && fld _ 13 12 == 0) (.part (cv _) (fld _ 0 4)) = _
  simp only [cv_of_fld f31_1, f0_4, f13_12, f4_6, ok]
  rfl

theorem cbld (c d a k h : _) : Statement (.cbld c d a k h) := by
  intro _
  obtain ⟨f31_1, f25_6, f19_6, f13_6, f10_3, f4_6, f0_4⟩ := lay1_6_6_6_3_6_4 (w := encode (.cbld c d a k h)) (BitVec.ofBool c) 18#6 d a 5#3 k h rfl
  rw [decodeBytes_wordBytes]
  unfold decode
  rw [f25_6]
  change decCfg _ = _
  unfold decCfg
  rw [f10_3]
  change Decoded.ok (.cbld (cv _) (fld _ 19 6) (fld _ 13 6) (fld _ 4 6) (fld _ 0 4)) = _
  rw [cv_of_fld f31_1, f0_4, f13_6, f19_6, f4_6]

theorem hspawn (c d a o : _) : Statement (.hspawn c d a o) := by
  intro _
  obtain ⟨f31_1, f25_6, f19_6, f13_6, f10_3, f0_10⟩ := lay1_6_6_6_3_10 (w := encode (.hspawn c d a o)) (BitVec.ofBool c) 19#6 d a 0#3 o rfl
  rw [decodeBytes_wordBytes]
  unfold decode
  rw [f25_6]
  change decHart _ = _
  unfold decHart
  rw [f10_3]
  change Decoded.ok (.hspawn (cv _) (fld _ 19 6) (fld _ 13 6) (fld _ 0 10)) = _
  rw [cv_of_fld f31_1, f0_10, f13_6, f19_6]

theorem hexit (c : _) : Statement (.hexit c) := by
  intro _
  obtain ⟨f31_1, f25_6, f13_12, f10_3, -, f0_10, -⟩ := lay1_31 (w := encode (.hexit c)) (BitVec.ofBool c) 637535232#31 rfl
  rw [decodeBytes_wordBytes]
  unfold decode
  rw [f25_6]
  change decHart _ = _
  unfold decHart
  rw [f10_3]
  change pick (true) (fld _ 0 10 == 0 && fld _ 13 12 == 0) (.hexit (cv _)) = _
  simp only [cv_of_fld f31_1, f0_10, f13_12]
  rfl

theorem hwait (c a : _) : Statement (.hwait c a) := by
  intro _
  obtain ⟨f31_1, f25_6, f19_6, f13_6, f10_3, f0_10⟩ := lay1_12_6_13 (w := encode (.hwait c a)) (BitVec.ofBool c) 1216#12 a 2048#13 rfl
  rw [decodeBytes_wordBytes]
  unfold decode
  rw [f25_6]
  change decHart _ = _
  unfold decHart
  rw [f10_3]
  change pick (true) (fld _ 0 10 == 0 && fld _ 19 6 == 0) (.hwait (cv _) (fld _ 13 6)) = _
  simp only [cv_of_fld f31_1, f0_10, f13_6, f19_6]
  rfl

theorem yield (c : _) : Statement (.yield c) := by
  intro _
  obtain ⟨f31_1, f25_6, f13_12, f10_3, -, f0_10, -⟩ := lay1_31 (w := encode (.yield c)) (BitVec.ofBool c) 637537280#31 rfl
  rw [decodeBytes_wordBytes]
  unfold decode
  rw [f25_6]
  change decHart _ = _
  unfold decHart
  rw [f10_3]
  change pick (true) (fld _ 0 10 == 0 && fld _ 13 12 == 0) (.yield (cv _)) = _
  simp only [cv_of_fld f31_1, f0_10, f13_12]
  rfl

theorem gang (c a : _) : Statement (.gang c a) := by
  intro _
  obtain ⟨f31_1, f25_6, f19_6, f13_6, f10_3, f0_10⟩ := lay1_12_6_13 (w := encode (.gang c a)) (BitVec.ofBool c) 1216#12 a 4096#13 rfl
  rw [decodeBytes_wordBytes]
  unfold decode
  rw [f25_6]
  change decHart _ = _
  unfold decHart
  rw [f10_3]
  change pick (true) (fld _ 0 10 == 0 && fld _ 19 6 == 0) (.gang (cv _) (fld _ 13 6)) = _
  simp only [cv_of_fld f31_1, f0_10, f13_6, f19_6]
  rfl

theorem gbar (c : _) : Statement (.gbar c) := by
  intro _
  obtain ⟨f31_1, f25_6, f13_12, f10_3, -, f0_10, -⟩ := lay1_31 (w := encode (.gbar c)) (BitVec.ofBool c) 637539328#31 rfl
  rw [decodeBytes_wordBytes]
  unfold decode
  rw [f25_6]
  change decHart _ = _
  unfold decHart
  rw [f10_3]
  change pick (true) (fld _ 0 10 == 0 && fld _ 13 12 == 0) (.gbar (cv _)) = _
  simp only [cv_of_fld f31_1, f0_10, f13_12]
  rfl

theorem lspop (c d a : _) : Statement (.lspop c d a) := by
  intro _
  obtain ⟨f31_1, f25_6, f19_6, f13_6, f10_3, -, -, -, -, -, -, -, f0_10, -, -, -, -⟩ := lay1_6_6_6_13 (w := encode (.lspop c d a)) (BitVec.ofBool c) 19#6 d a 6144#13 rfl
  rw [decodeBytes_wordBytes]
  unfold decode
  rw [f25_6]
  change decHart _ = _
  unfold decHart
  rw [f10_3]
  change pick (true) (fld _ 0 10 == 0) (.lspop (cv _) (fld _ 19 6) (fld _ 13 6)) = _
  simp only [cv_of_fld f31_1, f0_10, f13_6, f19_6]
  rfl

theorem lspush (c a : _) : Statement (.lspush c a) := by
  intro _
  obtain ⟨f31_1, f25_6, f19_6, f13_6, f10_3, f0_10⟩ := lay1_12_6_13 (w := encode (.lspush c a)) (BitVec.ofBool c) 1216#12 a 7168#13 rfl
  rw [decodeBytes_wordBytes]
  unfold decode
  rw [f25_6]
  change decHart _ = _
  unfold decHart
  rw [f10_3]
  change pick (true) (fld _ 0 10 == 0 && fld _ 19 6 == 0) (.lspush (cv _) (fld _ 13 6)) = _
  simp only [cv_of_fld f31_1, f0_10, f13_6, f19_6]
  rfl

theorem vadd (c d a b e m : _) : Statement (.vadd c d a b e m) := by
  intro _
  obtain ⟨f31_1, f25_6, f19_6, f13_6, f7_6, f4_3, f2_2, f0_2⟩ := lay1_6_6_6_6_3_2_2 (w := encode (.vadd c d a b e m)) (BitVec.ofBool c) 20#6 d a b e m 0#2 rfl
  rw [decodeBytes_wordBytes]
  unfold decode
  rw [f25_6]
  change pick (true) (fld _ 0 2 == 0) (.vadd (cv _) (fld _ 19 6) (fld _ 13 6) (fld _ 7 6) (fld _ 4 3) (fld _ 2 2)) = _
  simp only [cv_of_fld f31_1, f0_2, f13_6, f19_6, f2_2, f4_3, f7_6]
  rfl

theorem vsub (c d a b e m : _) : Statement (.vsub c d a b e m) := by
  intro _
  obtain ⟨f31_1, f25_6, f19_6, f13_6, f7_6, f4_3, f2_2, f0_2⟩ := lay1_6_6_6_6_3_2_2 (w := encode (.vsub c d a b e m)) (BitVec.ofBool c) 21#6 d a b e m 0#2 rfl
  rw [decodeBytes_wordBytes]
  unfold decode
  rw [f25_6]
  change pick (true) (fld _ 0 2 == 0) (.vsub (cv _) (fld _ 19 6) (fld _ 13 6) (fld _ 7 6) (fld _ 4 3) (fld _ 2 2)) = _
  simp only [cv_of_fld f31_1, f0_2, f13_6, f19_6, f2_2, f4_3, f7_6]
  rfl

theorem vmul (c d a b e m : _) : Statement (.vmul c d a b e m) := by
  intro _
  obtain ⟨f31_1, f25_6, f19_6, f13_6, f7_6, f4_3, f2_2, f0_2⟩ := lay1_6_6_6_6_3_2_2 (w := encode (.vmul c d a b e m)) (BitVec.ofBool c) 22#6 d a b e m 0#2 rfl
  rw [decodeBytes_wordBytes]
  unfold decode
  rw [f25_6]
  change pick (true) (fld _ 0 2 == 0) (.vmul (cv _) (fld _ 19 6) (fld _ 13 6) (fld _ 7 6) (fld _ 4 3) (fld _ 2 2)) = _
  simp only [cv_of_fld f31_1, f0_2, f13_6, f19_6, f2_2, f4_3, f7_6]
  rfl

theorem vmulh (c d a b e m : _) : Statement (.vmulh c d a b e m) := by
  intro _
  obtain ⟨f31_1, f25_6, f19_6, f13_6, f7_6, f4_3, f2_2, f0_2⟩ := lay1_6_6_6_6_3_2_2 (w := encode (.vmulh c d a b e m)) (BitVec.ofBool c) 23#6 d a b e m 0#2 rfl
  rw [decodeBytes_wordBytes]
  unfold decode
  rw [f25_6]
  change pick (true) (fld _ 0 2 == 0) (.vmulh (cv _) (fld _ 19 6) (fld _ 13 6) (fld _ 7 6) (fld _ 4 3) (fld _ 2 2)) = _
  simp only [cv_of_fld f31_1, f0_2, f13_6, f19_6, f2_2, f4_3, f7_6]
  rfl

theorem vfma (c d a b e m : _) : Statement (.vfma c d a b e m) := by
  intro _
  obtain ⟨f31_1, f25_6, f19_6, f13_6, f7_6, f4_3, f2_2, f0_2⟩ := lay1_6_6_6_6_3_2_2 (w := encode (.vfma c d a b e m)) (BitVec.ofBool c) 24#6 d a b e m 0#2 rfl
  rw [decodeBytes_wordBytes]
  unfold decode
  rw [f25_6]
  change pick (true) (fld _ 0 2 == 0) (.vfma (cv _) (fld _ 19 6) (fld _ 13 6) (fld _ 7 6) (fld _ 4 3) (fld _ 2 2)) = _
  simp only [cv_of_fld f31_1, f0_2, f13_6, f19_6, f2_2, f4_3, f7_6]
  rfl

theorem vfms (c d a b e m : _) : Statement (.vfms c d a b e m) := by
  intro _
  obtain ⟨f31_1, f25_6, f19_6, f13_6, f7_6, f4_3, f2_2, f0_2⟩ := lay1_6_6_6_6_3_2_2 (w := encode (.vfms c d a b e m)) (BitVec.ofBool c) 25#6 d a b e m 0#2 rfl
  rw [decodeBytes_wordBytes]
  unfold decode
  rw [f25_6]
  change pick (true) (fld _ 0 2 == 0) (.vfms (cv _) (fld _ 19 6) (fld _ 13 6) (fld _ 7 6) (fld _ 4 3) (fld _ 2 2)) = _
  simp only [cv_of_fld f31_1, f0_2, f13_6, f19_6, f2_2, f4_3, f7_6]
  rfl

theorem vdiv (c d a b e m : _) : Statement (.vdiv c d a b e m) := by
  intro _
  obtain ⟨f31_1, f25_6, f19_6, f13_6, f7_6, f4_3, f2_2, f0_2⟩ := lay1_6_6_6_6_3_2_2 (w := encode (.vdiv c d a b e m)) (BitVec.ofBool c) 26#6 d a b e m 0#2 rfl
  rw [decodeBytes_wordBytes]
  unfold decode
  rw [f25_6]
  change pick (true) (fld _ 0 2 == 0) (.vdiv (cv _) (fld _ 19 6) (fld _ 13 6) (fld _ 7 6) (fld _ 4 3) (fld _ 2 2)) = _
  simp only [cv_of_fld f31_1, f0_2, f13_6, f19_6, f2_2, f4_3, f7_6]
  rfl

theorem vrem (c d a b e m : _) : Statement (.vrem c d a b e m) := by
  intro _
  obtain ⟨f31_1, f25_6, f19_6, f13_6, f7_6, f4_3, f2_2, f0_2⟩ := lay1_6_6_6_6_3_2_2 (w := encode (.vrem c d a b e m)) (BitVec.ofBool c) 27#6 d a b e m 0#2 rfl
  rw [decodeBytes_wordBytes]
  unfold decode
  rw [f25_6]
  change pick (true) (fld _ 0 2 == 0) (.vrem (cv _) (fld _ 19 6) (fld _ 13 6) (fld _ 7 6) (fld _ 4 3) (fld _ 2 2)) = _
  simp only [cv_of_fld f31_1, f0_2, f13_6, f19_6, f2_2, f4_3, f7_6]
  rfl

theorem vmin (c d a b e m : _) : Statement (.vmin c d a b e m) := by
  intro _
  obtain ⟨f31_1, f25_6, f19_6, f13_6, f7_6, f4_3, f2_2, f0_2⟩ := lay1_6_6_6_6_3_2_2 (w := encode (.vmin c d a b e m)) (BitVec.ofBool c) 28#6 d a b e m 0#2 rfl
  rw [decodeBytes_wordBytes]
  unfold decode
  rw [f25_6]
  change pick (true) (fld _ 0 2 == 0) (.vmin (cv _) (fld _ 19 6) (fld _ 13 6) (fld _ 7 6) (fld _ 4 3) (fld _ 2 2)) = _
  simp only [cv_of_fld f31_1, f0_2, f13_6, f19_6, f2_2, f4_3, f7_6]
  rfl

theorem vmax (c d a b e m : _) : Statement (.vmax c d a b e m) := by
  intro _
  obtain ⟨f31_1, f25_6, f19_6, f13_6, f7_6, f4_3, f2_2, f0_2⟩ := lay1_6_6_6_6_3_2_2 (w := encode (.vmax c d a b e m)) (BitVec.ofBool c) 29#6 d a b e m 0#2 rfl
  rw [decodeBytes_wordBytes]
  unfold decode
  rw [f25_6]
  change pick (true) (fld _ 0 2 == 0) (.vmax (cv _) (fld _ 19 6) (fld _ 13 6) (fld _ 7 6) (fld _ 4 3) (fld _ 2 2)) = _
  simp only [cv_of_fld f31_1, f0_2, f13_6, f19_6, f2_2, f4_3, f7_6]
  rfl

theorem vand (c d a b e m : _) : Statement (.vand c d a b e m) := by
  intro _
  obtain ⟨f31_1, f25_6, f19_6, f13_6, f7_6, f4_3, f2_2, f0_2⟩ := lay1_6_6_6_6_3_2_2 (w := encode (.vand c d a b e m)) (BitVec.ofBool c) 30#6 d a b e m 0#2 rfl
  rw [decodeBytes_wordBytes]
  unfold decode
  rw [f25_6]
  change pick (true) (fld _ 0 2 == 0) (.vand (cv _) (fld _ 19 6) (fld _ 13 6) (fld _ 7 6) (fld _ 4 3) (fld _ 2 2)) = _
  simp only [cv_of_fld f31_1, f0_2, f13_6, f19_6, f2_2, f4_3, f7_6]
  rfl

theorem vor (c d a b e m : _) : Statement (.vor c d a b e m) := by
  intro _
  obtain ⟨f31_1, f25_6, f19_6, f13_6, f7_6, f4_3, f2_2, f0_2⟩ := lay1_6_6_6_6_3_2_2 (w := encode (.vor c d a b e m)) (BitVec.ofBool c) 31#6 d a b e m 0#2 rfl
  rw [decodeBytes_wordBytes]
  unfold decode
  rw [f25_6]
  change pick (true) (fld _ 0 2 == 0) (.vor (cv _) (fld _ 19 6) (fld _ 13 6) (fld _ 7 6) (fld _ 4 3) (fld _ 2 2)) = _
  simp only [cv_of_fld f31_1, f0_2, f13_6, f19_6, f2_2, f4_3, f7_6]
  rfl

theorem vxor (c d a b e m : _) : Statement (.vxor c d a b e m) := by
  intro _
  obtain ⟨f31_1, f25_6, f19_6, f13_6, f7_6, f4_3, f2_2, f0_2⟩ := lay1_6_6_6_6_3_2_2 (w := encode (.vxor c d a b e m)) (BitVec.ofBool c) 32#6 d a b e m 0#2 rfl
  rw [decodeBytes_wordBytes]
  unfold decode
  rw [f25_6]
  change pick (true) (fld _ 0 2 == 0) (.vxor (cv _) (fld _ 19 6) (fld _ 13 6) (fld _ 7 6) (fld _ 4 3) (fld _ 2 2)) = _
  simp only [cv_of_fld f31_1, f0_2, f13_6, f19_6, f2_2, f4_3, f7_6]
  rfl

theorem vshl (c d a b e m : _) : Statement (.vshl c d a b e m) := by
  intro _
  obtain ⟨f31_1, f25_6, f19_6, f13_6, f7_6, f4_3, f2_2, f0_2⟩ := lay1_6_6_6_6_3_2_2 (w := encode (.vshl c d a b e m)) (BitVec.ofBool c) 33#6 d a b e m 0#2 rfl
  rw [decodeBytes_wordBytes]
  unfold decode
  rw [f25_6]
  change pick (true) (fld _ 0 2 == 0) (.vshl (cv _) (fld _ 19 6) (fld _ 13 6) (fld _ 7 6) (fld _ 4 3) (fld _ 2 2)) = _
  simp only [cv_of_fld f31_1, f0_2, f13_6, f19_6, f2_2, f4_3, f7_6]
  rfl

theorem vshrL (c d a b e m : _) : Statement (.vshrL c d a b e m) := by
  intro _
  obtain ⟨f31_1, f25_6, f19_6, f13_6, f7_6, f4_3, f2_2, f0_2⟩ := lay1_6_6_6_6_3_2_2 (w := encode (.vshrL c d a b e m)) (BitVec.ofBool c) 34#6 d a b e m 0#2 rfl
  rw [decodeBytes_wordBytes]
  unfold decode
  rw [f25_6]
  change decVshr _ = _
  unfold decVshr
  rw [f0_2]
  change Decoded.ok (.vshrL (cv _) (fld _ 19 6) (fld _ 13 6) (fld _ 7 6) (fld _ 4 3) (fld _ 2 2)) = _
  rw [cv_of_fld f31_1, f13_6, f19_6, f2_2, f4_3, f7_6]

theorem vshrA (c d a b e m : _) : Statement (.vshrA c d a b e m) := by
  intro _
  obtain ⟨f31_1, f25_6, f19_6, f13_6, f7_6, f4_3, f2_2, f0_2⟩ := lay1_6_6_6_6_3_2_2 (w := encode (.vshrA c d a b e m)) (BitVec.ofBool c) 34#6 d a b e m 1#2 rfl
  rw [decodeBytes_wordBytes]
  unfold decode
  rw [f25_6]
  change decVshr _ = _
  unfold decVshr
  rw [f0_2]
  change Decoded.ok (.vshrA (cv _) (fld _ 19 6) (fld _ 13 6) (fld _ 7 6) (fld _ 4 3) (fld _ 2 2)) = _
  rw [cv_of_fld f31_1, f13_6, f19_6, f2_2, f4_3, f7_6]

theorem vshrAr (c d a b e m : _) : Statement (.vshrAr c d a b e m) := by
  intro _
  obtain ⟨f31_1, f25_6, f19_6, f13_6, f7_6, f4_3, f2_2, f0_2⟩ := lay1_6_6_6_6_3_2_2 (w := encode (.vshrAr c d a b e m)) (BitVec.ofBool c) 34#6 d a b e m 2#2 rfl
  rw [decodeBytes_wordBytes]
  unfold decode
  rw [f25_6]
  change decVshr _ = _
  unfold decVshr
  rw [f0_2]
  change Decoded.ok (.vshrAr (cv _) (fld _ 19 6) (fld _ 13 6) (fld _ 7 6) (fld _ 4 3) (fld _ 2 2)) = _
  rw [cv_of_fld f31_1, f13_6, f19_6, f2_2, f4_3, f7_6]

theorem vcmp (c o d a b e m : _) : Statement (.vcmp c o d a b e m) := by
  intro ok
  have ok : (decide (o.toNat < 6)) = true := ok
  obtain ⟨f31_1, f25_6, f22_3, f19_3, f13_6, f7_6, f4_3, f2_2, f0_2⟩ := lay1_6_3_3_6_6_3_2_2 (w := encode (.vcmp c o d a b e m)) (BitVec.ofBool c) 35#6 o d a b e m 0#2 rfl
  rw [decodeBytes_wordBytes]
  unfold decode
  rw [f25_6]
  change pick ((fld _ 22 3).toNat < 6) (fld _ 0 2 == 0) (.vcmp (cv _) (fld _ 22 3) (fld _ 19 3) (fld _ 13 6) (fld _ 7 6) (fld _ 4 3) (fld _ 2 2)) = _
  simp only [cv_of_fld f31_1, f0_2, f13_6, f19_3, f22_3, f2_2, f4_3, f7_6, ok]
  rfl

theorem vsel (c d a b e m : _) : Statement (.vsel c d a b e m) := by
  intro _
  obtain ⟨f31_1, f25_6, f19_6, f13_6, f7_6, f4_3, f2_2, f0_2⟩ := lay1_6_6_6_6_3_2_2 (w := encode (.vsel c d a b e m)) (BitVec.ofBool c) 36#6 d a b e m 0#2 rfl
  rw [decodeBytes_wordBytes]
  unfold decode
  rw [f25_6]
  change pick (true) (fld _ 0 2 == 0) (.vsel (cv _) (fld _ 19 6) (fld _ 13 6) (fld _ 7 6) (fld _ 4 3) (fld _ 2 2)) = _
  simp only [cv_of_fld f31_1, f0_2, f13_6, f19_6, f2_2, f4_3, f7_6]
  rfl

theorem vabs (c d a m : _) : Statement (.vabs c d a m) := by
  intro _
  obtain ⟨f31_1, f25_6, f19_6, f13_6, f7_6, -, f4_3, f2_2, f0_2⟩ := lay1_6_6_6_9_2_2 (w := encode (.vabs c d a m)) (BitVec.ofBool c) 37#6 d a 0#9 m 0#2 rfl
  rw [decodeBytes_wordBytes]
  unfold decode
  rw [f25_6]
  change decVun _ = _
  unfold decVun
  rw [f7_6]
  change pick (true) (fld _ 0 2 == 0 && fld _ 4 3 == 0) (.vabs (cv _) (fld _ 19 6) (fld _ 13 6) (fld _ 2 2)) = _
  simp only [cv_of_fld f31_1, f0_2, f13_6, f19_6, f2_2, f4_3]
  rfl

theorem vneg (c d a m : _) : Statement (.vneg c d a m) := by
  intro _
  obtain ⟨f31_1, f25_6, f19_6, f13_6, f7_6, -, f4_3, f2_2, f0_2⟩ := lay1_6_6_6_9_2_2 (w := encode (.vneg c d a m)) (BitVec.ofBool c) 37#6 d a 8#9 m 0#2 rfl
  rw [decodeBytes_wordBytes]
  unfold decode
  rw [f25_6]
  change decVun _ = _
  unfold decVun
  rw [f7_6]
  change pick (true) (fld _ 0 2 == 0 && fld _ 4 3 == 0) (.vneg (cv _) (fld _ 19 6) (fld _ 13 6) (fld _ 2 2)) = _
  simp only [cv_of_fld f31_1, f0_2, f13_6, f19_6, f2_2, f4_3]
  rfl

theorem vnot (c d a m : _) : Statement (.vnot c d a m) := by
  intro _
  obtain ⟨f31_1, f25_6, f19_6, f13_6, f7_6, -, f4_3, f2_2, f0_2⟩ := lay1_6_6_6_9_2_2 (w := encode (.vnot c d a m)) (BitVec.ofBool c) 37#6 d a 16#9 m 0#2 rfl
  rw [decodeBytes_wordBytes]
  unfold decode
  rw [f25_6]
  change decVun _ = _
  unfold decVun
  rw [f7_6]
  change pick (true) (fld _ 0 2 == 0 && fld _ 4 3 == 0) (.vnot (cv _) (fld _ 19 6) (fld _ 13 6) (fld _ 2 2)) = _
  simp only [cv_of_fld f31_1, f0_2, f13_6, f19_6, f2_2, f4_3]
  rfl

theorem vsqrt (c d a m : _) : Statement (.vsqrt c d a m) := by
  intro _
  obtain ⟨f31_1, f25_6, f19_6, f13_6, f7_6, -, f4_3, f2_2, f0_2⟩ := lay1_6_6_6_9_2_2 (w := encode (.vsqrt c d a m)) (BitVec.ofBool c) 37#6 d a 24#9 m 0#2 rfl
  rw [decodeBytes_wordBytes]
  unfold decode
  rw [f25_6]
  change decVun _ = _
  unfold decVun
  rw [f7_6]
  change pick (true) (fld _ 0 2 == 0 && fld _ 4 3 == 0) (.vsqrt (cv _) (fld _ 19 6) (fld _ 13 6) (fld _ 2 2)) = _
  simp only [cv_of_fld f31_1, f0_2, f13_6, f19_6, f2_2, f4_3]
  rfl

theorem vclz (c d a m : _) : Statement (.vclz c d a m) := by
  intro _
  obtain ⟨f31_1, f25_6, f19_6, f13_6, f7_6, -, f4_3, f2_2, f0_2⟩ := lay1_6_6_6_9_2_2 (w := encode (.vclz c d a m)) (BitVec.ofBool c) 37#6 d a 32#9 m 0#2 rfl
  rw [decodeBytes_wordBytes]
  unfold decode
  rw [f25_6]
  change decVun _ = _
  unfold decVun
  rw [f7_6]
  change pick (true) (fld _ 0 2 == 0 && fld _ 4 3 == 0) (.vclz (cv _) (fld _ 19 6) (fld _ 13 6) (fld _ 2 2)) = _
  simp only [cv_of_fld f31_1, f0_2, f13_6, f19_6, f2_2, f4_3]
  rfl

theorem vpopc (c d a m : _) : Statement (.vpopc c d a m) := by
  intro _
  obtain ⟨f31_1, f25_6, f19_6, f13_6, f7_6, -, f4_3, f2_2, f0_2⟩ := lay1_6_6_6_9_2_2 (w := encode (.vpopc c d a m)) (BitVec.ofBool c) 37#6 d a 40#9 m 0#2 rfl
  rw [decodeBytes_wordBytes]
  unfold decode
  rw [f25_6]
  change decVun _ = _
  unfold decVun
  rw [f7_6]
  change pick (true) (fld _ 0 2 == 0 && fld _ 4 3 == 0) (.vpopc (cv _) (fld _ 19 6) (fld _ 13 6) (fld _ 2 2)) = _
  simp only [cv_of_fld f31_1, f0_2, f13_6, f19_6, f2_2, f4_3]
  rfl

theorem vmv (c d a m : _) : Statement (.vmv c d a m) := by
  intro _
  obtain ⟨f31_1, f25_6, f19_6, f13_6, f7_6, -, f4_3, f2_2, f0_2⟩ := lay1_6_6_6_9_2_2 (w := encode (.vmv c d a m)) (BitVec.ofBool c) 37#6 d a 48#9 m 0#2 rfl
  rw [decodeBytes_wordBytes]
  unfold decode
  rw [f25_6]
  change decVun _ = _
  unfold decVun
  rw [f7_6]
  change pick (true) (fld _ 0 2 == 0 && fld _ 4 3 == 0) (.vmv (cv _) (fld _ 19 6) (fld _ 13 6) (fld _ 2 2)) = _
  simp only [cv_of_fld f31_1, f0_2, f13_6, f19_6, f2_2, f4_3]
  rfl

theorem viota (c d m : _) : Statement (.viota c d m) := by
  intro _
  obtain ⟨f31_1, f25_6, f19_6, f13_6, f7_6, f4_3, f2_2, f0_2⟩ := lay1_6_6_15_2_2 (w := encode (.viota c d m)) (BitVec.ofBool c) 37#6 d 56#15 m 0#2 rfl
  rw [decodeBytes_wordBytes]
  unfold decode
  rw [f25_6]
  change decVun _ = _
  unfold decVun
  rw [f7_6]
  change pick (true) (fld _ 0 2 == 0 && fld _ 4 3 == 0 && fld _ 13 6 == 0) (.viota (cv _) (fld _ 19 6) (fld _ 2 2)) = _
  simp only [cv_of_fld f31_1, f0_2, f13_6, f19_6, f2_2, f4_3]
  rfl

theorem vcvt (c d a m : _) : Statement (.vcvt c d a m) := by
  intro _
  obtain ⟨f31_1, f25_6, f19_6, f13_6, f7_6, -, f4_3, f2_2, f0_2⟩ := lay1_6_6_6_9_2_2 (w := encode (.vcvt c d a m)) (BitVec.ofBool c) 37#6 d a 64#9 m 0#2 rfl
  rw [decodeBytes_wordBytes]
  unfold decode
  rw [f25_6]
  change decVun _ = _
  unfold decVun
  rw [f7_6]
  change pick (true) (fld _ 0 2 == 0 && fld _ 4 3 == 0) (.vcvt (cv _) (fld _ 19 6) (fld _ 13 6) (fld _ 2 2)) = _
  simp only [cv_of_fld f31_1, f0_2, f13_6, f19_6, f2_2, f4_3]
  rfl

theorem vrscale (c d a m : _) : Statement (.vrscale c d a m) := by
  intro _
  obtain ⟨f31_1, f25_6, f19_6, f13_6, f7_6, -, f4_3, f2_2, f0_2⟩ := lay1_6_6_6_9_2_2 (w := encode (.vrscale c d a m)) (BitVec.ofBool c) 37#6 d a 72#9 m 0#2 rfl
  rw [decodeBytes_wordBytes]
  unfold decode
  rw [f25_6]
  change decVun _ = _
  unfold decVun
  rw [f7_6]
  change pick (true) (fld _ 0 2 == 0 && fld _ 4 3 == 0) (.vrscale (cv _) (fld _ 19 6) (fld _ 13 6) (fld _ 2 2)) = _
  simp only [cv_of_fld f31_1, f0_2, f13_6, f19_6, f2_2, f4_3]
  rfl

theorem vbc (c d a m : _) : Statement (.vbc c d a m) := by
  intro _
  obtain ⟨f31_1, f25_6, f19_6, f13_6, -, f4_9, -, f2_2, f0_2⟩ := lay1_6_6_6_9_2_2 (w := encode (.vbc c d a m)) (BitVec.ofBool c) 38#6 d a 0#9 m 0#2 rfl
  rw [decodeBytes_wordBytes]
  unfold decode
  rw [f25_6]
  change pick (true) (fld _ 0 2 == 0 && fld _ 4 9 == 0) (.vbc (cv _) (fld _ 19 6) (fld _ 13 6) (fld _ 2 2)) = _
  simp only [cv_of_fld f31_1, f0_2, f13_6, f19_6, f2_2, f4_9]
  rfl

theorem vadds (c d a b e m : _) : Statement (.vadds c d a b e m) := by
  intro _
  obtain ⟨f31_1, f25_6, f19_6, f13_6, f7_6, f4_3, f2_2, f0_2⟩ := lay1_6_6_6_6_3_2_2 (w := encode (.vadds c d a b e m)) (BitVec.ofBool c) 39#6 d a b e m 0#2 rfl
  rw [decodeBytes_wordBytes]
  unfold decode
  rw [f25_6]
  change pick (true) (fld _ 0 2 == 0) (.vadds (cv _) (fld _ 19 6) (fld _ 13 6) (fld _ 7 6) (fld _ 4 3) (fld _ 2 2)) = _
  simp only [cv_of_fld f31_1, f0_2, f13_6, f19_6, f2_2, f4_3, f7_6]
  rfl

theorem vabsd (c d a b e m : _) : Statement (.vabsd c d a b e m) := by
  intro _
  obtain ⟨f31_1, f25_6, f19_6, f13_6, f7_6, f4_3, f2_2, f0_2⟩ := lay1_6_6_6_6_3_2_2 (w := encode (.vabsd c d a b e m)) (BitVec.ofBool c) 40#6 d a b e m 0#2 rfl
  rw [decodeBytes_wordBytes]
  unfold decode
  rw [f25_6]
  change pick (true) (fld _ 0 2 == 0) (.vabsd (cv _) (fld _ 19 6) (fld _ 13 6) (fld _ 7 6) (fld _ 4 3) (fld _ 2 2)) = _
  simp only [cv_of_fld f31_1, f0_2, f13_6, f19_6, f2_2, f4_3, f7_6]
  rfl

theorem vavg (c d a b e m : _) : Statement (.vavg c d a b e m) := by
  intro _
  obtain ⟨f31_1, f25_6, f19_6, f13_6, f7_6, f4_3, f2_2, f0_2⟩ := lay1_6_6_6_6_3_2_2 (w := encode (.vavg c d a b e m)) (BitVec.ofBool c) 41#6 d a b e m 0#2 rfl
  rw [decodeBytes_wordBytes]
  unfold decode
  rw [f25_6]
  change pick (true) (fld _ 0 2 == 0) (.vavg (cv _) (fld _ 19 6) (fld _ 13 6) (fld _ 7 6) (fld _ 4 3) (fld _ 2 2)) = _
  simp only [cv_of_fld f31_1, f0_2, f13_6, f19_6, f2_2, f4_3, f7_6]
  rfl

theorem vslideUp (c d a b e m : _) : Statement (.vslideUp c d a b e m) := by
  intro _
  obtain ⟨f31_1, f25_6, f19_6, f13_6, f7_6, f4_3, f2_2, f0_2⟩ := lay1_6_6_6_6_3_2_2 (w := encode (.vslideUp c d a b e m)) (BitVec.ofBool c) 42#6 d a b e m 0#2 rfl
  rw [decodeBytes_wordBytes]
  unfold decode
  rw [f25_6]
  change decVslide _ = _
  unfold decVslide
  rw [f0_2]
  change Decoded.ok (.vslideUp (cv _) (fld _ 19 6) (fld _ 13 6) (fld _ 7 6) (fld _ 4 3) (fld _ 2 2)) = _
  rw [cv_of_fld f31_1, f13_6, f19_6, f2_2, f4_3, f7_6]

theorem vslideDn (c d a b e m : _) : Statement (.vslideDn c d a b e m) := by
  intro _
  obtain ⟨f31_1, f25_6, f19_6, f13_6, f7_6, f4_3, f2_2, f0_2⟩ := lay1_6_6_6_6_3_2_2 (w := encode (.vslideDn c d a b e m)) (BitVec.ofBool c) 42#6 d a b e m 1#2 rfl
  rw [decodeBytes_wordBytes]
  unfold decode
  rw [f25_6]
  change decVslide _ = _
  unfold decVslide
  rw [f0_2]
  change Decoded.ok (.vslideDn (cv _) (fld _ 19 6) (fld _ 13 6) (fld _ 7 6) (fld _ 4 3) (fld _ 2 2)) = _
  rw [cv_of_fld f31_1, f13_6, f19_6, f2_2, f4_3, f7_6]

theorem vmskAnd (c d a b : _) : Statement (.vmskAnd c d a b) := by
  intro _
  obtain ⟨f31_1, f25_6, f22_3, f19_3, f16_3, f13_3, f10_3, f7_3, f4_3, f0_4⟩ := lay1_9_3_3_3_3_3_7 (w := encode (.vmskAnd c d a b)) (BitVec.ofBool c) 344#9 d 0#3 a 0#3 b 0#7 rfl
  rw [decodeBytes_wordBytes]
  unfold decode
  rw [f25_6]
  change decVmsk _ = _
  unfold decVmsk
  rw [f4_3]
  change pick (true) (fld _ 0 4 == 0 && fld _ 10 3 == 0 && fld _ 16 3 == 0 && fld _ 22 3 == 0) (.vmskAnd (cv _) (fld _ 19 3) (fld _ 13 3) (fld _ 7 3)) = _
  simp only [cv_of_fld f31_1, f0_4, f10_3, f13_3, f16_3, f19_3, f22_3, f7_3]
  rfl

theorem vmskOr (c d a b : _) : Statement (.vmskOr c d a b) := by
  intro _
  obtain ⟨f31_1, f25_6, f22_3, f19_3, f16_3, f13_3, f10_3, f7_3, f4_3, f0_4⟩ := lay1_9_3_3_3_3_3_7 (w := encode (.vmskOr c d a b)) (BitVec.ofBool c) 344#9 d 0#3 a 0#3 b 16#7 rfl
  rw [decodeBytes_wordBytes]
  unfold decode
  rw [f25_6]
  change decVmsk _ = _
  unfold decVmsk
  rw [f4_3]
  change pick (true) (fld _ 0 4 == 0 && fld _ 10 3 == 0 && fld _ 16 3 == 0 && fld _ 22 3 == 0) (.vmskOr (cv _) (fld _ 19 3) (fld _ 13 3) (fld _ 7 3)) = _
  simp only [cv_of_fld f31_1, f0_4, f10_3, f13_3, f16_3, f19_3, f22_3, f7_3]
  rfl

theorem vmskXor (c d a b : _) : Statement (.vmskXor c d a b) := by
  intro _
  obtain ⟨f31_1, f25_6, f22_3, f19_3, f16_3, f13_3, f10_3, f7_3, f4_3, f0_4⟩ := lay1_9_3_3_3_3_3_7 (w := encode (.vmskXor c d a b)) (BitVec.ofBool c) 344#9 d 0#3 a 0#3 b 32#7 rfl
  rw [decodeBytes_wordBytes]
  unfold decode
  rw [f25_6]
  change decVmsk _ = _
  unfold decVmsk
  rw [f4_3]
  change pick (true) (fld _ 0 4 == 0 && fld _ 10 3 == 0 && fld _ 16 3 == 0 && fld _ 22 3 == 0) (.vmskXor (cv _) (fld _ 19 3) (fld _ 13 3) (fld _ 7 3)) = _
  simp only [cv_of_fld f31_1, f0_4, f10_3, f13_3, f16_3, f19_3, f22_3, f7_3]
  rfl

theorem vmskAndn (c d a b : _) : Statement (.vmskAndn c d a b) := by
  intro _
  obtain ⟨f31_1, f25_6, f22_3, f19_3, f16_3, f13_3, f10_3, f7_3, f4_3, f0_4⟩ := lay1_9_3_3_3_3_3_7 (w := encode (.vmskAndn c d a b)) (BitVec.ofBool c) 344#9 d 0#3 a 0#3 b 48#7 rfl
  rw [decodeBytes_wordBytes]
  unfold decode
  rw [f25_6]
  change decVmsk _ = _
  unfold decVmsk
  rw [f4_3]
  change pick (true) (fld _ 0 4 == 0 && fld _ 10 3 == 0 && fld _ 16 3 == 0 && fld _ 22 3 == 0) (.vmskAndn (cv _) (fld _ 19 3) (fld _ 13 3) (fld _ 7 3)) = _
  simp only [cv_of_fld f31_1, f0_4, f10_3, f13_3, f16_3, f19_3, f22_3, f7_3]
  rfl

theorem vmskNot (c d a : _) : Statement (.vmskNot c d a) := by
  intro _
  obtain ⟨f31_1, f25_6, f22_3, f19_3, f16_3, f13_3, f7_6, f4_3, f0_4⟩ := lay1_9_3_3_3_13 (w := encode (.vmskNot c d a)) (BitVec.ofBool c) 344#9 d 0#3 a 64#13 rfl
  rw [decodeBytes_wordBytes]
  unfold decode
  rw [f25_6]
  change decVmsk _ = _
  unfold decVmsk
  rw [f4_3]
  change pick (true) (fld _ 0 4 == 0 && fld _ 7 6 == 0 && fld _ 16 3 == 0 && fld _ 22 3 == 0) (.vmskNot (cv _) (fld _ 19 3) (fld _ 13 3)) = _
  simp only [cv_of_fld f31_1, f0_4, f13_3, f16_3, f19_3, f22_3, f7_6]
  rfl

theorem vmskCount (c d a : _) : Statement (.vmskCount c d a) := by
  intro _
  obtain ⟨f31_1, f25_6, f19_6, f16_3, f13_3, f10_3, f7_3, f4_3, f0_4⟩ := lay1_6_6_3_3_3_3_7 (w := encode (.vmskCount c d a)) (BitVec.ofBool c) 43#6 d 0#3 (a.extractLsb' 3 3) 0#3 (a.extractLsb' 0 3) 80#7 rfl
  rw [decodeBytes_wordBytes]
  unfold decode
  rw [f25_6]
  change decVmsk _ = _
  unfold decVmsk
  rw [f4_3]
  change pick (true) (fld _ 0 4 == 0 && fld _ 10 3 == 0 && fld _ 16 3 == 0) (.vmskCount (cv _) (fld _ 19 6) (fld _ 13 3 ++ fld _ 7 3)) = _
  simp only [cv_of_fld f31_1, f0_4, f10_3, f13_3, f16_3, f19_6, f7_3, halves a]
  rfl

theorem vmskFirst (c d a : _) : Statement (.vmskFirst c d a) := by
  intro _
  obtain ⟨f31_1, f25_6, f19_6, f16_3, f13_3, f10_3, f7_3, f4_3, f0_4⟩ := lay1_6_6_3_3_3_3_7 (w := encode (.vmskFirst c d a)) (BitVec.ofBool c) 43#6 d 0#3 (a.extractLsb' 3 3) 0#3 (a.extractLsb' 0 3) 96#7 rfl
  rw [decodeBytes_wordBytes]
  unfold decode
  rw [f25_6]
  change decVmsk _ = _
  unfold decVmsk
  rw [f4_3]
  change pick (true) (fld _ 0 4 == 0 && fld _ 10 3 == 0 && fld _ 16 3 == 0) (.vmskFirst (cv _) (fld _ 19 6) (fld _ 13 3 ++ fld _ 7 3)) = _
  simp only [cv_of_fld f31_1, f0_4, f10_3, f13_3, f16_3, f19_6, f7_3, halves a]
  rfl

theorem vaddk (c d p a q b : _) : Statement (.vaddk c d p a q b) := by
  intro _
  obtain ⟨f31_1, f25_6, f19_6, f17_2, f11_6, f9_2, f3_6, f0_3⟩ := lay1_6_6_2_6_2_6_3 (w := encode (.vaddk c d p a q b)) (BitVec.ofBool c) 44#6 d p a q b 0#3 rfl
  rw [decodeBytes_wordBytes]
  unfold decode
  rw [f25_6]
  change decVk _ = _
  unfold decVk
  rw [f0_3]
  change Decoded.ok (.vaddk (cv _) (fld _ 19 6) (fld _ 17 2) (fld _ 11 6) (fld _ 9 2) (fld _ 3 6)) = _
  rw [cv_of_fld f31_1, f11_6, f17_2, f19_6, f3_6, f9_2]

theorem vsubk (c d p a q b : _) : Statement (.vsubk c d p a q b) := by
  intro _
  obtain ⟨f31_1, f25_6, f19_6, f17_2, f11_6, f9_2, f3_6, f0_3⟩ := lay1_6_6_2_6_2_6_3 (w := encode (.vsubk c d p a q b)) (BitVec.ofBool c) 44#6 d p a q b 1#3 rfl
  rw [decodeBytes_wordBytes]
  unfold decode
  rw [f25_6]
  change decVk _ = _
  unfold decVk
  rw [f0_3]
  change Decoded.ok (.vsubk (cv _) (fld _ 19 6) (fld _ 17 2) (fld _ 11 6) (fld _ 9 2) (fld _ 3 6)) = _
  rw [cv_of_fld f31_1, f11_6, f17_2, f19_6, f3_6, f9_2]

theorem vmulk (c d p a q b : _) : Statement (.vmulk c d p a q b) := by
  intro _
  obtain ⟨f31_1, f25_6, f19_6, f17_2, f11_6, f9_2, f3_6, f0_3⟩ := lay1_6_6_2_6_2_6_3 (w := encode (.vmulk c d p a q b)) (BitVec.ofBool c) 44#6 d p a q b 2#3 rfl
  rw [decodeBytes_wordBytes]
  unfold decode
  rw [f25_6]
  change decVk _ = _
  unfold decVk
  rw [f0_3]
  change Decoded.ok (.vmulk (cv _) (fld _ 19 6) (fld _ 17 2) (fld _ 11 6) (fld _ 9 2) (fld _ 3 6)) = _
  rw [cv_of_fld f31_1, f11_6, f17_2, f19_6, f3_6, f9_2]

theorem vfmak (c d p a q b : _) : Statement (.vfmak c d p a q b) := by
  intro _
  obtain ⟨f31_1, f25_6, f19_6, f17_2, f11_6, f9_2, f3_6, f0_3⟩ := lay1_6_6_2_6_2_6_3 (w := encode (.vfmak c d p a q b)) (BitVec.ofBool c) 44#6 d p a q b 3#3 rfl
  rw [decodeBytes_wordBytes]
  unfold decode
  rw [f25_6]
  change decVk _ = _
  unfold decVk
  rw [f0_3]
  change Decoded.ok (.vfmak (cv _) (fld _ 19 6) (fld _ 17 2) (fld _ 11 6) (fld _ 9 2) (fld _ 3 6)) = _
  rw [cv_of_fld f31_1, f11_6, f17_2, f19_6, f3_6, f9_2]

theorem vmink (c d p a q b : _) : Statement (.vmink c d p a q b) := by
  intro _
  obtain ⟨f31_1, f25_6, f19_6, f17_2, f11_6, f9_2, f3_6, f0_3⟩ := lay1_6_6_2_6_2_6_3 (w := encode (.vmink c d p a q b)) (BitVec.ofBool c) 44#6 d p a q b 4#3 rfl
  rw [decodeBytes_wordBytes]
  unfold decode
  rw [f25_6]
  change decVk _ = _
  unfold decVk
  rw [f0_3]
  change Decoded.ok (.vmink (cv _) (fld _ 19 6) (fld _ 17 2) (fld _ 11 6) (fld _ 9 2) (fld _ 3 6)) = _
  rw [cv_of_fld f31_1, f11_6, f17_2, f19_6, f3_6, f9_2]

theorem vmaxk (c d p a q b : _) : Statement (.vmaxk c d p a q b) := by
  intro _
  obtain ⟨f31_1, f25_6, f19_6, f17_2, f11_6, f9_2, f3_6, f0_3⟩ := lay1_6_6_2_6_2_6_3 (w := encode (.vmaxk c d p a q b)) (BitVec.ofBool c) 44#6 d p a q b 5#3 rfl
  rw [decodeBytes_wordBytes]
  unfold decode
  rw [f25_6]
  change decVk _ = _
  unfold decVk
  rw [f0_3]
  change Decoded.ok (.vmaxk (cv _) (fld _ 19 6) (fld _ 17 2) (fld _ 11 6) (fld _ 9 2) (fld _ 3 6)) = _
  rw [cv_of_fld f31_1, f11_6, f17_2, f19_6, f3_6, f9_2]

theorem vselk (c d p a q b : _) : Statement (.vselk c d p a q b) := by
  intro _
  obtain ⟨f31_1, f25_6, f19_6, f17_2, f11_6, f9_2, f3_6, f0_3⟩ := lay1_6_6_2_6_2_6_3 (w := encode (.vselk c d p a q b)) (BitVec.ofBool c) 44#6 d p a q b 6#3 rfl
  rw [decodeBytes_wordBytes]
  unfold decode
  rw [f25_6]
  change decVk _ = _
  unfold decVk
  rw [f0_3]
  change Decoded.ok (.vselk (cv _) (fld _ 19 6) (fld _ 17 2) (fld _ 11 6) (fld _ 9 2) (fld _ 3 6)) = _
  rw [cv_of_fld f31_1, f11_6, f17_2, f19_6, f3_6, f9_2]

theorem vcmpk (c o d p a q b : _) : Statement (.vcmpk c o d p a q b) := by
  intro ok
  have ok : (decide (o.toNat < 6)) = true := ok
  obtain ⟨f31_1, f25_6, f22_3, f19_3, f17_2, f11_6, f9_2, f3_6, f0_3⟩ := lay1_6_3_3_2_6_2_6_3 (w := encode (.vcmpk c o d p a q b)) (BitVec.ofBool c) 44#6 o d p a q b 7#3 rfl
  rw [decodeBytes_wordBytes]
  unfold decode
  rw [f25_6]
  change decVk _ = _
  unfold decVk
  rw [f0_3]
  change pick ((fld _ 22 3).toNat < 6) (true) (.vcmpk (cv _) (fld _ 22 3) (fld _ 19 3) (fld _ 17 2) (fld _ 11 6) (fld _ 9 2) (fld _ 3 6)) = _
  simp only [cv_of_fld f31_1, f11_6, f17_2, f19_3, f22_3, f3_6, f9_2, ok]
  rfl

theorem spush (c d a b : _) : Statement (.spush c d a b) := by
  intro _
  obtain ⟨f31_1, f25_6, f19_6, f13_6, f7_6, -, f4_3, -, -, f0_4⟩ := lay1_6_6_6_6_7 (w := encode (.spush c d a b)) (BitVec.ofBool c) 45#6 d a b 0#7 rfl
  rw [decodeBytes_wordBytes]
  unfold decode
  rw [f25_6]
  change decSeg _ = _
  unfold decSeg
  rw [f0_4]
  change pick (true) (fld _ 4 3 == 0) (.spush (cv _) (fld _ 19 6) (fld _ 13 6) (fld _ 7 6)) = _
  simp only [cv_of_fld f31_1, f13_6, f19_6, f4_3, f7_6]
  rfl

theorem spop (c d a b : _) : Statement (.spop c d a b) := by
  intro _
  obtain ⟨f31_1, f25_6, f19_6, f13_6, f7_6, -, f4_3, -, -, f0_4⟩ := lay1_6_6_6_6_7 (w := encode (.spop c d a b)) (BitVec.ofBool c) 45#6 d a b 1#7 rfl
  rw [decodeBytes_wordBytes]
  unfold decode
  rw [f25_6]
  change decSeg _ = _
  unfold decSeg
  rw [f0_4]
  change pick (true) (fld _ 4 3 == 0) (.spop (cv _) (fld _ 19 6) (fld _ 13 6) (fld _ 7 6)) = _
  simp only [cv_of_fld f31_1, f13_6, f19_6, f4_3, f7_6]
  rfl

theorem sdepth (c d a : _) : Statement (.sdepth c d a) := by
  intro _
  obtain ⟨f31_1, f25_6, f19_6, f13_6, -, -, -, f4_9, -, -, -, -, -, -, -, f0_4, -⟩ := lay1_6_6_6_13 (w := encode (.sdepth c d a)) (BitVec.ofBool c) 45#6 d a 2#13 rfl
  rw [decodeBytes_wordBytes]
  unfold decode
  rw [f25_6]
  change decSeg _ = _
  unfold decSeg
  rw [f0_4]
  change pick (true) (fld _ 4 9 == 0) (.sdepth (cv _) (fld _ 19 6) (fld _ 13 6)) = _
  simp only [cv_of_fld f31_1, f13_6, f19_6, f4_9]
  rfl

theorem sgetl (c d a b e : _) : Statement (.sgetl c d a b e) := by
  intro _
  obtain ⟨f31_1, f25_6, f19_6, f13_6, f7_6, f4_3, f0_4⟩ := lay1_6_6_6_6_3_4 (w := encode (.sgetl c d a b e)) (BitVec.ofBool c) 45#6 d a b e 3#4 rfl
  rw [decodeBytes_wordBytes]
  unfold decode
  rw [f25_6]
  change decSeg _ = _
  unfold decSeg
  rw [f0_4]
  change Decoded.ok (.sgetl (cv _) (fld _ 19 6) (fld _ 13 6) (fld _ 7 6) (fld _ 4 3)) = _
  rw [cv_of_fld f31_1, f13_6, f19_6, f4_3, f7_6]

theorem vflat (c d a e : _) : Statement (.vflat c d a e) := by
  intro _
  obtain ⟨f31_1, f25_6, f19_6, f13_6, f7_6, f4_3, f0_4⟩ := lay1_6_6_6_6_3_4 (w := encode (.vflat c d a e)) (BitVec.ofBool c) 45#6 d a 0#6 e 4#4 rfl
  rw [decodeBytes_wordBytes]
  unfold decode
  rw [f25_6]
  change decSeg _ = _
  unfold decSeg
  rw [f0_4]
  change pick (true) (fld _ 7 6 == 0) (.vflat (cv _) (fld _ 19 6) (fld _ 13 6) (fld _ 4 3)) = _
  simp only [cv_of_fld f31_1, f13_6, f19_6, f4_3, f7_6]
  rfl

theorem sopen (c d a b : _) : Statement (.sopen c d a b) := by
  intro _
  obtain ⟨f31_1, f25_6, f19_6, f13_6, f7_6, -, f4_3, -, -, f0_4⟩ := lay1_6_6_6_6_7 (w := encode (.sopen c d a b)) (BitVec.ofBool c) 45#6 d a b 5#7 rfl
  rw [decodeBytes_wordBytes]
  unfold decode
  rw [f25_6]
  change decSeg _ = _
  unfold decSeg
  rw [f0_4]
  change pick (true) (fld _ 4 3 == 0) (.sopen (cv _) (fld _ 19 6) (fld _ 13 6) (fld _ 7 6)) = _
  simp only [cv_of_fld f31_1, f13_6, f19_6, f4_3, f7_6]
  rfl

theorem vredAdd (c d a b e m : _) : Statement (.vredAdd c d a b e m) := by
  intro _
  obtain ⟨f31_1, f25_6, f19_6, f13_6, f7_6, f4_3, f2_2, f0_2⟩ := lay1_6_6_6_6_3_2_2 (w := encode (.vredAdd c d a b e m)) (BitVec.ofBool c) 46#6 d a b e m 0#2 rfl
  rw [decodeBytes_wordBytes]
  unfold decode
  rw [f25_6]
  change decVred _ = _
  unfold decVred
  rw [f0_2]
  change Decoded.ok (.vredAdd (cv _) (fld _ 19 6) (fld _ 13 6) (fld _ 7 6) (fld _ 4 3) (fld _ 2 2)) = _
  rw [cv_of_fld f31_1, f13_6, f19_6, f2_2, f4_3, f7_6]

theorem vredMul (c d a b e m : _) : Statement (.vredMul c d a b e m) := by
  intro _
  obtain ⟨f31_1, f25_6, f19_6, f13_6, f7_6, f4_3, f2_2, f0_2⟩ := lay1_6_6_6_6_3_2_2 (w := encode (.vredMul c d a b e m)) (BitVec.ofBool c) 46#6 d a b e m 1#2 rfl
  rw [decodeBytes_wordBytes]
  unfold decode
  rw [f25_6]
  change decVred _ = _
  unfold decVred
  rw [f0_2]
  change Decoded.ok (.vredMul (cv _) (fld _ 19 6) (fld _ 13 6) (fld _ 7 6) (fld _ 4 3) (fld _ 2 2)) = _
  rw [cv_of_fld f31_1, f13_6, f19_6, f2_2, f4_3, f7_6]

theorem vredMin (c d a b e m : _) : Statement (.vredMin c d a b e m) := by
  intro _
  obtain ⟨f31_1, f25_6, f19_6, f13_6, f7_6, f4_3, f2_2, f0_2⟩ := lay1_6_6_6_6_3_2_2 (w := encode (.vredMin c d a b e m)) (BitVec.ofBool c) 46#6 d a b e m 2#2 rfl
  rw [decodeBytes_wordBytes]
  unfold decode
  rw [f25_6]
  change decVred _ = _
  unfold decVred
  rw [f0_2]
  change Decoded.ok (.vredMin (cv _) (fld _ 19 6) (fld _ 13 6) (fld _ 7 6) (fld _ 4 3) (fld _ 2 2)) = _
  rw [cv_of_fld f31_1, f13_6, f19_6, f2_2, f4_3, f7_6]

theorem vredMax (c d a b e m : _) : Statement (.vredMax c d a b e m) := by
  intro _
  obtain ⟨f31_1, f25_6, f19_6, f13_6, f7_6, f4_3, f2_2, f0_2⟩ := lay1_6_6_6_6_3_2_2 (w := encode (.vredMax c d a b e m)) (BitVec.ofBool c) 46#6 d a b e m 3#2 rfl
  rw [decodeBytes_wordBytes]
  unfold decode
  rw [f25_6]
  change decVred _ = _
  unfold decVred
  rw [f0_2]
  change Decoded.ok (.vredMax (cv _) (fld _ 19 6) (fld _ 13 6) (fld _ 7 6) (fld _ 4 3) (fld _ 2 2)) = _
  rw [cv_of_fld f31_1, f13_6, f19_6, f2_2, f4_3, f7_6]

theorem vredbAnd (c d a b e m : _) : Statement (.vredbAnd c d a b e m) := by
  intro _
  obtain ⟨f31_1, f25_6, f19_6, f13_6, f7_6, f4_3, f2_2, f0_2⟩ := lay1_6_6_6_6_3_2_2 (w := encode (.vredbAnd c d a b e m)) (BitVec.ofBool c) 47#6 d a b e m 0#2 rfl
  rw [decodeBytes_wordBytes]
  unfold decode
  rw [f25_6]
  change decVredb _ = _
  unfold decVredb
  rw [f0_2]
  change Decoded.ok (.vredbAnd (cv _) (fld _ 19 6) (fld _ 13 6) (fld _ 7 6) (fld _ 4 3) (fld _ 2 2)) = _
  rw [cv_of_fld f31_1, f13_6, f19_6, f2_2, f4_3, f7_6]

theorem vredbOr (c d a b e m : _) : Statement (.vredbOr c d a b e m) := by
  intro _
  obtain ⟨f31_1, f25_6, f19_6, f13_6, f7_6, f4_3, f2_2, f0_2⟩ := lay1_6_6_6_6_3_2_2 (w := encode (.vredbOr c d a b e m)) (BitVec.ofBool c) 47#6 d a b e m 1#2 rfl
  rw [decodeBytes_wordBytes]
  unfold decode
  rw [f25_6]
  change decVredb _ = _
  unfold decVredb
  rw [f0_2]
  change Decoded.ok (.vredbOr (cv _) (fld _ 19 6) (fld _ 13 6) (fld _ 7 6) (fld _ 4 3) (fld _ 2 2)) = _
  rw [cv_of_fld f31_1, f13_6, f19_6, f2_2, f4_3, f7_6]

theorem vredbXor (c d a b e m : _) : Statement (.vredbXor c d a b e m) := by
  intro _
  obtain ⟨f31_1, f25_6, f19_6, f13_6, f7_6, f4_3, f2_2, f0_2⟩ := lay1_6_6_6_6_3_2_2 (w := encode (.vredbXor c d a b e m)) (BitVec.ofBool c) 47#6 d a b e m 2#2 rfl
  rw [decodeBytes_wordBytes]
  unfold decode
  rw [f25_6]
  change decVredb _ = _
  unfold decVredb
  rw [f0_2]
  change Decoded.ok (.vredbXor (cv _) (fld _ 19 6) (fld _ 13 6) (fld _ 7 6) (fld _ 4 3) (fld _ 2 2)) = _
  rw [cv_of_fld f31_1, f13_6, f19_6, f2_2, f4_3, f7_6]

theorem vidxmax (c d a b e m : _) : Statement (.vidxmax c d a b e m) := by
  intro _
  obtain ⟨f31_1, f25_6, f19_6, f13_6, f7_6, f4_3, f2_2, f0_2⟩ := lay1_6_6_6_6_3_2_2 (w := encode (.vidxmax c d a b e m)) (BitVec.ofBool c) 47#6 d a b e m 3#2 rfl
  rw [decodeBytes_wordBytes]
  unfold decode
  rw [f25_6]
  change decVredb _ = _
  unfold decVredb
  rw [f0_2]
  change Decoded.ok (.vidxmax (cv _) (fld _ 19 6) (fld _ 13 6) (fld _ 7 6) (fld _ 4 3) (fld _ 2 2)) = _
  rw [cv_of_fld f31_1, f13_6, f19_6, f2_2, f4_3, f7_6]

theorem vscanAddInc (c d a b e m : _) : Statement (.vscanAddInc c d a b e m) := by
  intro _
  obtain ⟨f31_1, f25_6, f19_6, f13_6, f7_6, f4_3, f2_2, f0_2⟩ := lay1_6_6_6_6_3_2_2 (w := encode (.vscanAddInc c d a b e m)) (BitVec.ofBool c) 48#6 d a b e m 0#2 rfl
  rw [decodeBytes_wordBytes]
  unfold decode
  rw [f25_6]
  change decVscan _ = _
  unfold decVscan
  rw [f0_2]
  change Decoded.ok (.vscanAddInc (cv _) (fld _ 19 6) (fld _ 13 6) (fld _ 7 6) (fld _ 4 3) (fld _ 2 2)) = _
  rw [cv_of_fld f31_1, f13_6, f19_6, f2_2, f4_3, f7_6]

theorem vscanAddExc (c d a b e m : _) : Statement (.vscanAddExc c d a b e m) := by
  intro _
  obtain ⟨f31_1, f25_6, f19_6, f13_6, f7_6, f4_3, f2_2, f0_2⟩ := lay1_6_6_6_6_3_2_2 (w := encode (.vscanAddExc c d a b e m)) (BitVec.ofBool c) 48#6 d a b e m 1#2 rfl
  rw [decodeBytes_wordBytes]
  unfold decode
  rw [f25_6]
  change decVscan _ = _
  unfold decVscan
  rw [f0_2]
  change Decoded.ok (.vscanAddExc (cv _) (fld _ 19 6) (fld _ 13 6) (fld _ 7 6) (fld _ 4 3) (fld _ 2 2)) = _
  rw [cv_of_fld f31_1, f13_6, f19_6, f2_2, f4_3, f7_6]

theorem vscanMaxInc (c d a b e m : _) : Statement (.vscanMaxInc c d a b e m) := by
  intro _
  obtain ⟨f31_1, f25_6, f19_6, f13_6, f7_6, f4_3, f2_2, f0_2⟩ := lay1_6_6_6_6_3_2_2 (w := encode (.vscanMaxInc c d a b e m)) (BitVec.ofBool c) 48#6 d a b e m 2#2 rfl
  rw [decodeBytes_wordBytes]
  unfold decode
  rw [f25_6]
  change decVscan _ = _
  unfold decVscan
  rw [f0_2]
  change Decoded.ok (.vscanMaxInc (cv _) (fld _ 19 6) (fld _ 13 6) (fld _ 7 6) (fld _ 4 3) (fld _ 2 2)) = _
  rw [cv_of_fld f31_1, f13_6, f19_6, f2_2, f4_3, f7_6]

theorem vscanMaxExc (c d a b e m : _) : Statement (.vscanMaxExc c d a b e m) := by
  intro _
  obtain ⟨f31_1, f25_6, f19_6, f13_6, f7_6, f4_3, f2_2, f0_2⟩ := lay1_6_6_6_6_3_2_2 (w := encode (.vscanMaxExc c d a b e m)) (BitVec.ofBool c) 48#6 d a b e m 3#2 rfl
  rw [decodeBytes_wordBytes]
  unfold decode
  rw [f25_6]
  change decVscan _ = _
  unfold decVscan
  rw [f0_2]
  change Decoded.ok (.vscanMaxExc (cv _) (fld _ 19 6) (fld _ 13 6) (fld _ 7 6) (fld _ 4 3) (fld _ 2 2)) = _
  rw [cv_of_fld f31_1, f13_6, f19_6, f2_2, f4_3, f7_6]

theorem vpack (c d a m : _) : Statement (.vpack c d a m) := by
  intro _
  obtain ⟨f31_1, f25_6, f19_6, f13_6, -, f4_9, -, f2_2, f0_2⟩ := lay1_6_6_6_9_2_2 (w := encode (.vpack c d a m)) (BitVec.ofBool c) 49#6 d a 0#9 m 0#2 rfl
  rw [decodeBytes_wordBytes]
  unfold decode
  rw [f25_6]
  change pick (true) (fld _ 0 2 == 0 && fld _ 4 9 == 0) (.vpack (cv _) (fld _ 19 6) (fld _ 13 6) (fld _ 2 2)) = _
  simp only [cv_of_fld f31_1, f0_2, f13_6, f19_6, f2_2, f4_9]
  rfl

theorem vdist (c d a b e m : _) : Statement (.vdist c d a b e m) := by
  intro _
  obtain ⟨f31_1, f25_6, f19_6, f13_6, f7_6, f4_3, f2_2, f0_2⟩ := lay1_6_6_6_6_3_2_2 (w := encode (.vdist c d a b e m)) (BitVec.ofBool c) 50#6 d a b e m 0#2 rfl
  rw [decodeBytes_wordBytes]
  unfold decode
  rw [f25_6]
  change pick (true) (fld _ 0 2 == 0) (.vdist (cv _) (fld _ 19 6) (fld _ 13 6) (fld _ 7 6) (fld _ 4 3) (fld _ 2 2)) = _
  simp only [cv_of_fld f31_1, f0_2, f13_6, f19_6, f2_2, f4_3, f7_6]
  rfl

theorem vsplitMask (c d a m : _) : Statement (.vsplitMask c d a m) := by
  intro _
  obtain ⟨f31_1, f25_6, f19_6, f13_6, f7_6, -, f4_3, f2_2, f0_2⟩ := lay1_6_6_6_9_2_2 (w := encode (.vsplitMask c d a m)) (BitVec.ofBool c) 51#6 d a 7#9 m 0#2 rfl
  rw [decodeBytes_wordBytes]
  unfold decode
  rw [f25_6]
  change decVsplit _ = _
  unfold decVsplit
  rw [f0_2]
  change deepest (fld _ 4 3) (fld _ 7 6 == 0) (.vsplitMask (cv _) (fld _ 19 6) (fld _ 13 6) (fld _ 2 2)) = _
  simp only [cv_of_fld f31_1, f13_6, f19_6, f2_2, f4_3, f7_6]
  rfl

theorem vsplitThree (c d a : _) : Statement (.vsplitThree c d a) := by
  intro _
  obtain ⟨f31_1, f25_6, f19_6, f13_6, -, f7_6, -, -, f4_3, -, f2_2, -, -, -, -, -, f0_2⟩ := lay1_6_6_6_13 (w := encode (.vsplitThree c d a)) (BitVec.ofBool c) 51#6 d a 113#13 rfl
  rw [decodeBytes_wordBytes]
  unfold decode
  rw [f25_6]
  change decVsplit _ = _
  unfold decVsplit
  rw [f0_2]
  change deepest (fld _ 4 3) (fld _ 2 2 == 0 && fld _ 7 6 == 0) (.vsplitThree (cv _) (fld _ 19 6) (fld _ 13 6)) = _
  simp only [cv_of_fld f31_1, f13_6, f19_6, f2_2, f4_3, f7_6]
  rfl

theorem vgatherr (c d a b e m : _) : Statement (.vgatherr c d a b e m) := by
  intro _
  obtain ⟨f31_1, f25_6, f19_6, f13_6, f7_6, f4_3, f2_2, f0_2⟩ := lay1_6_6_6_6_3_2_2 (w := encode (.vgatherr c d a b e m)) (BitVec.ofBool c) 52#6 d a b e m 0#2 rfl
  rw [decodeBytes_wordBytes]
  unfold decode
  rw [f25_6]
  change decVxl _ = _
  unfold decVxl
  rw [f0_2]
  change Decoded.ok (.vgatherr (cv _) (fld _ 19 6) (fld _ 13 6) (fld _ 7 6) (fld _ 4 3) (fld _ 2 2)) = _
  rw [cv_of_fld f31_1, f13_6, f19_6, f2_2, f4_3, f7_6]

theorem vpushl (c d a b e m : _) : Statement (.vpushl c d a b e m) := by
  intro _
  obtain ⟨f31_1, f25_6, f19_6, f13_6, f7_6, f4_3, f2_2, f0_2⟩ := lay1_6_6_6_6_3_2_2 (w := encode (.vpushl c d a b e m)) (BitVec.ofBool c) 52#6 d a b e m 1#2 rfl
  rw [decodeBytes_wordBytes]
  unfold decode
  rw [f25_6]
  change decVxl _ = _
  unfold decVxl
  rw [f0_2]
  change Decoded.ok (.vpushl (cv _) (fld _ 19 6) (fld _ 13 6) (fld _ 7 6) (fld _ 4 3) (fld _ 2 2)) = _
  rw [cv_of_fld f31_1, f13_6, f19_6, f2_2, f4_3, f7_6]

theorem vpermb (c d a b m : _) : Statement (.vpermb c d a b m) := by
  intro _
  obtain ⟨f31_1, f25_6, f19_6, f13_6, f7_6, f4_3, f2_2, f0_2⟩ := lay1_6_6_6_6_3_2_2 (w := encode (.vpermb c d a b m)) (BitVec.ofBool c) 52#6 d a b 0#3 m 2#2 rfl
  rw [decodeBytes_wordBytes]
  unfold decode
  rw [f25_6]
  change decVxl _ = _
  unfold decVxl
  rw [f0_2]
  change pick (true) (fld _ 4 3 == 0) (.vpermb (cv _) (fld _ 19 6) (fld _ 13 6) (fld _ 7 6) (fld _ 2 2)) = _
  simp only [cv_of_fld f31_1, f13_6, f19_6, f2_2, f4_3, f7_6]
  rfl

theorem vrev (c d a e m : _) : Statement (.vrev c d a e m) := by
  intro _
  obtain ⟨f31_1, f25_6, f19_6, f13_6, f7_6, f4_3, f2_2, f0_2⟩ := lay1_6_6_6_6_3_2_2 (w := encode (.vrev c d a e m)) (BitVec.ofBool c) 52#6 d a 0#6 e m 3#2 rfl
  rw [decodeBytes_wordBytes]
  unfold decode
  rw [f25_6]
  change decVxl _ = _
  unfold decVxl
  rw [f0_2]
  change pick (true) (fld _ 7 6 == 0) (.vrev (cv _) (fld _ 19 6) (fld _ 13 6) (fld _ 4 3) (fld _ 2 2)) = _
  simp only [cv_of_fld f31_1, f13_6, f19_6, f2_2, f4_3, f7_6]
  rfl

theorem vmergek (c d a b e m : _) : Statement (.vmergek c d a b e m) := by
  intro _
  obtain ⟨f31_1, f25_6, f19_6, f13_6, f7_6, f4_3, f2_2, f0_2⟩ := lay1_6_6_6_6_3_2_2 (w := encode (.vmergek c d a b e m)) (BitVec.ofBool c) 53#6 d a b e m 0#2 rfl
  rw [decodeBytes_wordBytes]
  unfold decode
  rw [f25_6]
  change pick (true) (fld _ 0 2 == 0) (.vmergek (cv _) (fld _ 19 6) (fld _ 13 6) (fld _ 7 6) (fld _ 4 3) (fld _ 2 2)) = _
  simp only [cv_of_fld f31_1, f0_2, f13_6, f19_6, f2_2, f4_3, f7_6]
  rfl

theorem vconfl (c d a g m : _) : Statement (.vconfl c d a g m) := by
  intro _
  obtain ⟨f31_1, f25_6, f19_6, f13_6, f10_3, f7_3, f4_3, f2_2, f0_2⟩ := lay1_6_6_6_3_3_3_2_2 (w := encode (.vconfl c d a g m)) (BitVec.ofBool c) 54#6 d a 0#3 g 0#3 m 0#2 rfl
  rw [decodeBytes_wordBytes]
  unfold decode
  rw [f25_6]
  change pick (true) (fld _ 0 2 == 0 && fld _ 4 3 == 0 && fld _ 10 3 == 0) (.vconfl (cv _) (fld _ 19 6) (fld _ 13 6) (fld _ 7 3) (fld _ 2 2)) = _
  simp only [cv_of_fld f31_1, f0_2, f10_3, f13_6, f19_6, f2_2, f4_3, f7_3]
  rfl

theorem mmac (c d a b e m : _) : Statement (.mmac c d a b e m) := by
  intro _
  obtain ⟨f31_1, f25_6, f19_6, f13_6, f7_6, f4_3, f2_2, f0_2⟩ := lay1_6_6_6_6_3_2_2 (w := encode (.mmac c d a b e m)) (BitVec.ofBool c) 55#6 d a b e m 0#2 rfl
  rw [decodeBytes_wordBytes]
  unfold decode
  rw [f25_6]
  change pick (true) (fld _ 0 2 == 0) (.mmac (cv _) (fld _ 19 6) (fld _ 13 6) (fld _ 7 6) (fld _ 4 3) (fld _ 2 2)) = _
  simp only [cv_of_fld f31_1, f0_2, f13_6, f19_6, f2_2, f4_3, f7_6]
  rfl

theorem vpmul (c d a b e m : _) : Statement (.vpmul c d a b e m) := by
  intro _
  obtain ⟨f31_1, f25_6, f19_6, f13_6, f7_6, f4_3, f2_2, f0_2⟩ := lay1_6_6_6_6_3_2_2 (w := encode (.vpmul c d a b e m)) (BitVec.ofBool c) 56#6 d a b e m 0#2 rfl
  rw [decodeBytes_wordBytes]
  unfold decode
  rw [f25_6]
  change pick (true) (fld _ 0 2 == 0) (.vpmul (cv _) (fld _ 19 6) (fld _ 13 6) (fld _ 7 6) (fld _ 4 3) (fld _ 2 2)) = _
  simp only [cv_of_fld f31_1, f0_2, f13_6, f19_6, f2_2, f4_3, f7_6]
  rfl

theorem vexp (c d a v : _) : Statement (.vexp c d a v) := by
  intro _
  obtain ⟨f31_1, f25_6, f19_6, f13_6, -, f7_6, f2_5, -, f1_1, f0_1⟩ := lay1_6_6_6_12_1 (w := encode (.vexp c d a v)) (BitVec.ofBool c) 57#6 d a 0#12 v rfl
  rw [decodeBytes_wordBytes]
  unfold decode
  rw [f25_6]
  change decSfu _ = _
  unfold decSfu
  rw [f7_6]
  change pick (fld _ 1 1 == 0) (fld _ 2 5 == 0) (.vexp (cv _) (fld _ 19 6) (fld _ 13 6) (fld _ 0 1)) = _
  simp only [cv_of_fld f31_1, f0_1, f13_6, f19_6, f1_1, f2_5]
  rfl

theorem vln (c d a : _) : Statement (.vln c d a) := by
  intro _
  obtain ⟨f31_1, f25_6, f19_6, f13_6, -, f7_6, -, -, -, f2_5, -, -, -, -, -, -, f0_2⟩ := lay1_6_6_6_13 (w := encode (.vln c d a)) (BitVec.ofBool c) 57#6 d a 128#13 rfl
  rw [decodeBytes_wordBytes]
  unfold decode
  rw [f25_6]
  change decSfu _ = _
  unfold decSfu
  rw [f7_6]
  change pick (fld _ 0 2 == 0) (fld _ 2 5 == 0) (.vln (cv _) (fld _ 19 6) (fld _ 13 6)) = _
  simp only [cv_of_fld f31_1, f0_2, f13_6, f19_6, f2_5]
  rfl

theorem vrcp (c d a : _) : Statement (.vrcp c d a) := by
  intro _
  obtain ⟨f31_1, f25_6, f19_6, f13_6, -, f7_6, -, -, -, f2_5, -, -, -, -, -, -, f0_2⟩ := lay1_6_6_6_13 (w := encode (.vrcp c d a)) (BitVec.ofBool c) 57#6 d a 256#13 rfl
  rw [decodeBytes_wordBytes]
  unfold decode
  rw [f25_6]
  change decSfu _ = _
  unfold decSfu
  rw [f7_6]
  change pick (fld _ 0 2 == 0) (fld _ 2 5 == 0) (.vrcp (cv _) (fld _ 19 6) (fld _ 13 6)) = _
  simp only [cv_of_fld f31_1, f0_2, f13_6, f19_6, f2_5]
  rfl

theorem vrsq (c d a : _) : Statement (.vrsq c d a) := by
  intro _
  obtain ⟨f31_1, f25_6, f19_6, f13_6, -, f7_6, -, -, -, f2_5, -, -, -, -, -, -, f0_2⟩ := lay1_6_6_6_13 (w := encode (.vrsq c d a)) (BitVec.ofBool c) 57#6 d a 384#13 rfl
  rw [decodeBytes_wordBytes]
  unfold decode
  rw [f25_6]
  change decSfu _ = _
  unfold decSfu
  rw [f7_6]
  change pick (fld _ 0 2 == 0) (fld _ 2 5 == 0) (.vrsq (cv _) (fld _ 19 6) (fld _ 13 6)) = _
  simp only [cv_of_fld f31_1, f0_2, f13_6, f19_6, f2_5]
  rfl

theorem vsin (c d a : _) : Statement (.vsin c d a) := by
  intro _
  obtain ⟨f31_1, f25_6, f19_6, f13_6, -, f7_6, -, -, -, f2_5, -, -, -, -, -, -, f0_2⟩ := lay1_6_6_6_13 (w := encode (.vsin c d a)) (BitVec.ofBool c) 57#6 d a 512#13 rfl
  rw [decodeBytes_wordBytes]
  unfold decode
  rw [f25_6]
  change decSfu _ = _
  unfold decSfu
  rw [f7_6]
  change pick (fld _ 0 2 == 0) (fld _ 2 5 == 0) (.vsin (cv _) (fld _ 19 6) (fld _ 13 6)) = _
  simp only [cv_of_fld f31_1, f0_2, f13_6, f19_6, f2_5]
  rfl

theorem vcos (c d a : _) : Statement (.vcos c d a) := by
  intro _
  obtain ⟨f31_1, f25_6, f19_6, f13_6, -, f7_6, -, -, -, f2_5, -, -, -, -, -, -, f0_2⟩ := lay1_6_6_6_13 (w := encode (.vcos c d a)) (BitVec.ofBool c) 57#6 d a 640#13 rfl
  rw [decodeBytes_wordBytes]
  unfold decode
  rw [f25_6]
  change decSfu _ = _
  unfold decSfu
  rw [f7_6]
  change pick (fld _ 0 2 == 0) (fld _ 2 5 == 0) (.vcos (cv _) (fld _ 19 6) (fld _ 13 6)) = _
  simp only [cv_of_fld f31_1, f0_2, f13_6, f19_6, f2_5]
  rfl

theorem vtanh (c d a : _) : Statement (.vtanh c d a) := by
  intro _
  obtain ⟨f31_1, f25_6, f19_6, f13_6, -, f7_6, -, -, -, f2_5, -, -, -, -, -, -, f0_2⟩ := lay1_6_6_6_13 (w := encode (.vtanh c d a)) (BitVec.ofBool c) 57#6 d a 768#13 rfl
  rw [decodeBytes_wordBytes]
  unfold decode
  rw [f25_6]
  change decSfu _ = _
  unfold decSfu
  rw [f7_6]
  change pick (fld _ 0 2 == 0) (fld _ 2 5 == 0) (.vtanh (cv _) (fld _ 19 6) (fld _ 13 6)) = _
  simp only [cv_of_fld f31_1, f0_2, f13_6, f19_6, f2_5]
  rfl

theorem vsigm (c d a : _) : Statement (.vsigm c d a) := by
  intro _
  obtain ⟨f31_1, f25_6, f19_6, f13_6, -, f7_6, -, -, -, f2_5, -, -, -, -, -, -, f0_2⟩ := lay1_6_6_6_13 (w := encode (.vsigm c d a)) (BitVec.ofBool c) 57#6 d a 896#13 rfl
  rw [decodeBytes_wordBytes]
  unfold decode
  rw [f25_6]
  change decSfu _ = _
  unfold decSfu
  rw [f7_6]
  change pick (fld _ 0 2 == 0) (fld _ 2 5 == 0) (.vsigm (cv _) (fld _ 19 6) (fld _ 13 6)) = _
  simp only [cv_of_fld f31_1, f0_2, f13_6, f19_6, f2_5]
  rfl

theorem vrand (c d a : _) : Statement (.vrand c d a) := by
  intro _
  obtain ⟨f31_1, f25_6, f19_6, f13_6, -, f7_6, -, -, -, f2_5, -, -, -, -, -, -, f0_2⟩ := lay1_6_6_6_13 (w := encode (.vrand c d a)) (BitVec.ofBool c) 57#6 d a 1024#13 rfl
  rw [decodeBytes_wordBytes]
  unfold decode
  rw [f25_6]
  change decSfu _ = _
  unfold decSfu
  rw [f7_6]
  change pick (fld _ 0 2 == 0) (fld _ 2 5 == 0) (.vrand (cv _) (fld _ 19 6) (fld _ 13 6)) = _
  simp only [cv_of_fld f31_1, f0_2, f13_6, f19_6, f2_5]
  rfl

theorem vld (c d h a x o : _) : Statement (.vld c d h a x o) := by
  intro ok
  obtain ⟨ok, ok'⟩ := (Bool.and_eq_true _ _).mp (show (o.toNat < 6 && (modeUsesX o || x == 0)) = true from ok)
  obtain ⟨f31_1, f25_6, f19_6, f15_4, f9_6, f3_6, f0_3⟩ := lay1_6_6_4_6_6_3 (w := encode (.vld c d h a x o)) (BitVec.ofBool c) 58#6 d h a x o rfl
  rw [decodeBytes_wordBytes]
  unfold decode
  rw [f25_6]
  change pick ((fld _ 0 3).toNat < 6) ((modeUsesX (fld _ 0 3) || (fld _ 3 6) == 0)) (.vld (cv _) (fld _ 19 6) (fld _ 15 4) (fld _ 9 6) (fld _ 3 6) (fld _ 0 3)) = _
  simp only [cv_of_fld f31_1, f0_3, f15_4, f19_6, f3_6, f9_6, ok, ok']
  rfl

theorem vst (c d h a x o : _) : Statement (.vst c d h a x o) := by
  intro ok
  obtain ⟨ok, ok'⟩ := (Bool.and_eq_true _ _).mp (show (o.toNat < 5 && (modeUsesX o || x == 0)) = true from ok)
  obtain ⟨f31_1, f25_6, f19_6, f15_4, f9_6, f3_6, f0_3⟩ := lay1_6_6_4_6_6_3 (w := encode (.vst c d h a x o)) (BitVec.ofBool c) 59#6 d h a x o rfl
  rw [decodeBytes_wordBytes]
  unfold decode
  rw [f25_6]
  change pick ((fld _ 0 3).toNat < 5) ((modeUsesX (fld _ 0 3) || (fld _ 3 6) == 0)) (.vst (cv _) (fld _ 19 6) (fld _ 15 4) (fld _ 9 6) (fld _ 3 6) (fld _ 0 3)) = _
  simp only [cv_of_fld f31_1, f0_3, f15_4, f19_6, f3_6, f9_6, ok, ok']
  rfl

theorem vamoAdd (c d h i o q r s : _) : Statement (.vamoAdd c d h i o q r s) := by
  intro ok
  have ok : (scopeOk s) = true := ok
  obtain ⟨f31_1, f25_6, f19_6, f15_4, f9_6, f6_3, f5_1, f4_1, f3_1, f0_3⟩ := lay1_6_6_4_6_3_1_1_1_3 (w := encode (.vamoAdd c d h i o q r s)) (BitVec.ofBool c) 60#6 d h i 0#3 o q r s rfl
  rw [decodeBytes_wordBytes]
  unfold decode
  rw [f25_6]
  change decVamo _ = _
  unfold decVamo
  rw [f6_3]
  change pick (scopeOk (fld _ 0 3)) (true) (.vamoAdd (cv _) (fld _ 19 6) (fld _ 15 4) (fld _ 9 6) (fld _ 5 1) (fld _ 4 1) (fld _ 3 1) (fld _ 0 3)) = _
  simp only [cv_of_fld f31_1, f0_3, f15_4, f19_6, f3_1, f4_1, f5_1, f9_6, ok]
  rfl

theorem vamoAddsat (c d h i o q r s : _) : Statement (.vamoAddsat c d h i o q r s) := by
  intro ok
  have ok : (scopeOk s) = true := ok
  obtain ⟨f31_1, f25_6, f19_6, f15_4, f9_6, f6_3, f5_1, f4_1, f3_1, f0_3⟩ := lay1_6_6_4_6_3_1_1_1_3 (w := encode (.vamoAddsat c d h i o q r s)) (BitVec.ofBool c) 60#6 d h i 1#3 o q r s rfl
  rw [decodeBytes_wordBytes]
  unfold decode
  rw [f25_6]
  change decVamo _ = _
  unfold decVamo
  rw [f6_3]
  change pick (scopeOk (fld _ 0 3)) (true) (.vamoAddsat (cv _) (fld _ 19 6) (fld _ 15 4) (fld _ 9 6) (fld _ 5 1) (fld _ 4 1) (fld _ 3 1) (fld _ 0 3)) = _
  simp only [cv_of_fld f31_1, f0_3, f15_4, f19_6, f3_1, f4_1, f5_1, f9_6, ok]
  rfl

theorem vamoMin (c d h i o q r s : _) : Statement (.vamoMin c d h i o q r s) := by
  intro ok
  have ok : (scopeOk s) = true := ok
  obtain ⟨f31_1, f25_6, f19_6, f15_4, f9_6, f6_3, f5_1, f4_1, f3_1, f0_3⟩ := lay1_6_6_4_6_3_1_1_1_3 (w := encode (.vamoMin c d h i o q r s)) (BitVec.ofBool c) 60#6 d h i 2#3 o q r s rfl
  rw [decodeBytes_wordBytes]
  unfold decode
  rw [f25_6]
  change decVamo _ = _
  unfold decVamo
  rw [f6_3]
  change pick (scopeOk (fld _ 0 3)) (true) (.vamoMin (cv _) (fld _ 19 6) (fld _ 15 4) (fld _ 9 6) (fld _ 5 1) (fld _ 4 1) (fld _ 3 1) (fld _ 0 3)) = _
  simp only [cv_of_fld f31_1, f0_3, f15_4, f19_6, f3_1, f4_1, f5_1, f9_6, ok]
  rfl

theorem vamoMax (c d h i o q r s : _) : Statement (.vamoMax c d h i o q r s) := by
  intro ok
  have ok : (scopeOk s) = true := ok
  obtain ⟨f31_1, f25_6, f19_6, f15_4, f9_6, f6_3, f5_1, f4_1, f3_1, f0_3⟩ := lay1_6_6_4_6_3_1_1_1_3 (w := encode (.vamoMax c d h i o q r s)) (BitVec.ofBool c) 60#6 d h i 3#3 o q r s rfl
  rw [decodeBytes_wordBytes]
  unfold decode
  rw [f25_6]
  change decVamo _ = _
  unfold decVamo
  rw [f6_3]
  change pick (scopeOk (fld _ 0 3)) (true) (.vamoMax (cv _) (fld _ 19 6) (fld _ 15 4) (fld _ 9 6) (fld _ 5 1) (fld _ 4 1) (fld _ 3 1) (fld _ 0 3)) = _
  simp only [cv_of_fld f31_1, f0_3, f15_4, f19_6, f3_1, f4_1, f5_1, f9_6, ok]
  rfl

theorem vamoAnd (c d h i o q r s : _) : Statement (.vamoAnd c d h i o q r s) := by
  intro ok
  have ok : (scopeOk s) = true := ok
  obtain ⟨f31_1, f25_6, f19_6, f15_4, f9_6, f6_3, f5_1, f4_1, f3_1, f0_3⟩ := lay1_6_6_4_6_3_1_1_1_3 (w := encode (.vamoAnd c d h i o q r s)) (BitVec.ofBool c) 60#6 d h i 4#3 o q r s rfl
  rw [decodeBytes_wordBytes]
  unfold decode
  rw [f25_6]
  change decVamo _ = _
  unfold decVamo
  rw [f6_3]
  change pick (scopeOk (fld _ 0 3)) (true) (.vamoAnd (cv _) (fld _ 19 6) (fld _ 15 4) (fld _ 9 6) (fld _ 5 1) (fld _ 4 1) (fld _ 3 1) (fld _ 0 3)) = _
  simp only [cv_of_fld f31_1, f0_3, f15_4, f19_6, f3_1, f4_1, f5_1, f9_6, ok]
  rfl

theorem vamoOr (c d h i o q r s : _) : Statement (.vamoOr c d h i o q r s) := by
  intro ok
  have ok : (scopeOk s) = true := ok
  obtain ⟨f31_1, f25_6, f19_6, f15_4, f9_6, f6_3, f5_1, f4_1, f3_1, f0_3⟩ := lay1_6_6_4_6_3_1_1_1_3 (w := encode (.vamoOr c d h i o q r s)) (BitVec.ofBool c) 60#6 d h i 5#3 o q r s rfl
  rw [decodeBytes_wordBytes]
  unfold decode
  rw [f25_6]
  change decVamo _ = _
  unfold decVamo
  rw [f6_3]
  change pick (scopeOk (fld _ 0 3)) (true) (.vamoOr (cv _) (fld _ 19 6) (fld _ 15 4) (fld _ 9 6) (fld _ 5 1) (fld _ 4 1) (fld _ 3 1) (fld _ 0 3)) = _
  simp only [cv_of_fld f31_1, f0_3, f15_4, f19_6, f3_1, f4_1, f5_1, f9_6, ok]
  rfl

theorem vamoXor (c d h i o q r s : _) : Statement (.vamoXor c d h i o q r s) := by
  intro ok
  have ok : (scopeOk s) = true := ok
  obtain ⟨f31_1, f25_6, f19_6, f15_4, f9_6, f6_3, f5_1, f4_1, f3_1, f0_3⟩ := lay1_6_6_4_6_3_1_1_1_3 (w := encode (.vamoXor c d h i o q r s)) (BitVec.ofBool c) 60#6 d h i 6#3 o q r s rfl
  rw [decodeBytes_wordBytes]
  unfold decode
  rw [f25_6]
  change decVamo _ = _
  unfold decVamo
  rw [f6_3]
  change pick (scopeOk (fld _ 0 3)) (true) (.vamoXor (cv _) (fld _ 19 6) (fld _ 15 4) (fld _ 9 6) (fld _ 5 1) (fld _ 4 1) (fld _ 3 1) (fld _ 0 3)) = _
  simp only [cv_of_fld f31_1, f0_3, f15_4, f19_6, f3_1, f4_1, f5_1, f9_6, ok]
  rfl

theorem vamoSwap (c d h i o q r s : _) : Statement (.vamoSwap c d h i o q r s) := by
  intro ok
  have ok : (scopeOk s) = true := ok
  obtain ⟨f31_1, f25_6, f19_6, f15_4, f9_6, f6_3, f5_1, f4_1, f3_1, f0_3⟩ := lay1_6_6_4_6_3_1_1_1_3 (w := encode (.vamoSwap c d h i o q r s)) (BitVec.ofBool c) 60#6 d h i 7#3 o q r s rfl
  rw [decodeBytes_wordBytes]
  unfold decode
  rw [f25_6]
  change decVamo _ = _
  unfold decVamo
  rw [f6_3]
  change pick (scopeOk (fld _ 0 3)) (true) (.vamoSwap (cv _) (fld _ 19 6) (fld _ 15 4) (fld _ 9 6) (fld _ 5 1) (fld _ 4 1) (fld _ 3 1) (fld _ 0 3)) = _
  simp only [cv_of_fld f31_1, f0_3, f15_4, f19_6, f3_1, f4_1, f5_1, f9_6, ok]
  rfl

theorem vcas (c d h i q r s : _) : Statement (.vcas c d h i q r s) := by
  intro ok
  have ok : (scopeOk s) = true := ok
  obtain ⟨f31_1, f25_6, f19_6, f15_4, f9_6, f6_3, f5_1, f4_1, f3_1, f0_3⟩ := lay1_6_6_4_6_4_1_1_3 (w := encode (.vcas c d h i q r s)) (BitVec.ofBool c) 61#6 d h i 0#4 q r s rfl
  rw [decodeBytes_wordBytes]
  unfold decode
  rw [f25_6]
  change decVcw _ = _
  unfold decVcw
  rw [f6_3]
  change pick (scopeOk (fld _ 0 3)) (fld _ 5 1 == 0) (.vcas (cv _) (fld _ 19 6) (fld _ 15 4) (fld _ 9 6) (fld _ 4 1) (fld _ 3 1) (fld _ 0 3)) = _
  simp only [cv_of_fld f31_1, f0_3, f15_4, f19_6, f3_1, f4_1, f5_1, f9_6, ok]
  rfl

theorem vwait (c d h i o s : _) : Statement (.vwait c d h i o s) := by
  intro ok
  have ok : (o != 0 && scopeOk s) = true := ok
  obtain ⟨f31_1, f25_6, f19_6, f15_4, f9_6, f6_3, f3_3, f0_3⟩ := lay1_6_6_4_6_3_3_3 (w := encode (.vwait c d h i o s)) (BitVec.ofBool c) 61#6 d h i o 0#3 s rfl
  rw [decodeBytes_wordBytes]
  unfold decode
  rw [f25_6]
  change decVcw _ = _
  unfold decVcw
  obtain ⟨ok, ok'⟩ := (Bool.and_eq_true _ _).mp ok
  rw [f6_3]
  have z : ∃ n, o.toNat = n + 1 := ⟨o.toNat - 1, by have := fun h => bne_iff_ne.mp ok (BitVec.eq_of_toNat_eq h); simp at this; omega⟩
  obtain ⟨n, z⟩ := z
  rw [z]
  change pick (scopeOk (fld _ 0 3)) (fld _ 3 3 == 0) (.vwait (cv _) (fld _ 19 6) (fld _ 15 4) (fld _ 9 6) o (fld _ 0 3)) = _
  simp only [cv_of_fld f31_1, f0_3, f15_4, f19_6, f3_3, f9_6, ok']
  rfl

theorem hnew (c d a h : _) : Statement (.hnew c d a h) := by
  intro _
  obtain ⟨f31_1, f25_6, f19_6, f13_6, f11_2, f7_4, f5_2, f0_5⟩ := lay1_6_6_6_2_4_7 (w := encode (.hnew c d a h)) (BitVec.ofBool c) 62#6 d a 0#2 h 0#7 rfl
  rw [decodeBytes_wordBytes]
  unfold decode
  rw [f25_6]
  change decHblk _ = _
  unfold decHblk
  rw [f0_5]
  change pick (true) (fld _ 5 2 == 0 && fld _ 11 2 == 0) (.hnew (cv _) (fld _ 19 6) (fld _ 13 6) (fld _ 7 4)) = _
  simp only [cv_of_fld f31_1, f11_2, f13_6, f19_6, f5_2, f7_4]
  rfl

theorem hbind (c a h : _) : Statement (.hbind c a h) := by
  intro _
  obtain ⟨f31_1, f25_6, f19_6, f13_6, f11_2, f7_4, f5_2, f0_5⟩ := lay1_12_6_2_4_7 (w := encode (.hbind c a h)) (BitVec.ofBool c) 3968#12 a 0#2 h 1#7 rfl
  rw [decodeBytes_wordBytes]
  unfold decode
  rw [f25_6]
  change decHblk _ = _
  unfold decHblk
  rw [f0_5]
  change pick (true) (fld _ 5 2 == 0 && fld _ 11 2 == 0 && fld _ 19 6 == 0) (.hbind (cv _) (fld _ 13 6) (fld _ 7 4)) = _
  simp only [cv_of_fld f31_1, f11_2, f13_6, f19_6, f5_2, f7_4]
  rfl

theorem hup (c d h : _) : Statement (.hup c d h) := by
  intro _
  obtain ⟨f31_1, f25_6, f19_6, f11_8, f7_4, f5_2, f0_5⟩ := lay1_6_6_8_4_7 (w := encode (.hup c d h)) (BitVec.ofBool c) 62#6 d 0#8 h 2#7 rfl
  rw [decodeBytes_wordBytes]
  unfold decode
  rw [f25_6]
  change decHblk _ = _
  unfold decHblk
  rw [f0_5]
  change pick (true) (fld _ 5 2 == 0 && fld _ 11 8 == 0) (.hup (cv _) (fld _ 19 6) (fld _ 7 4)) = _
  simp only [cv_of_fld f31_1, f11_8, f19_6, f5_2, f7_4]
  rfl

theorem hdown (c h : _) : Statement (.hdown c h) := by
  intro _
  obtain ⟨f31_1, f25_6, f11_14, f7_4, f5_2, f0_5⟩ := lay1_20_4_7 (w := encode (.hdown c h)) (BitVec.ofBool c) 1015808#20 h 3#7 rfl
  rw [decodeBytes_wordBytes]
  unfold decode
  rw [f25_6]
  change decHblk _ = _
  unfold decHblk
  rw [f0_5]
  change pick (true) (fld _ 5 2 == 0 && fld _ 11 14 == 0) (.hdown (cv _) (fld _ 7 4)) = _
  simp only [cv_of_fld f31_1, f11_14, f5_2, f7_4]
  rfl

theorem hweak (c d h : _) : Statement (.hweak c d h) := by
  intro _
  obtain ⟨f31_1, f25_6, f19_6, f11_8, f7_4, f5_2, f0_5⟩ := lay1_6_6_8_4_7 (w := encode (.hweak c d h)) (BitVec.ofBool c) 62#6 d 0#8 h 4#7 rfl
  rw [decodeBytes_wordBytes]
  unfold decode
  rw [f25_6]
  change decHblk _ = _
  unfold decHblk
  rw [f0_5]
  change pick (true) (fld _ 5 2 == 0 && fld _ 11 8 == 0) (.hweak (cv _) (fld _ 19 6) (fld _ 7 4)) = _
  simp only [cv_of_fld f31_1, f11_8, f19_6, f5_2, f7_4]
  rfl

theorem hrel (c h : _) : Statement (.hrel c h) := by
  intro _
  obtain ⟨f31_1, f25_6, f11_14, f7_4, f5_2, f0_5⟩ := lay1_20_4_7 (w := encode (.hrel c h)) (BitVec.ofBool c) 1015808#20 h 5#7 rfl
  rw [decodeBytes_wordBytes]
  unfold decode
  rw [f25_6]
  change decHblk _ = _
  unfold decHblk
  rw [f0_5]
  change pick (true) (fld _ 5 2 == 0 && fld _ 11 14 == 0) (.hrel (cv _) (fld _ 7 4)) = _
  simp only [cv_of_fld f31_1, f11_14, f5_2, f7_4]
  rfl

theorem hchk (c d h : _) : Statement (.hchk c d h) := by
  intro _
  obtain ⟨f31_1, f25_6, f19_6, f11_8, f7_4, f5_2, f0_5⟩ := lay1_6_6_8_4_7 (w := encode (.hchk c d h)) (BitVec.ofBool c) 62#6 d 0#8 h 6#7 rfl
  rw [decodeBytes_wordBytes]
  unfold decode
  rw [f25_6]
  change decHblk _ = _
  unfold decHblk
  rw [f0_5]
  change pick (true) (fld _ 5 2 == 0 && fld _ 11 8 == 0) (.hchk (cv _) (fld _ 19 6) (fld _ 7 4)) = _
  simp only [cv_of_fld f31_1, f11_8, f19_6, f5_2, f7_4]
  rfl

theorem hinfo (c d a h : _) : Statement (.hinfo c d a h) := by
  intro _
  obtain ⟨f31_1, f25_6, f19_6, f13_6, f11_2, f7_4, f5_2, f0_5⟩ := lay1_6_6_6_2_4_7 (w := encode (.hinfo c d a h)) (BitVec.ofBool c) 62#6 d a 0#2 h 7#7 rfl
  rw [decodeBytes_wordBytes]
  unfold decode
  rw [f25_6]
  change decHblk _ = _
  unfold decHblk
  rw [f0_5]
  change pick (true) (fld _ 5 2 == 0 && fld _ 11 2 == 0) (.hinfo (cv _) (fld _ 19 6) (fld _ 13 6) (fld _ 7 4)) = _
  simp only [cv_of_fld f31_1, f11_2, f13_6, f19_6, f5_2, f7_4]
  rfl

theorem balloc (c d a : _) : Statement (.balloc c d a) := by
  intro _
  obtain ⟨f31_1, f25_6, f19_6, f13_6, -, -, f5_8, -, -, -, -, -, -, -, f0_5, -, -⟩ := lay1_6_6_6_13 (w := encode (.balloc c d a)) (BitVec.ofBool c) 62#6 d a 8#13 rfl
  rw [decodeBytes_wordBytes]
  unfold decode
  rw [f25_6]
  change decHblk _ = _
  unfold decHblk
  rw [f0_5]
  change pick (true) (fld _ 5 8 == 0) (.balloc (cv _) (fld _ 19 6) (fld _ 13 6)) = _
  simp only [cv_of_fld f31_1, f13_6, f19_6, f5_8]
  rfl

theorem bfree (c a b : _) : Statement (.bfree c a b) := by
  intro _
  obtain ⟨f31_1, f25_6, f19_6, f13_6, f7_6, f5_2, f0_5⟩ := lay1_12_6_6_7 (w := encode (.bfree c a b)) (BitVec.ofBool c) 3968#12 a b 9#7 rfl
  rw [decodeBytes_wordBytes]
  unfold decode
  rw [f25_6]
  change decHblk _ = _
  unfold decHblk
  rw [f0_5]
  change pick (true) (fld _ 5 2 == 0 && fld _ 19 6 == 0) (.bfree (cv _) (fld _ 13 6) (fld _ 7 6)) = _
  simp only [cv_of_fld f31_1, f13_6, f19_6, f5_2, f7_6]
  rfl

theorem bfork (c d h g : _) : Statement (.bfork c d h g) := by
  intro _
  obtain ⟨f31_1, f25_6, f19_6, f17_2, f13_4, f11_2, f7_4, f5_2, f0_5⟩ := lay1_6_6_2_4_2_4_7 (w := encode (.bfork c d h g)) (BitVec.ofBool c) 62#6 d 0#2 h 0#2 g 10#7 rfl
  rw [decodeBytes_wordBytes]
  unfold decode
  rw [f25_6]
  change decHblk _ = _
  unfold decHblk
  rw [f0_5]
  change pick (true) (fld _ 5 2 == 0 && fld _ 11 2 == 0 && fld _ 17 2 == 0) (.bfork (cv _) (fld _ 19 6) (fld _ 13 4) (fld _ 7 4)) = _
  simp only [cv_of_fld f31_1, f11_2, f13_4, f17_2, f19_6, f5_2, f7_4]
  rfl

theorem bcow (c d a h : _) : Statement (.bcow c d a h) := by
  intro _
  obtain ⟨f31_1, f25_6, f19_6, f13_6, f11_2, f7_4, f5_2, f0_5⟩ := lay1_6_6_6_2_4_7 (w := encode (.bcow c d a h)) (BitVec.ofBool c) 62#6 d a 0#2 h 11#7 rfl
  rw [decodeBytes_wordBytes]
  unfold decode
  rw [f25_6]
  change decHblk _ = _
  unfold decHblk
  rw [f0_5]
  change pick (true) (fld _ 5 2 == 0 && fld _ 11 2 == 0) (.bcow (cv _) (fld _ 19 6) (fld _ 13 6) (fld _ 7 4)) = _
  simp only [cv_of_fld f31_1, f11_2, f13_6, f19_6, f5_2, f7_4]
  rfl

theorem bmap (c h a b : _) : Statement (.bmap c h a b) := by
  intro _
  obtain ⟨f31_1, f25_6, f23_2, f19_4, f13_6, f7_6, f5_2, f0_5⟩ := lay1_8_4_6_6_7 (w := encode (.bmap c h a b)) (BitVec.ofBool c) 248#8 h a b 12#7 rfl
  rw [decodeBytes_wordBytes]
  unfold decode
  rw [f25_6]
  change decHblk _ = _
  unfold decHblk
  rw [f0_5]
  change pick (true) (fld _ 5 2 == 0 && fld _ 23 2 == 0) (.bmap (cv _) (fld _ 19 4) (fld _ 13 6) (fld _ 7 6)) = _
  simp only [cv_of_fld f31_1, f13_6, f19_4, f23_2, f5_2, f7_6]
  rfl

theorem btlen (c d a h : _) : Statement (.btlen c d a h) := by
  intro _
  obtain ⟨f31_1, f25_6, f19_6, f13_6, f11_2, f7_4, f5_2, f0_5⟩ := lay1_6_6_6_2_4_7 (w := encode (.btlen c d a h)) (BitVec.ofBool c) 62#6 d a 0#2 h 13#7 rfl
  rw [decodeBytes_wordBytes]
  unfold decode
  rw [f25_6]
  change decHblk _ = _
  unfold decHblk
  rw [f0_5]
  change pick (true) (fld _ 5 2 == 0 && fld _ 11 2 == 0) (.btlen (cv _) (fld _ 19 6) (fld _ 13 6) (fld _ 7 4)) = _
  simp only [cv_of_fld f31_1, f11_2, f13_6, f19_6, f5_2, f7_4]
  rfl

theorem brel (c h : _) : Statement (.brel c h) := by
  intro _
  obtain ⟨f31_1, f25_6, f11_14, f7_4, f5_2, f0_5⟩ := lay1_20_4_7 (w := encode (.brel c h)) (BitVec.ofBool c) 1015808#20 h 14#7 rfl
  rw [decodeBytes_wordBytes]
  unfold decode
  rw [f25_6]
  change decHblk _ = _
  unfold decHblk
  rw [f0_5]
  change pick (true) (fld _ 5 2 == 0 && fld _ 11 14 == 0) (.brel (cv _) (fld _ 7 4)) = _
  simp only [cv_of_fld f31_1, f11_14, f5_2, f7_4]
  rfl

theorem exbind (c d a m h : _) : Statement (.exbind c d a m h) := by
  intro _
  obtain ⟨f31_1, f25_6, f19_6, f13_6, f11_2, f7_4, f5_2, f0_5⟩ := lay1_6_6_6_2_4_7 (w := encode (.exbind c d a m h)) (BitVec.ofBool c) 62#6 d a m h 15#7 rfl
  rw [decodeBytes_wordBytes]
  unfold decode
  rw [f25_6]
  change decHblk _ = _
  unfold decHblk
  rw [f0_5]
  change pick (true) (fld _ 5 2 == 0) (.exbind (cv _) (fld _ 19 6) (fld _ 13 6) (fld _ 11 2) (fld _ 7 4)) = _
  simp only [cv_of_fld f31_1, f11_2, f13_6, f19_6, f5_2, f7_4]
  rfl

theorem expoll (c d a m h : _) : Statement (.expoll c d a m h) := by
  intro ok
  have ok : (m != 0) = true := ok
  obtain ⟨f31_1, f25_6, f19_6, f13_6, f11_2, f7_4, f5_2, f0_5⟩ := lay1_6_6_6_2_4_7 (w := encode (.expoll c d a m h)) (BitVec.ofBool c) 62#6 d a m h 16#7 rfl
  rw [decodeBytes_wordBytes]
  unfold decode
  rw [f25_6]
  change decHblk _ = _
  unfold decHblk
  rw [f0_5]
  change pick ((fld _ 11 2) != 0) (fld _ 5 2 == 0) (.expoll (cv _) (fld _ 19 6) (fld _ 13 6) (fld _ 11 2) (fld _ 7 4)) = _
  simp only [cv_of_fld f31_1, f11_2, f13_6, f19_6, f5_2, f7_4, ok]
  rfl

theorem exrel (c h : _) : Statement (.exrel c h) := by
  intro _
  obtain ⟨f31_1, f25_6, f11_14, f7_4, f5_2, f0_5⟩ := lay1_20_4_7 (w := encode (.exrel c h)) (BitVec.ofBool c) 1015808#20 h 17#7 rfl
  rw [decodeBytes_wordBytes]
  unfold decode
  rw [f25_6]
  change decHblk _ = _
  unfold decHblk
  rw [f0_5]
  change pick (true) (fld _ 5 2 == 0 && fld _ 11 14 == 0) (.exrel (cv _) (fld _ 7 4)) = _
  simp only [cv_of_fld f31_1, f11_14, f5_2, f7_4]
  rfl

theorem expin (c d a b : _) : Statement (.expin c d a b) := by
  intro _
  obtain ⟨f31_1, f25_6, f19_6, f13_6, f7_6, f5_2, -, -, f0_5, -⟩ := lay1_6_6_6_6_7 (w := encode (.expin c d a b)) (BitVec.ofBool c) 62#6 d a b 18#7 rfl
  rw [decodeBytes_wordBytes]
  unfold decode
  rw [f25_6]
  change decHblk _ = _
  unfold decHblk
  rw [f0_5]
  change pick (true) (fld _ 5 2 == 0) (.expin (cv _) (fld _ 19 6) (fld _ 13 6) (fld _ 7 6)) = _
  simp only [cv_of_fld f31_1, f13_6, f19_6, f5_2, f7_6]
  rfl

theorem exstat (c d a b : _) : Statement (.exstat c d a b) := by
  intro _
  obtain ⟨f31_1, f25_6, f19_6, f13_6, f7_6, f5_2, -, -, f0_5, -⟩ := lay1_6_6_6_6_7 (w := encode (.exstat c d a b)) (BitVec.ofBool c) 62#6 d a b 19#7 rfl
  rw [decodeBytes_wordBytes]
  unfold decode
  rw [f25_6]
  change decHblk _ = _
  unfold decHblk
  rw [f0_5]
  change pick (true) (fld _ 5 2 == 0) (.exstat (cv _) (fld _ 19 6) (fld _ 13 6) (fld _ 7 6)) = _
  simp only [cv_of_fld f31_1, f13_6, f19_6, f5_2, f7_6]
  rfl

theorem xcopy (c h g d a v : _) : Statement (.xcopy c h g d a v) := by
  intro ok
  have ok : (decide (v.toNat < 4)) = true := ok
  obtain ⟨f31_1, f25_6, f21_4, f17_4, f11_6, f5_6, f3_2, f0_3⟩ := lay1_6_4_4_6_6_2_3 (w := encode (.xcopy c h g d a v)) (BitVec.ofBool c) 63#6 h g d a 0#2 v rfl
  rw [decodeBytes_wordBytes]
  unfold decode
  rw [f25_6]
  change decXeng _ = _
  unfold decXeng
  rw [f3_2]
  change pick ((fld _ 0 3).toNat < 4) (true) (.xcopy (cv _) (fld _ 21 4) (fld _ 17 4) (fld _ 11 6) (fld _ 5 6) (fld _ 0 3)) = _
  simp only [cv_of_fld f31_1, f0_3, f11_6, f17_4, f21_4, f5_6, ok]
  rfl

theorem xpush (c h g d a v : _) : Statement (.xpush c h g d a v) := by
  intro ok
  have ok : (decide (v.toNat < 2)) = true := ok
  obtain ⟨f31_1, f25_6, f21_4, f17_4, f11_6, f5_6, f3_2, f0_3⟩ := lay1_6_4_4_6_6_2_3 (w := encode (.xpush c h g d a v)) (BitVec.ofBool c) 63#6 h g d a 1#2 v rfl
  rw [decodeBytes_wordBytes]
  unfold decode
  rw [f25_6]
  change decXeng _ = _
  unfold decXeng
  rw [f3_2]
  change pick ((fld _ 0 3).toNat < 2) (true) (.xpush (cv _) (fld _ 21 4) (fld _ 17 4) (fld _ 11 6) (fld _ 5 6) (fld _ 0 3)) = _
  simp only [cv_of_fld f31_1, f0_3, f11_6, f17_4, f21_4, f5_6, ok]
  rfl

theorem xfill (c h d a : _) : Statement (.xfill c h d a) := by
  intro _
  obtain ⟨f31_1, f25_6, f21_4, f17_4, f11_6, f5_6, f3_2, f0_3⟩ := lay1_6_4_4_6_6_5 (w := encode (.xfill c h d a)) (BitVec.ofBool c) 63#6 h 0#4 d a 16#5 rfl
  rw [decodeBytes_wordBytes]
  unfold decode
  rw [f25_6]
  change decXeng _ = _
  unfold decXeng
  rw [f3_2]
  change pick (fld _ 0 3 == 0) (fld _ 17 4 == 0) (.xfill (cv _) (fld _ 21 4) (fld _ 11 6) (fld _ 5 6)) = _
  simp only [cv_of_fld f31_1, f0_3, f11_6, f17_4, f21_4, f5_6]
  rfl

theorem vpref (c g a v : _) : Statement (.vpref c g a v) := by
  intro ok
  have ok : (decide (v.toNat < 2)) = true := ok
  obtain ⟨f31_1, f25_6, f21_4, f17_4, f11_6, f5_6, f3_2, f0_3⟩ := lay1_10_4_6_6_2_3 (w := encode (.vpref c g a v)) (BitVec.ofBool c) 1008#10 g 0#6 a 3#2 v rfl
  rw [decodeBytes_wordBytes]
  unfold decode
  rw [f25_6]
  change decXeng _ = _
  unfold decXeng
  rw [f3_2]
  change pick ((fld _ 0 3).toNat < 2) (fld _ 11 6 == 0 && fld _ 21 4 == 0) (.vpref (cv _) (fld _ 17 4) (fld _ 5 6) (fld _ 0 3)) = _
  simp only [cv_of_fld f31_1, f0_3, f11_6, f17_4, f21_4, f5_6, ok]
  rfl

theorem imageKeepClear (x0 : _) : Statement (.imageKeepClear x0) := fun ok => Bool.noConfusion (show false = true from ok)

theorem standbySwitch (x0 : _) : Statement (.standbySwitch x0) := fun ok => Bool.noConfusion (show false = true from ok)

theorem quantumExpiry (x0 : _) : Statement (.quantumExpiry x0) := fun ok => Bool.noConfusion (show false = true from ok)

theorem vsetvlgWake (x0 : _) : Statement (.vsetvlgWake x0) := fun ok => Bool.noConfusion (show false = true from ok)

theorem vsetvlgTimeout (x0 : _) : Statement (.vsetvlgTimeout x0) := fun ok => Bool.noConfusion (show false = true from ok)

theorem vwaitWake (x0 : _) : Statement (.vwaitWake x0) := fun ok => Bool.noConfusion (show false = true from ok)

theorem hwaitWake (x0 : _) : Statement (.hwaitWake x0) := fun ok => Bool.noConfusion (show false = true from ok)

theorem wfiWake (x0 : _) : Statement (.wfiWake x0) := fun ok => Bool.noConfusion (show false = true from ok)

theorem interruptTaken (x0 : _) : Statement (.interruptTaken x0) := fun ok => Bool.noConfusion (show false = true from ok)

theorem userTrap (x0 x1 x2 : _) : Statement (.userTrap x0 x1 x2) := fun ok => Bool.noConfusion (show false = true from ok)

theorem trapToSupervisor (x0 x1 x2 : _) : Statement (.trapToSupervisor x0 x1 x2) := fun ok => Bool.noConfusion (show false = true from ok)

theorem machineCheck (x0 x1 x2 x3 : _) : Statement (.machineCheck x0 x1 x2 x3) := fun ok => Bool.noConfusion (show false = true from ok)

theorem preemptToSaved (x0 : _) : Statement (.preemptToSaved x0) := fun ok => Bool.noConfusion (show false = true from ok)

theorem partcfgResume (x0 : _) : Statement (.partcfgResume x0) := fun ok => Bool.noConfusion (show false = true from ok)

theorem endSaved (x0 : _) : Statement (.endSaved x0) := fun ok => Bool.noConfusion (show false = true from ok)

theorem powerWindow (x0 x1 : _) : Statement (.powerWindow x0 x1) := fun ok => Bool.noConfusion (show false = true from ok)

theorem laneClockGate (x0 x1 : _) : Statement (.laneClockGate x0 x1) := fun ok => Bool.noConfusion (show false = true from ok)

theorem lanePowerGate (x0 x1 : _) : Statement (.lanePowerGate x0 x1) := fun ok => Bool.noConfusion (show false = true from ok)

theorem heapInsert (x0 x1 x2 x3 : _) : Statement (.heapInsert x0 x1 x2 x3) := fun ok => Bool.noConfusion (show false = true from ok)

theorem heapCancel (x0 x1 : _) : Statement (.heapCancel x0 x1) := fun ok => Bool.noConfusion (show false = true from ok)

theorem heapRetire (x0 x1 : _) : Statement (.heapRetire x0 x1) := fun ok => Bool.noConfusion (show false = true from ok)

theorem requestEligible (x0 x1 : _) : Statement (.requestEligible x0 x1) := fun ok => Bool.noConfusion (show false = true from ok)

theorem hostMessage (x0 x1 : _) : Statement (.hostMessage x0 x1) := fun ok => Bool.noConfusion (show false = true from ok)

theorem pageInAllocate (x0 : _) : Statement (.pageInAllocate x0) := fun ok => Bool.noConfusion (show false = true from ok)

theorem pageInLand (x0 : _) : Statement (.pageInLand x0) := fun ok => Bool.noConfusion (show false = true from ok)

theorem tierReadFail (x0 : _) : Statement (.tierReadFail x0) := fun ok => Bool.noConfusion (show false = true from ok)

theorem reclaimDestroy (x0 x1 : _) : Statement (.reclaimDestroy x0 x1) := fun ok => Bool.noConfusion (show false = true from ok)

theorem engineTransferComplete (x0 x1 : _) : Statement (.engineTransferComplete x0 x1) := fun ok => Bool.noConfusion (show false = true from ok)

theorem dataFlit (x0 x1 x2 x3 x4 x5 x6 x7 x8 x9 : _) : Statement (.dataFlit x0 x1 x2 x3 x4 x5 x6 x7 x8 x9) := fun ok => Bool.noConfusion (show false = true from ok)

theorem flagFlit (x0 x1 x2 x3 x4 : _) : Statement (.flagFlit x0 x1 x2 x3 x4) := fun ok => Bool.noConfusion (show false = true from ok)

theorem ackFlit (x0 x1 : _) : Statement (.ackFlit x0 x1) := fun ok => Bool.noConfusion (show false = true from ok)

theorem nakFlit (x0 x1 : _) : Statement (.nakFlit x0 x1) := fun ok => Bool.noConfusion (show false = true from ok)

theorem permitGrantFlit (x0 x1 : _) : Statement (.permitGrantFlit x0 x1) := fun ok => Bool.noConfusion (show false = true from ok)

theorem permitReturnFlit (x0 x1 : _) : Statement (.permitReturnFlit x0 x1) := fun ok => Bool.noConfusion (show false = true from ok)

theorem refusalFlit (x0 x1 : _) : Statement (.refusalFlit x0 x1) := fun ok => Bool.noConfusion (show false = true from ok)

theorem resetFlit (x0 x1 : _) : Statement (.resetFlit x0 x1) := fun ok => Bool.noConfusion (show false = true from ok)

theorem permitWindow (x0 : _) : Statement (.permitWindow x0) := fun ok => Bool.noConfusion (show false = true from ok)

theorem portDown (x0 : _) : Statement (.portDown x0) := fun ok => Bool.noConfusion (show false = true from ok)

theorem peerUnreachable (x0 x1 : _) : Statement (.peerUnreachable x0 x1) := fun ok => Bool.noConfusion (show false = true from ok)

theorem hostMemAccess (x0 x1 x2 x3 : _) : Statement (.hostMemAccess x0 x1 x2 x3) := fun ok => Bool.noConfusion (show false = true from ok)

theorem hostTierAccess (x0 x1 x2 x3 : _) : Statement (.hostTierAccess x0 x1 x2 x3) := fun ok => Bool.noConfusion (show false = true from ok)

theorem accessTableWrite (x0 x1 x2 x3 : _) : Statement (.accessTableWrite x0 x1 x2 x3) := fun ok => Bool.noConfusion (show false = true from ok)

theorem hostRegisterWrite (x0 x1 x2 x3 : _) : Statement (.hostRegisterWrite x0 x1 x2 x3) := fun ok => Bool.noConfusion (show false = true from ok)

theorem quiesce (x0 : _) : Statement (.quiesce x0) := fun ok => Bool.noConfusion (show false = true from ok)

theorem partitionResume (x0 : _) : Statement (.partitionResume x0) := fun ok => Bool.noConfusion (show false = true from ok)

theorem partitionReset (x0 : _) : Statement (.partitionReset x0) := fun ok => Bool.noConfusion (show false = true from ok)

theorem partitionLoad (x0 : _) : Statement (.partitionLoad x0) := fun ok => Bool.noConfusion (show false = true from ok)

theorem repairLane (x0 x1 x2 : _) : Statement (.repairLane x0 x1 x2) := fun ok => Bool.noConfusion (show false = true from ok)

theorem repairCluster (x0 x1 : _) : Statement (.repairCluster x0 x1) := fun ok => Bool.noConfusion (show false = true from ok)

theorem powerOff (x0 : _) : Statement (.powerOff x0) := fun ok => Bool.noConfusion (show false = true from ok)

theorem loadImage : Statement .loadImage := fun ok => Bool.noConfusion (show false = true from ok)

theorem commitSecurityVersion : Statement .commitSecurityVersion := fun ok => Bool.noConfusion (show false = true from ok)

theorem attest : Statement .attest := fun ok => Bool.noConfusion (show false = true from ok)

theorem railRaise (x0 : _) : Statement (.railRaise x0) := fun ok => Bool.noConfusion (show false = true from ok)

theorem perstRelease : Statement .perstRelease := fun ok => Bool.noConfusion (show false = true from ok)

theorem railOutOfRange (x0 : _) : Statement (.railOutOfRange x0) := fun ok => Bool.noConfusion (show false = true from ok)

theorem dramScrub (x0 : _) : Statement (.dramScrub x0) := fun ok => Bool.noConfusion (show false = true from ok)

theorem llcScrub (x0 : _) : Statement (.llcScrub x0) := fun ok => Bool.noConfusion (show false = true from ok)

theorem thermalThrottle (x0 : _) : Statement (.thermalThrottle x0) := fun ok => Bool.noConfusion (show false = true from ok)

theorem thermalRecover (x0 : _) : Statement (.thermalRecover x0) := fun ok => Bool.noConfusion (show false = true from ok)

theorem thermtrip : Statement .thermtrip := fun ok => Bool.noConfusion (show false = true from ok)

theorem railRemove (x0 : _) : Statement (.railRemove x0) := fun ok => Bool.noConfusion (show false = true from ok)

end Sys2Proof.Laws.RoundTrip
end

