-- ==== Sys2Proof/Tests/Slice0.lean ====
section
/-!
SUPPORT. The model's own tests: ill-formed terms that the checks refuse, words written out bit by bit from the spec's
encoding tables, single steps, and for each statement states and operands that meet its hypotheses. Expected words and
results are computed by hand from the rules named.
-/

open Sys2Proof Sys2Proof.Machine

namespace Sys2Proof.Tests

set_option maxRecDepth 1000000
set_option Elab.async false

/-! ## Small states -/

/-- A hart at user level at 0x1000, with s1 = 5, s2 = 7, s3 = -2 and s4 = 64, and its handlers' addresses. -/
def hartU : Hart :=
  { Hart.reset with life := .active, pc := 0x1000, stvec := 0x2000, utvec := 0x3000,
                    s := [(1, 5), (2, 7), (3, BitVec.ofInt 64 (-2)), (4, 64)] }

/-- That hart alone. -/
def user : State := { State.reset with h := hartU }

/-- The same at supervisor level. -/
def sup : State := { user with h := { hartU with sup := true } }

/-- A hart entry of the handle table at 0x100000 (R69 to R71). -/
def handle (s : State) (i w0 w1 w2 w4 w5 : Nat) : State :=
  let a := 0x100000 + 64 * i
  ((((s.putPhys a 8 w0).putPhys (a + 8) 8 w1).putPhys (a + 16) 8 w2).putPhys (a + 32) 8 w4).putPhys (a + 40) 8 w5

/-- A strong binding of an index. -/
def strong (sp : Space) (i : Nat) : Binding :=
  { weak := false, hold := true, gone := false, gen := 1, index := BitVec.ofNat 24 i, space := sp, expert := none }

/-- An address space whose handle table has 16 entries at 0x100000. -/
def space : Space := { (Space.reset 0) with htbase := 0x0400000000100000 }

/-- A machine with one page of memory at VA 0, of every right, accessed and written before, and the objects of five handles: h1 in scratchpad, h2 in
that page at 0x8000, h3 weak and gone, h4 weak and live. -/
def memory (s : State) : State :=
  let s := { s with h := { s.h with space := space } }
  let s := s.placeWord [0x00, 0x21, 0x18, 0x02]
  let s := s.putPte (65536 * (s.fetchFrame + 5)) 0 (2048 + 384 + leafRights true true true) (s.fetchFrame + 6) 0
  let s := handle s 1 (2 ^ 48 + 2 ^ 40 + 1) 2 0 0x200000 0
  let s := handle s 2 (2 ^ 48 + 1) (2 + 2 * 2 ^ 32) 0x8000 0x2000 0
  let sp := s.h.space
  let s := { s with h := { s.h with slots := [(1, some (strong sp 1)), (2, some (strong sp 2)),
    (3, some { strong sp 2 with weak := true, gone := true }), (4, some { strong sp 2 with weak := true })] } }
  s

/-! ## Ill-formed terms -/

/-- Each check of `Instr.wf` refuses a term that fails it: scopes, register numbers, widths, modes, and event rows. -/
theorem test_wf_refuses :
    [Instr.fenceSv false 5, .fenceVs false 5, .fenceVv false 5, .fenceAll false 7, .samoAdd false 1 2 3 0 0 0 5,
     .vamoXor false 1 2 3 0 0 0 6, .vcas false 1 2 3 0 0 7, .vwait false 1 2 3 1 5, .vwait false 1 2 3 0 0, .rdsr false 1 14,
     .wrsr false 1 1, .setsr false 1 2 12, .clrsr false 1 2 76, .tlbinv false 1 2 3, .sext false 1 2 3, .zext false 1 2 3,
     .sld false 1 2 3 7 0, .sst false 1 2 3 4 0, .part false 3, .vcmp false 6 1 2 3 0 0, .vcmpk false 7 1 0 2 1 3,
     .vld false 1 2 3 0 6, .vld false 1 2 3 4 0, .vst false 1 2 3 0 5, .expoll false 1 2 0 3, .xcopy false 1 2 3 4 4,
     .xpush false 1 2 3 4 2, .vpref false 1 2 2, .thermtrip, .attest].map Instr.wf = List.replicate 30 false := by decide

/-- The same terms with a value that the checks admit. -/
theorem test_wf_admits :
    [Instr.fenceSv false 4, .samoAdd false 1 2 3 0 0 0 4, .vcas false 1 2 3 0 0 4, .vwait false 1 2 3 1 4, .rdsr false 1 13,
     .wrsr false 1 0, .setsr false 1 2 75, .tlbinv false 1 2 2, .sext false 1 2 2, .sld false 1 2 3 6 0, .sst false 1 2 3 3 0,
     .part false 8, .vcmp false 5 1 2 3 0 0, .vcmpk false 5 1 0 2 1 3, .vld false 1 2 3 0 5, .vst false 1 2 3 4 4,
     .expoll false 1 2 1 3, .xcopy false 1 2 3 4 3, .xpush false 1 2 3 4 1].map Instr.wf = List.replicate 19 true := by decide

/-! ## Words, field by field as the spec's encoding tables give them (R123 to R137) -/

theorem test_words_scalar : ∀ x ∈ ([
    (0b1_000010_100101_011010_1101001010011#32, .addi true 37 26 6739),
    (0b1_000011_100101_011010_1101001010011#32, .andi true 37 26 6739),
    (0b1_000100_100101_011010_1101001010011#32, .ori true 37 26 6739),
    (0b1_000101_100101_011010_1101001010011#32, .xori true 37 26 6739),
    (0b1_000110_100101_011010_1101001010011#32, .slti true 37 26 6739),
    (0b1_001000_100101_1011010010110100101#32, .ldhi true 37 370085),
    (0b1_001001_100101_1011010010110100101#32, .addpc true 37 370085),
    (0b1_001011_100101_1001_011010_100_110001#32, .sld true 37 9 26 4 49),
    (0b1_001100_100101_1001_011010_011_110001#32, .sst true 37 9 26 3 49),
    (0b1_001111_100101_1011010010110100101#32, .jal true 37 370085),
    (0b1_010000_100101_011010_1101001010011#32, .jalr true 37 26 6739),
    (0b1_010001000_100101_011010_1001011011#32, .subbnz true 37 26 603)] : List (BitVec 32 × Instr)),
    decodeBytes (wordBytes x.1) = .ok x.2 := by decide

theorem test_words_vector_a : ∀ x ∈ ([
    (0b1_010100_100101_011010_110001_100_10_00#32, .vadd true 37 26 49 4 2),
    (0b1_010101_100101_011010_110001_100_10_00#32, .vsub true 37 26 49 4 2),
    (0b1_010110_100101_011010_110001_100_10_00#32, .vmul true 37 26 49 4 2),
    (0b1_010111_100101_011010_110001_100_10_00#32, .vmulh true 37 26 49 4 2),
    (0b1_011000_100101_011010_110001_100_10_00#32, .vfma true 37 26 49 4 2),
    (0b1_011001_100101_011010_110001_100_10_00#32, .vfms true 37 26 49 4 2),
    (0b1_011010_100101_011010_110001_100_10_00#32, .vdiv true 37 26 49 4 2),
    (0b1_011011_100101_011010_110001_100_10_00#32, .vrem true 37 26 49 4 2),
    (0b1_011100_100101_011010_110001_100_10_00#32, .vmin true 37 26 49 4 2),
    (0b1_011101_100101_011010_110001_100_10_00#32, .vmax true 37 26 49 4 2),
    (0b1_011110_100101_011010_110001_100_10_00#32, .vand true 37 26 49 4 2),
    (0b1_011111_100101_011010_110001_100_10_00#32, .vor true 37 26 49 4 2),
    (0b1_100000_100101_011010_110001_100_10_00#32, .vxor true 37 26 49 4 2),
    (0b1_100001_100101_011010_110001_100_10_00#32, .vshl true 37 26 49 4 2),
    (0b1_100011_101_011_100101_011010_101_10_00#32, .vcmp true 5 3 37 26 5 2),
    (0b1_100100_100101_011010_110001_100_10_00#32, .vsel true 37 26 49 4 2),
    (0b1_100110_100101_011010_000000000_10_00#32, .vbc true 37 26 2),
    (0b1_100111_100101_011010_110001_100_10_00#32, .vadds true 37 26 49 4 2),
    (0b1_101000_100101_011010_110001_100_10_00#32, .vabsd true 37 26 49 4 2),
    (0b1_101001_100101_011010_110001_100_10_00#32, .vavg true 37 26 49 4 2),
    (0b1_110001_100101_011010_000000000_10_00#32, .vpack true 37 26 2),
    (0b1_110010_100101_011010_110001_100_10_00#32, .vdist true 37 26 49 4 2),
    (0b1_110101_100101_011010_110001_100_10_00#32, .vmergek true 37 26 49 4 2),
    (0b1_110110_100101_011010_000_100_000_10_00#32, .vconfl true 37 26 4 2)] : List (BitVec 32 × Instr)),
    decodeBytes (wordBytes x.1) = .ok x.2 := by decide

theorem test_words_vector_b : ∀ x ∈ ([
    (0b1_110111_100101_011010_110001_100_10_00#32, .mmac true 37 26 49 4 2),
    (0b1_111000_100101_011010_110001_100_10_00#32, .vpmul true 37 26 49 4 2),
    (0b1_111010_100101_1001_011010_110001_100#32, .vld true 37 9 26 49 4),
    (0b1_111011_100101_1001_011010_110001_100#32, .vst true 37 9 26 49 4)] : List (BitVec 32 × Instr)),
    decodeBytes (wordBytes x.1) = .ok x.2 := by decide

theorem test_words_sys : ∀ x ∈ ([
    (0b1_0000000000000000000000100000000#32, .ecall true),
    (0b1_0000000000000000000001000000000#32, .ebreak true),
    (0b1_0000000000000000000001100000000#32, .uret true),
    (0b1_0000000000000000000010000000000#32, .sret true),
    (0b1_0000000000000000000010100000_100#32, .fenceSv true 4),
    (0b1_0000000000000000000011000000_100#32, .fenceVs true 4),
    (0b1_0000000000000000000011100000_100#32, .fenceVv true 4),
    (0b1_0000000000000000000100000000_100#32, .fenceAll true 4),
    (0b1_000000_100101_00000001001_00001101#32, .rdsr true 37 13),
    (0b1_000000000000_100101_01010_01001011#32, .wrsr true 37 75),
    (0b1_000000_100101_011010_01011_01001011#32, .setsr true 37 26 75),
    (0b1_000000_100101_011010_01100_01001011#32, .clrsr true 37 26 75),
    (0b1_000000_100101_011010_01101000000_10#32, .tlbinv true 37 26 2),
    (0b1_000000_100101_011010_011100000000_0#32, .htinv true 37 26 0),
    (0b1_000000000000_100101_011110000_1001#32, .vfsave true 37 9),
    (0b1_000000000000_100101_100000000_1001#32, .vfrestore true 37 9),
    (0b1_0000000000000000001000100000000#32, .wfi true)] : List (BitVec 32 × Instr)),
    decodeBytes (wordBytes x.1) = .ok x.2 := by decide

theorem test_words_salu_a : ∀ x ∈ ([
    (0b1_000001_100101_011010_110001_0000000#32, .add true 37 26 49),
    (0b1_000001_100101_011010_110001_0000001#32, .sub true 37 26 49),
    (0b1_000001_100101_011010_110001_0000010#32, .and true 37 26 49),
    (0b1_000001_100101_011010_110001_0000011#32, .or true 37 26 49),
    (0b1_000001_100101_011010_110001_0000100#32, .xor true 37 26 49),
    (0b1_000001_100101_011010_110001_0000101#32, .sll true 37 26 49),
    (0b1_000001_100101_011010_110001_0000110#32, .srl true 37 26 49),
    (0b1_000001_100101_011010_110001_0000111#32, .sra true 37 26 49),
    (0b1_000001_100101_011010_110001_0001000#32, .slt true 37 26 49),
    (0b1_000001_100101_011010_110001_0001001#32, .sltu true 37 26 49),
    (0b1_000001_100101_011010_110001_0001010#32, .min true 37 26 49),
    (0b1_000001_100101_011010_110001_0001011#32, .max true 37 26 49),
    (0b1_000001_100101_011010_110001_0001100#32, .minu true 37 26 49),
    (0b1_000001_100101_011010_110001_0001101#32, .maxu true 37 26 49),
    (0b1_000001_100101_011010_110001_0001110#32, .mul true 37 26 49),
    (0b1_000001_100101_011010_110001_0001111#32, .mulh true 37 26 49),
    (0b1_000001_100101_011010_110001_0010000#32, .mulhu true 37 26 49),
    (0b1_000001_100101_011010_110001_0010001#32, .div true 37 26 49),
    (0b1_000001_100101_011010_110001_0010010#32, .divu true 37 26 49),
    (0b1_000001_100101_011010_110001_0010011#32, .rem true 37 26 49),
    (0b1_000001_100101_011010_110001_0010100#32, .remu true 37 26 49),
    (0b1_000001_100101_011010_0000000010101#32, .clz true 37 26),
    (0b1_000001_100101_011010_0000000010110#32, .ctz true 37 26),
    (0b1_000001_100101_011010_0000000010111#32, .popc true 37 26)] : List (BitVec 32 × Instr)),
    decodeBytes (wordBytes x.1) = .ok x.2 := by decide

theorem test_words_salu_b : ∀ x ∈ ([
    (0b1_000001_100101_011010_0000_10_0011000#32, .sext true 37 26 2),
    (0b1_000001_100101_011010_0000_10_0011001#32, .zext true 37 26 2)] : List (BitVec 32 × Instr)),
    decodeBytes (wordBytes x.1) = .ok x.2 := by decide

theorem test_words_shi : ∀ x ∈ ([
    (0b1_000111_100101_011010_0000000_110001#32, .slli true 37 26 49),
    (0b1_000111_100101_011010_0100000_110001#32, .srli true 37 26 49),
    (0b1_000111_100101_011010_1000000_110001#32, .srai true 37 26 49)] : List (BitVec 32 × Instr)),
    decodeBytes (wordBytes x.1) = .ok x.2 := by decide

theorem test_words_sfp : ∀ x ∈ ([
    (0b1_001010_100101_011010_110001_0000000#32, .sfaddF32 true 37 26 49),
    (0b1_001010_100101_011010_110001_0010000#32, .sfaddF64 true 37 26 49),
    (0b1_001010_100101_011010_110001_0000001#32, .sfsubF32 true 37 26 49),
    (0b1_001010_100101_011010_110001_0010001#32, .sfsubF64 true 37 26 49),
    (0b1_001010_100101_011010_110001_0000010#32, .sfmulF32 true 37 26 49),
    (0b1_001010_100101_011010_110001_0010010#32, .sfmulF64 true 37 26 49),
    (0b1_001010_100101_011010_110001_0000011#32, .sfdivF32 true 37 26 49),
    (0b1_001010_100101_011010_110001_0010011#32, .sfdivF64 true 37 26 49),
    (0b1_001010_100101_011010_110001_0000100#32, .sfmaF32 true 37 26 49),
    (0b1_001010_100101_011010_110001_0010100#32, .sfmaF64 true 37 26 49),
    (0b1_001010_100101_011010_0000000000101#32, .sfsqrtF32 true 37 26),
    (0b1_001010_100101_011010_0000000010101#32, .sfsqrtF64 true 37 26),
    (0b1_001010_100101_011010_110001_0000110#32, .sfminF32 true 37 26 49),
    (0b1_001010_100101_011010_110001_0010110#32, .sfminF64 true 37 26 49),
    (0b1_001010_100101_011010_110001_0000111#32, .sfmaxF32 true 37 26 49),
    (0b1_001010_100101_011010_110001_0010111#32, .sfmaxF64 true 37 26 49),
    (0b1_001010_100101_011010_110001_10_01000#32, .sfcmpF32 true 37 26 49 2),
    (0b1_001010_100101_011010_110001_10_11000#32, .sfcmpF64 true 37 26 49 2),
    (0b1_001010_100101_011010_000000_10_01001#32, .sfcvtF32 true 37 26 2),
    (0b1_001010_100101_011010_000000_10_11001#32, .sfcvtF64 true 37 26 2),
    (0b1_001010_100101_011010_0000000001010#32, .sfmvF32 true 37 26),
    (0b1_001010_100101_011010_0000000011010#32, .sfmvF64 true 37 26)] : List (BitVec 32 × Instr)),
    decodeBytes (wordBytes x.1) = .ok x.2 := by decide

theorem test_words_samo : ∀ x ∈ ([
    (0b1_001101_100101_1001_011010_000_0_1_1_100#32, .samoAdd true 37 9 26 0 1 1 4),
    (0b1_001101_100101_1001_011010_001_0_1_1_100#32, .samoAddsat true 37 9 26 0 1 1 4),
    (0b1_001101_100101_1001_011010_010_0_1_1_100#32, .samoMin true 37 9 26 0 1 1 4),
    (0b1_001101_100101_1001_011010_011_0_1_1_100#32, .samoMax true 37 9 26 0 1 1 4),
    (0b1_001101_100101_1001_011010_100_0_1_1_100#32, .samoAnd true 37 9 26 0 1 1 4),
    (0b1_001101_100101_1001_011010_101_0_1_1_100#32, .samoOr true 37 9 26 0 1 1 4),
    (0b1_001101_100101_1001_011010_110_0_1_1_100#32, .samoXor true 37 9 26 0 1 1 4),
    (0b1_001101_100101_1001_011010_111_0_1_1_100#32, .samoSwap true 37 9 26 0 1 1 4)] : List (BitVec 32 × Instr)),
    decodeBytes (wordBytes x.1) = .ok x.2 := by decide

theorem test_words_bra : ∀ x ∈ ([
    (0b1_001110000_100101_011010_1001011011#32, .beq true 37 26 603),
    (0b1_001110001_100101_011010_1001011011#32, .bne true 37 26 603),
    (0b1_001110010_100101_011010_1001011011#32, .blt true 37 26 603),
    (0b1_001110011_100101_011010_1001011011#32, .bge true 37 26 603),
    (0b1_001110100_100101_011010_1001011011#32, .bltu true 37 26 603),
    (0b1_001110101_100101_011010_1001011011#32, .bgeu true 37 26 603)] : List (BitVec 32 × Instr)),
    decodeBytes (wordBytes x.1) = .ok x.2 := by decide

theorem test_words_cfg : ∀ x ∈ ([
    (0b1_010010000000000000000_10_01100100#32, .vcfg true 2 100),
    (0b1_010010_100101_00000000100_01100100#32, .vtag true 37 100),
    (0b1_010010_100101_011010_0100000_110001#32, .vsetvl true 37 26 49),
    (0b1_010010_100101_011010_0110000_110001#32, .vsetvlg true 37 26 49),
    (0b1_010010000000000000100000000_1000#32, .part true 8),
    (0b1_010010_100101_011010_101_110001_1001#32, .cbld true 37 26 49 9)] : List (BitVec 32 × Instr)),
    decodeBytes (wordBytes x.1) = .ok x.2 := by decide

theorem test_words_hart : ∀ x ∈ ([
    (0b1_010011_100101_011010_000_1001011011#32, .hspawn true 37 26 603),
    (0b1_0100110000000000000010000000000#32, .hexit true),
    (0b1_010011000000_100101_0100000000000#32, .hwait true 37),
    (0b1_0100110000000000000110000000000#32, .yield true),
    (0b1_010011000000_100101_1000000000000#32, .gang true 37),
    (0b1_0100110000000000001010000000000#32, .gbar true),
    (0b1_010011_100101_011010_1100000000000#32, .lspop true 37 26),
    (0b1_010011000000_100101_1110000000000#32, .lspush true 37)] : List (BitVec 32 × Instr)),
    decodeBytes (wordBytes x.1) = .ok x.2 := by decide

theorem test_words_vshr : ∀ x ∈ ([
    (0b1_100010_100101_011010_110001_100_10_00#32, .vshrL true 37 26 49 4 2),
    (0b1_100010_100101_011010_110001_100_10_01#32, .vshrA true 37 26 49 4 2),
    (0b1_100010_100101_011010_110001_100_10_10#32, .vshrAr true 37 26 49 4 2)] : List (BitVec 32 × Instr)),
    decodeBytes (wordBytes x.1) = .ok x.2 := by decide

theorem test_words_vun : ∀ x ∈ ([
    (0b1_100101_100101_011010_000000000_10_00#32, .vabs true 37 26 2),
    (0b1_100101_100101_011010_000001000_10_00#32, .vneg true 37 26 2),
    (0b1_100101_100101_011010_000010000_10_00#32, .vnot true 37 26 2),
    (0b1_100101_100101_011010_000011000_10_00#32, .vsqrt true 37 26 2),
    (0b1_100101_100101_011010_000100000_10_00#32, .vclz true 37 26 2),
    (0b1_100101_100101_011010_000101000_10_00#32, .vpopc true 37 26 2),
    (0b1_100101_100101_011010_000110000_10_00#32, .vmv true 37 26 2),
    (0b1_100101_100101_000000000111000_10_00#32, .viota true 37 2),
    (0b1_100101_100101_011010_001000000_10_00#32, .vcvt true 37 26 2),
    (0b1_100101_100101_011010_001001000_10_00#32, .vrscale true 37 26 2)] : List (BitVec 32 × Instr)),
    decodeBytes (wordBytes x.1) = .ok x.2 := by decide

theorem test_words_vslide : ∀ x ∈ ([
    (0b1_101010_100101_011010_110001_100_10_00#32, .vslideUp true 37 26 49 4 2),
    (0b1_101010_100101_011010_110001_100_10_01#32, .vslideDn true 37 26 49 4 2)] : List (BitVec 32 × Instr)),
    decodeBytes (wordBytes x.1) = .ok x.2 := by decide

theorem test_words_vmsk : ∀ x ∈ ([
    (0b1_101011000_100_000_011_000_101_0000000#32, .vmskAnd true 4 3 5),
    (0b1_101011000_100_000_011_000_101_0010000#32, .vmskOr true 4 3 5),
    (0b1_101011000_100_000_011_000_101_0100000#32, .vmskXor true 4 3 5),
    (0b1_101011000_100_000_011_000_101_0110000#32, .vmskAndn true 4 3 5),
    (0b1_101011000_100_000_011_0000001000000#32, .vmskNot true 4 3),
    (0b1_101011_100101_000_100_0000001010000#32, .vmskCount true 37 0b100_000),
    (0b1_101011_100101_000_100_0000001100000#32, .vmskFirst true 37 0b100_000)] : List (BitVec 32 × Instr)),
    decodeBytes (wordBytes x.1) = .ok x.2 := by decide

theorem test_words_vk : ∀ x ∈ ([
    (0b1_101100_100101_10_011010_01_110001_000#32, .vaddk true 37 2 26 1 49),
    (0b1_101100_100101_10_011010_01_110001_001#32, .vsubk true 37 2 26 1 49),
    (0b1_101100_100101_10_011010_01_110001_010#32, .vmulk true 37 2 26 1 49),
    (0b1_101100_100101_10_011010_01_110001_011#32, .vfmak true 37 2 26 1 49),
    (0b1_101100_100101_10_011010_01_110001_100#32, .vmink true 37 2 26 1 49),
    (0b1_101100_100101_10_011010_01_110001_101#32, .vmaxk true 37 2 26 1 49),
    (0b1_101100_100101_10_011010_01_110001_110#32, .vselk true 37 2 26 1 49),
    (0b1_101100_101_011_10_100101_01_011010_111#32, .vcmpk true 5 3 2 37 1 26)] : List (BitVec 32 × Instr)),
    decodeBytes (wordBytes x.1) = .ok x.2 := by decide

theorem test_words_seg : ∀ x ∈ ([
    (0b1_101101_100101_011010_110001_0000000#32, .spush true 37 26 49),
    (0b1_101101_100101_011010_110001_0000001#32, .spop true 37 26 49),
    (0b1_101101_100101_011010_0000000000010#32, .sdepth true 37 26),
    (0b1_101101_100101_011010_110001_100_0011#32, .sgetl true 37 26 49 4),
    (0b1_101101_100101_011010_000000_100_0100#32, .vflat true 37 26 4),
    (0b1_101101_100101_011010_110001_0000101#32, .sopen true 37 26 49)] : List (BitVec 32 × Instr)),
    decodeBytes (wordBytes x.1) = .ok x.2 := by decide

theorem test_words_vred : ∀ x ∈ ([
    (0b1_101110_100101_011010_110001_100_10_00#32, .vredAdd true 37 26 49 4 2),
    (0b1_101110_100101_011010_110001_100_10_01#32, .vredMul true 37 26 49 4 2),
    (0b1_101110_100101_011010_110001_100_10_10#32, .vredMin true 37 26 49 4 2),
    (0b1_101110_100101_011010_110001_100_10_11#32, .vredMax true 37 26 49 4 2)] : List (BitVec 32 × Instr)),
    decodeBytes (wordBytes x.1) = .ok x.2 := by decide

theorem test_words_vredb : ∀ x ∈ ([
    (0b1_101111_100101_011010_110001_100_10_00#32, .vredbAnd true 37 26 49 4 2),
    (0b1_101111_100101_011010_110001_100_10_01#32, .vredbOr true 37 26 49 4 2),
    (0b1_101111_100101_011010_110001_100_10_10#32, .vredbXor true 37 26 49 4 2),
    (0b1_101111_100101_011010_110001_100_10_11#32, .vidxmax true 37 26 49 4 2)] : List (BitVec 32 × Instr)),
    decodeBytes (wordBytes x.1) = .ok x.2 := by decide

theorem test_words_vscan : ∀ x ∈ ([
    (0b1_110000_100101_011010_110001_100_10_00#32, .vscanAddInc true 37 26 49 4 2),
    (0b1_110000_100101_011010_110001_100_10_01#32, .vscanAddExc true 37 26 49 4 2),
    (0b1_110000_100101_011010_110001_100_10_10#32, .vscanMaxInc true 37 26 49 4 2),
    (0b1_110000_100101_011010_110001_100_10_11#32, .vscanMaxExc true 37 26 49 4 2)] : List (BitVec 32 × Instr)),
    decodeBytes (wordBytes x.1) = .ok x.2 := by decide

theorem test_words_vsplit : ∀ x ∈ ([
    (0b1_110011_100101_011010_000000111_10_00#32, .vsplitMask true 37 26 2),
    (0b1_110011_100101_011010_0000001110001#32, .vsplitThree true 37 26)] : List (BitVec 32 × Instr)),
    decodeBytes (wordBytes x.1) = .ok x.2 := by decide

theorem test_words_vxl : ∀ x ∈ ([
    (0b1_110100_100101_011010_110001_100_10_00#32, .vgatherr true 37 26 49 4 2),
    (0b1_110100_100101_011010_110001_100_10_01#32, .vpushl true 37 26 49 4 2),
    (0b1_110100_100101_011010_110001_000_10_10#32, .vpermb true 37 26 49 2),
    (0b1_110100_100101_011010_000000_100_10_11#32, .vrev true 37 26 4 2)] : List (BitVec 32 × Instr)),
    decodeBytes (wordBytes x.1) = .ok x.2 := by decide

theorem test_words_sfu : ∀ x ∈ ([
    (0b1_111001_100101_011010_000000000000_0#32, .vexp true 37 26 0),
    (0b1_111001_100101_011010_0000010000000#32, .vln true 37 26),
    (0b1_111001_100101_011010_0000100000000#32, .vrcp true 37 26),
    (0b1_111001_100101_011010_0000110000000#32, .vrsq true 37 26),
    (0b1_111001_100101_011010_0001000000000#32, .vsin true 37 26),
    (0b1_111001_100101_011010_0001010000000#32, .vcos true 37 26),
    (0b1_111001_100101_011010_0001100000000#32, .vtanh true 37 26),
    (0b1_111001_100101_011010_0001110000000#32, .vsigm true 37 26),
    (0b1_111001_100101_011010_0010000000000#32, .vrand true 37 26)] : List (BitVec 32 × Instr)),
    decodeBytes (wordBytes x.1) = .ok x.2 := by decide

theorem test_words_vamo : ∀ x ∈ ([
    (0b1_111100_100101_1001_011010_000_0_1_1_100#32, .vamoAdd true 37 9 26 0 1 1 4),
    (0b1_111100_100101_1001_011010_001_0_1_1_100#32, .vamoAddsat true 37 9 26 0 1 1 4),
    (0b1_111100_100101_1001_011010_010_0_1_1_100#32, .vamoMin true 37 9 26 0 1 1 4),
    (0b1_111100_100101_1001_011010_011_0_1_1_100#32, .vamoMax true 37 9 26 0 1 1 4),
    (0b1_111100_100101_1001_011010_100_0_1_1_100#32, .vamoAnd true 37 9 26 0 1 1 4),
    (0b1_111100_100101_1001_011010_101_0_1_1_100#32, .vamoOr true 37 9 26 0 1 1 4),
    (0b1_111100_100101_1001_011010_110_0_1_1_100#32, .vamoXor true 37 9 26 0 1 1 4),
    (0b1_111100_100101_1001_011010_111_0_1_1_100#32, .vamoSwap true 37 9 26 0 1 1 4)] : List (BitVec 32 × Instr)),
    decodeBytes (wordBytes x.1) = .ok x.2 := by decide

theorem test_words_vcw : ∀ x ∈ ([
    (0b1_111101_100101_1001_011010_0000_0_1_100#32, .vcas true 37 9 26 0 1 4),
    (0b1_111101_100101_1001_011010_100_000_100#32, .vwait true 37 9 26 4 4)] : List (BitVec 32 × Instr)),
    decodeBytes (wordBytes x.1) = .ok x.2 := by decide

theorem test_words_hblk : ∀ x ∈ ([
    (0b1_111110_100101_011010_00_1001_0000000#32, .hnew true 37 26 9),
    (0b1_111110000000_100101_00_1001_0000001#32, .hbind true 37 9),
    (0b1_111110_100101_00000000_1001_0000010#32, .hup true 37 9),
    (0b1_11111000000000000000_1001_0000011#32, .hdown true 9),
    (0b1_111110_100101_00000000_1001_0000100#32, .hweak true 37 9),
    (0b1_11111000000000000000_1001_0000101#32, .hrel true 9),
    (0b1_111110_100101_00000000_1001_0000110#32, .hchk true 37 9),
    (0b1_111110_100101_011010_00_1001_0000111#32, .hinfo true 37 26 9),
    (0b1_111110_100101_011010_0000000001000#32, .balloc true 37 26),
    (0b1_111110000000_100101_011010_0001001#32, .bfree true 37 26),
    (0b1_111110_100101_00_1001_00_0110_0001010#32, .bfork true 37 9 6),
    (0b1_111110_100101_011010_00_1001_0001011#32, .bcow true 37 26 9),
    (0b1_11111000_1001_100101_011010_0001100#32, .bmap true 9 37 26),
    (0b1_111110_100101_011010_00_1001_0001101#32, .btlen true 37 26 9),
    (0b1_11111000000000000000_1001_0001110#32, .brel true 9),
    (0b1_111110_100101_011010_10_1001_0001111#32, .exbind true 37 26 2 9),
    (0b1_111110_100101_011010_10_1001_0010000#32, .expoll true 37 26 2 9),
    (0b1_11111000000000000000_1001_0010001#32, .exrel true 9),
    (0b1_111110_100101_011010_110001_0010010#32, .expin true 37 26 49),
    (0b1_111110_100101_011010_110001_0010011#32, .exstat true 37 26 49)] : List (BitVec 32 × Instr)),
    decodeBytes (wordBytes x.1) = .ok x.2 := by decide

theorem test_words_xeng : ∀ x ∈ ([
    (0b1_111111_1001_0110_100101_011010_00_011#32, .xcopy true 9 6 37 26 3),
    (0b1_111111_1001_0110_100101_011010_01_001#32, .xpush true 9 6 37 26 1),
    (0b1_111111_1001_0000_100101_011010_10000#32, .xfill true 9 37 26),
    (0b1_1111110000_1001_000000_100101_11_001#32, .vpref true 9 37 1)] : List (BitVec 32 × Instr)),
    decodeBytes (wordBytes x.1) = .ok x.2 := by decide

/-- R138: the word of zeros, with either convoy-start bit, is no instruction. -/
theorem test_no_instruction : decode 0 = .err .enc ∧ decode 0x80000000 = .err .enc := by decide

/-! ## Single steps -/

/-- What a step leaves, as a test sees it. -/
def after (o : Out) (f : State → Bool) : Bool := match o with | .next t => f t | _ => false

/-- R10, R123, R142: from reset with a hart in context 0, the word of ADD s3, s1, s2 laid out at its pc runs. -/
theorem test_step_add :
    after (step (user.withFetchWord 32 0x02182100)) (fun t => t.rd 3 == 12 && t.h.pc == 0x1004) = true := by decide +kernel

/-- R142: the product's high half, of -2 and 5, is all ones; a write to s0 is discarded. -/
theorem test_mulh : after (exec (.mulh false 0 3 1) user) (fun t => t.rd 0 == 0) = true ∧
    after (exec (.mulh false 5 3 1) user) (fun t => t.rd 5 == BitVec.allOnes 64) = true := by decide +kernel

/-- R144: 7 by -2 is -3, remainder 1; by s0 all ones and the dividend. -/
theorem test_division : after (exec (.div false 5 2 3) user) (fun t => t.rd 5 == BitVec.ofInt 64 (-3)) = true ∧
    after (exec (.rem false 5 2 3) user) (fun t => t.rd 5 == 1) = true ∧
    after (exec (.div false 5 2 0) user) (fun t => t.rd 5 == BitVec.allOnes 64) = true ∧
    after (exec (.remu false 5 2 0) user) (fun t => t.rd 5 == 7) = true := by decide +kernel

/-- R148: 1.5 + 2.25 is 3.75 in f32 (0x3FC00000, 0x40100000, 0x40700000); 1 / 0 is infinity and raises DZ, flag 1. -/
theorem test_sfp :
    let s : State := { user with h := { hartU with s := [(1, 0x3FC00000), (2, 0x40100000), (3, 0x3F800000)] } }
    after (exec (.sfaddF32 false 5 1 2) s) (fun t => t.rd 5 == 0x40700000 && t.h.fcsr == 0) = true ∧
    after (exec (.sfdivF32 false 5 3 0) s) (fun t => t.rd 5 == 0x7F800000 && t.h.fcsr != 0) = true := by decide +kernel

/-- R152: BLTU compares without sign: 7 is below -2's word, so the branch goes back 8 bytes; BLT does not. -/
theorem test_branches : after (exec (.bltu false 2 3 (-2)) user) (fun t => t.h.pc == 0xFF8) = true ∧
    after (exec (.blt false 2 3 (-2)) user) (fun t => t.h.pc == 0x1004) = true := by decide +kernel

/-- R153: JALR reads its source before it links, and clears the low bits. -/
theorem test_jalr : after (exec (.jalr false 2 2 0) user) (fun t => t.rd 2 == 0x1004 && t.h.pc == 4) = true := by decide +kernel

/-- R72, R150: a byte of -2 stored through h2, whose object lies at 0x8000 of its page, lands 5 bytes on. -/
theorem test_store : after (exec (.sst false 3 2 1 0 0) (memory user)) (fun t =>
    t.byteAt (.phys (65536 * (user.fetchFrame + 6) + 0x8005)) == 0xFE) = true := by decide +kernel

/-- R72, R150: such a byte is read as -2 sign-extended, and as 0xFE zero-extended. -/
theorem test_load :
    let s := (memory user).putRaw (.phys (65536 * (user.fetchFrame + 6) + 0x8005)) [0xFE]
    after (exec (.sld false 5 2 1 0 0) s) (fun t => t.rd 5 == BitVec.ofInt 64 (-2)) = true ∧
    after (exec (.sld false 5 2 1 4 0) s) (fun t => t.rd 5 == 0xFE) = true := by decide +kernel

/-- R77: a load through a gone weak slot writes 0 and sets HSTAT.GONE. -/
theorem test_gone : after (exec (.sld false 1 3 1 3 0) (memory user)) (fun t => t.rd 1 == 0 && t.h.gone) = true := by
  decide +kernel

/-- R171, R165: WFI parks past itself; ECALL at supervisor level sets SCAUSE to SPL and code 2. -/
theorem test_wfi_ecall : after (exec (.wfi false) sup) (fun t => t.h.park == some .wfi && t.h.pc == 0x1004) = true ∧
    after (exec (.ecall false) sup) (fun t => t.h.pc == 0x2000 && t.h.scause == 0x4000000000000002) = true := by
  decide +kernel

/-! ## Statements of scalar instructions: their hypotheses are met -/

/-- An access whose bytes are found and readable. -/
def runs (x : Got × State) : Bool := match x with | (.runs l, u) => (u.badIn l).isEmpty | _ => false

theorem runs_ex {x : Got × State} (h : runs x = true) : ∃ l u, x = (.runs l, u) ∧ u.badIn l = [] := by
  obtain ⟨g, u⟩ := x
  cases g with
  | runs l => exact ⟨l, u, rfl, by simpa [runs] using h⟩
  | gone => simp [runs] at h
  | trap t => simp [runs] at h

/-- An access that meets a gone weak slot. -/
def isGone (x : Got × State) : Bool := match x with | (.gone, _) => true | _ => false

theorem isGone_ex {x : Got × State} (h : isGone x = true) : ∃ u, x = (.gone, u) := by
  obtain ⟨g, u⟩ := x
  cases g <;> simp_all [isGone]

theorem witness_ScalarIntegerResults : user.runnable = true := by decide
theorem witness_ScalarBitCounts : user.runnable = true := by decide
theorem witness_ScalarFloatingPoint : user.runnable = true := by decide
theorem witness_JumpsAndCountedBranch : user.runnable = true := by decide

/-- A hart with the two operands whose quotient overflows. -/
def extreme : State := { user with h := { hartU with s := [(1, BitVec.intMin 64), (2, BitVec.allOnes 64)] } }

theorem witness_ScalarDivision : user.runnable = true ∧ user.rd 0 = 0 ∧
    (user.rd 3 ≠ 0 ∧ ¬(user.rd 1 = BitVec.intMin 64 ∧ user.rd 3 = BitVec.allOnes 64)) ∧
    (extreme.runnable = true ∧ extreme.rd 1 = BitVec.intMin 64 ∧ extreme.rd 2 = BitVec.allOnes 64) := by decide

theorem witness_BranchesGoWhereTheyShould : user.runnable = true ∧
    (user.rd 1 = user.rd 1 ∧ user.rd 1 ≠ user.rd 2) ∧
    ((user.rd 3).toInt < (user.rd 2).toInt ∧ ¬(user.rd 2).toInt < (user.rd 3).toInt) ∧
    ((user.rd 2).toNat < (user.rd 3).toNat ∧ ¬(user.rd 3).toNat < (user.rd 2).toNat) := by decide

theorem witness_TranslationTouchesOnlyBits :
    ∃ r u, (memory user).translate space true Want.load 0x8000 = (r, u) := ⟨_, _, rfl⟩

theorem witness_LoadsReadTheirPlaces :
    (∀ w : BitVec 3, w.toNat < 7 → (memory user).runnable = true ∧
      ∃ l u, ((memory user).noteCv true).one 2 .sld false (((memory user).rd 1).toInt + 3 * widthBytes w) (widthBytes w) =
        (.runs l, u) ∧ u.badIn l = []) ∧
    (∃ u, ((memory user).noteCv false).one 3 .sld false (((memory user).rd 1).toInt + 0) 8 = (.gone, u)) ∧
    ((63 : BitVec 6).toNat + (0 : BitVec 4).toNat + 1 ≤ 64 ∧
      ∃ l u, ((memory user).noteCv false).one 2 .cbld false ((memory user).rd 1).toInt (8 * (0 + 1)) = (.runs l, u) ∧
        u.badIn l = []) ∧
    64 < (63 : BitVec 6).toNat + (1 : BitVec 4).toNat + 1 := by
  have h : ∀ w : BitVec 3, w.toNat < 7 → runs (((memory user).noteCv true).one 2 .sld false
    (((memory user).rd 1).toInt + 3 * widthBytes w) (widthBytes w)) = true := by decide +kernel
  exact ⟨fun w hw => ⟨by decide, runs_ex (h w hw)⟩, isGone_ex (by decide +kernel),
    ⟨by decide, runs_ex (by decide +kernel)⟩, by decide⟩

theorem witness_StoresAndAtomics :
    (∃ l u, ((memory user).noteCv false).one 2 .store false (((memory user).rd 1).toInt + 0) 1 = (.runs l, u) ∧
      u.badIn l = []) ∧
    (∃ l u, ((memory user).noteCv false).one 1 .atomic false ((memory user).rd 4).toInt 8 = (.runs l, u) ∧ u.badIn l = []) ∧
    (let old := 0; bits old 44 1 ≤ bits (samoNew .and 64 old 5) 44 1) :=
  ⟨runs_ex (by decide +kernel), runs_ex (by decide +kernel), by decide⟩

theorem witness_StateRegisterAccess : SrReady user false 13 ∧ SrReady user true 0 ∧ SrReady sup true 64 ∧
    SrReady sup true 74 ∧ SrReady sup true 75 ∧
    (srWritable 0 = true ∧ srWritable 64 = true ∧ srWritable 74 = true) ∧
    bits (sup.rd 1).toNat 37 2 = 0 ∧ sup.cur < 3072 := by
  refine ⟨⟨by decide, by decide, fun _ => rfl⟩, ⟨by decide, by decide, fun _ => rfl⟩, ⟨by decide, fun _ => rfl, fun _ => rfl⟩,
    ⟨by decide, fun _ => rfl, fun _ => rfl⟩, ⟨by decide, fun _ => rfl, fun _ => rfl⟩, by decide, by decide, by decide⟩

/-- A transfer in flight. -/
def flight : Xfer :=
  { tag := 1, push := true, slot := 5, peer := 1, peerh := 0, start := 0, total := 64, payload := List.replicate 64 0, dest := [],
    moved := 0, got := [], permits := [], flag := none, flagSent := false, refused := none,
    relay := none, spans := [], ends := none, stale := false, held := [], sent := 0 }

/-- A hart with that transfer. -/
def busy : State := { user with h := { hartU with xfers := [flight] } }

/-- A hart at supervisor level with an interrupt pending. -/
def pending : State := { sup with h := { sup.h with intr := [(1, 9)] } }

theorem witness_FencesInvalidationsAndWfi :
    (sup.runnable = true ∧ sup.h.sup = true ∧ sup.h.xfers = [] ∧ sup.h.intr = []) ∧
    (busy.runnable = true ∧ busy.h.xfers ≠ []) ∧
    (pending.runnable = true ∧ pending.h.sup = true ∧ pending.h.intr ≠ []) := by decide

theorem witness_PrivilegedTrapsAtUserLevel : user.h.sup = false ∧ user.runnable = true ∧
    Instr.wfi false ∈ privilegedForms false 0 0 0 64 ∧ Instr.rdsr false 0 64 ∈ privilegedForms false 0 0 0 64 := by
  decide

/-- That writing a frame succeeds, or fails at a page. -/
def frameOk (x : Except Word State × State) : Bool := match x with | (.ok _, _) => true | _ => false

theorem frameOk_ex {x : Except Word State × State} (h : frameOk x = true) : ∃ u r, x = (.ok u, r) := by
  obtain ⟨g, u⟩ := x
  cases g <;> simp_all [frameOk]

theorem frameErr_ex {x : Except Word State × State} (h : frameOk x = false) : ∃ p u, x = (.error p, u) := by
  obtain ⟨g, u⟩ := x
  cases g <;> simp_all [frameOk]

/-- A machine in partitions of four lanes, with 1088 KiB from VA 0x100000 on mapped for its frames. -/
def framed : State :=
  let s := user.placeWord []
  let s := { s with clusters := [(0, { Cluster.reset with pw := 3 })] }
  let s := (List.range 17).foldl (fun s i =>
    s.putPte (65536 * (s.fetchFrame + 5)) (16 + i) (2048 + 384 + leafRights true true false) (0x400 + i) 0) s
  { s with h := { s.h with sframe := 0x100000, uframe := 0x100000 } }

theorem framed_user : frameOk (framed.writeFrame 0 framed.h.uframe 0x1000 0) = true := by decide +kernel

theorem witness_SupervisorEntry :
    (user.h.stvec ≠ 0 ∧ sup.h.stvec ≠ 0 ∧ sup.h.sup = true ∧ user.h.sup = false ∧ State.reset.h.stvec = 0) ∧
    ((framed.h.stvec != 0 && !framed.h.sup) = true ∧ ∃ u r, framed.writeFrame 1 framed.h.sframe 0x1000 0 = (.ok u, r)) ∧
    (∃ page u, user.writeFrame 1 user.h.sframe 0x1000 0 = (.error page, u)) :=
  ⟨by decide, ⟨by decide +kernel, frameOk_ex (by decide +kernel)⟩, frameErr_ex (by decide +kernel)⟩

theorem witness_UserTrapEntry :
    ((!framed.h.sup && framed.h.utvec != 0 && !framed.h.ucause.getLsbD 63) = true ∧
      ∃ u r, framed.writeFrame 0 framed.h.uframe 0x1000 0 = (.ok u, r)) ∧
    (user.h.sup = false ∧ user.h.utvec ≠ 0 ∧ user.h.ucause.getLsbD 63 = false ∧
      ∃ page u, user.writeFrame 0 user.h.uframe 0x1000 0 = (.error page, u)) ∧
    (sup.h.sup = true ∧ State.reset.h.utvec = 0) :=
  ⟨⟨by decide +kernel, frameOk_ex framed_user⟩,
    ⟨by decide, by decide, by decide, frameErr_ex (by decide +kernel)⟩, by decide⟩

theorem witness_CallsEnterTheSupervisor :
    (sup.runnable = true ∧ sup.h.stvec ≠ 0 ∧ sup.h.sup = true) ∧
    ((framed.runnable && framed.h.stvec != 0 && !framed.h.sup) = true ∧
      (∃ u r, (framed.noteCv true).writeFrame 1 framed.h.sframe (framed.h.pc + 4) 0 = (.ok u, r)) ∧
      ∃ u r, (framed.noteCv true).writeFrame 1 framed.h.sframe framed.h.pc 0 = (.ok u, r)) :=
  ⟨by decide, by decide +kernel, frameOk_ex (by decide +kernel), frameOk_ex (by decide +kernel)⟩

/-! ## Frames -/

/-- The seal of a frame of 64 bytes, its size the only field that is not zero, under the key 0: SHAKE256 of 32 zero bytes and
of the frame's bytes but for the seal, as an implementation outside the model computes it (R290). -/
def sealBits : List Byte := [0xEF, 0x21, 0xD4, 0x21, 0xCE, 0x1E, 0xA9, 0x59, 0x62, 0x70, 0x7E, 0xE7, 0x67, 0x6C, 0x9B, 0x5D]

/-- That frame. -/
def sealedBytes : List Byte := [0, 0, 0, 0, 64, 0, 0, 0] ++ List.replicate 24 0 ++ sealBits ++ List.replicate 16 0

/-- R290: SHAKE256 under the frame key. -/
theorem test_seal : State.sealOf 0 sealedBytes = sealBits := by decide +kernel

/-- CRC-32C of the digits 1 to 9, its published check value (R339). -/
theorem test_crc : Shake.crc32c [0x31, 0x32, 0x33, 0x34, 0x35, 0x36, 0x37, 0x38, 0x39] = 0xE3069283 := by decide +kernel

/-- The machine at a level with such a frame of a kind at VA 0x9000, that restores the pc 0x5000 and s56 = 8. -/
def returning (level : Bool) (kind : Nat) : State :=
  let s := memory user
  let f : Frame := { serial := 0, sealed := sealBits, key := 0, kind := kind, pw := 0, pc := 0x5000, estart := 0, resuming := false,
                     restart := Restart.none, scr := [8], lanes := Hart.reset.lanes, park := none, xfers := [],
                     queue := [], live := true }
  let s := s.putRaw (.phys (65536 * (s.fetchFrame + 6) + 0x9000)) sealedBytes
  { s with h := { s.h with sup := level, sframe := 0x9000, uframe := 0x9000, slots := [(1, some (strong space 1))] },
           pkg := { s.pkg with frames := [f] } }

/-- That a frame of one of some kinds is read. -/
def reads (x : State.Unsealed × State) (l : List Nat) (same : Bool := true) : Bool :=
  match x with | (.good f, u) => l.contains f.kind && (f.pw == u.pw) == same && f.xfers.isEmpty | _ => false

theorem reads_ex {x : State.Unsealed × State} {l same} (h : reads x l same = true) :
    ∃ f u, x = (.good f, u) ∧ f.kind ∈ l ∧ (f.pw == u.pw) = same ∧ f.xfers = [] := by
  obtain ⟨g, u⟩ := x
  cases g with
  | good f => exact ⟨f, u, rfl, by simpa [reads, and_assoc] using h⟩
  | bad => simp [reads] at h
  | fault e p => simp [reads] at h

/-- That the bytes at an address are the sealed frame's, and its record is of one of some kinds. -/
def prepared (s : State) (kinds : List Nat) (user : Bool) (va : Word) (same : Bool := true) : Bool :=
  match s.xlateRun s.h.space user .either Want.load 2 va.toNat 1024 with
  | (.error _, _) => false
  | (.ok l, s) =>
    let head := s.raw l
    let size := leNat ((head.drop 4).take 4)
    (s.pkg.frames.find? fun f => f.key = s.h.key ∧ f.sealed = (head.drop 32).take 16).isSome &&
    match s.xlateRun s.h.space user .either Want.load (size / 65536 + 2) va.toNat size with
    | (.error _, _) => false
    | (.ok l, s) =>
      (s.load l 0).1 == sealedBytes &&
      match (s.load l 0).2.pkg.frames.find? fun f => f.key = (s.load l 0).2.h.key ∧ f.sealed = (sealedBytes.drop 32).take 16 with
      | none => false
      | some f => f.key == 0 && f.sealed == sealBits && (kinds.contains f.kind && (f.pw == (s.load l 0).2.pw) == same && f.xfers.isEmpty)

theorem reads_of {s kinds user va same} (h : prepared s kinds user va same = true) :
    reads (s.readFrame kinds user va) kinds same = true := by
  unfold prepared at h
  unfold State.readFrame
  split at h
  · cases h
  · rename_i l u e
    simp only [e]
    simp only [Bool.and_eq_true] at h
    obtain ⟨h1, h2⟩ := h
    rw [if_neg (by simp only [Option.isSome_iff_ne_none] at h1; simpa using h1)]
    split at h2
    · cases h2
    · rename_i l' u' e'
      simp only [e']
      simp only [Bool.and_eq_true, beq_iff_eq] at h2
      obtain ⟨h3, h4⟩ := h2
      split at h4
      · cases h4
      · rename_i f ef
        rw [Bool.and_eq_true, Bool.and_eq_true, Bool.and_eq_true, Bool.and_eq_true, beq_iff_eq, beq_iff_eq] at h4
        obtain ⟨⟨k0, k1⟩, ⟨k2, k3⟩, k4⟩ := h4
        have g : (u'.load l' 0).2.goodFrame kinds (u'.load l' 0).1 = some f := by
          unfold State.goodFrame
          rw [h3, ef]
          simp only [k0, k1, test_seal, k2, and_self, if_true]
        simp only [g, reads, k2, k3, k4, Bool.and_self]

/-- The same in a cluster whose width is no more that of the frame (R377). -/
def narrowed (level : Bool) (kind : Nat) : State :=
  { returning level kind with clusters := [(0, { Cluster.reset with pw := 1 })] }

/-- The same with transfers of its own in flight. -/
def crammed (kind : Nat) : State :=
  let s := returning true kind
  { s with h := { s.h with xfers := List.replicate 9 flight } }

theorem witness_ReturnsRestore :
    ((returning false 0).runnable = true ∧ (returning false 0).h.xfers = [] ∧
      ∃ f u, ((returning false 0).noteCv false).readFrame [0] true (returning false 0).h.uframe = (.good f, u) ∧ f.kind ∈ [0] ∧
        (f.pw == u.pw) = true ∧ f.xfers = []) ∧
    ((returning true 1).runnable = true ∧ (returning true 1).h.sup = true ∧
      ∃ f u, ((returning true 1).noteCv false).readFrame [1, 3] false (returning true 1).h.sframe = (.good f, u) ∧
        f.kind ∈ [1, 3] ∧ (f.pw == u.pw) = true ∧ f.xfers = []) ∧
    ((returning true 3).runnable = true ∧ (returning true 3).h.sup = true ∧
      ∃ f u, ((returning true 3).noteCv false).readFrame [1, 3] false (returning true 3).h.sframe = (.good f, u) ∧
        f.kind ∈ [1, 3] ∧ (f.pw == u.pw) = true ∧ f.xfers = []) ∧
    ((narrowed false 0).runnable = true ∧ (narrowed false 0).h.xfers = [] ∧
      ∃ f u, ((narrowed false 0).noteCv false).readFrame [0] true (narrowed false 0).h.uframe = (.good f, u) ∧ f.kind ∈ [0] ∧
        (f.pw == u.pw) = false ∧ f.xfers = []) ∧
    ((narrowed true 3).runnable = true ∧ (narrowed true 3).h.sup = true ∧
      ∃ f u, ((narrowed true 3).noteCv false).readFrame [1, 3] false (narrowed true 3).h.sframe = (.good f, u) ∧
        f.kind ∈ [1, 3] ∧ (f.pw == u.pw) = false ∧ f.xfers = []) ∧
    -- SRET with more transfers of its own than it may keep
    ((crammed 1).runnable = true ∧ (crammed 1).h.sup = true ∧ 8 < (crammed 1).h.xfers.length ∧
      ∃ f u, ((crammed 1).noteCv false).readFrame [1, 3] false (crammed 1).h.sframe = (.good f, u) ∧ f.kind ∈ [1, 3] ∧
        (f.pw == u.pw) = true ∧ f.xfers = []) :=
  ⟨⟨by decide +kernel, by decide +kernel, reads_ex (reads_of (by decide +kernel))⟩,
    ⟨by decide +kernel, by decide +kernel, reads_ex (reads_of (by decide +kernel))⟩,
    ⟨by decide +kernel, by decide +kernel, reads_ex (reads_of (by decide +kernel))⟩,
    ⟨by decide +kernel, by decide +kernel, reads_ex (reads_of (by decide +kernel))⟩,
    ⟨by decide +kernel, by decide +kernel, reads_ex (reads_of (by decide +kernel))⟩,
    ⟨by decide +kernel, by decide +kernel, by decide +kernel, reads_ex (reads_of (by decide +kernel))⟩⟩

/-! ## Images (R359, R360) -/

/-- One step of a multiple of a point, on a point that is evaluated first. -/
def stepNow (a r : Ed448.Point) (b : Bool) : Ed448.Point :=
  bif Nat.ble r.x Ed448.p && Nat.ble r.y Ed448.p && Nat.ble r.z Ed448.p then if b then (r.add r).add a else r.add r
  else if b then (r.add r).add a else r.add r

theorem times_eq (k : Nat) (a : Ed448.Point) : a.times k = (Ed448.bitsOf 446 k).foldl (stepNow a) Ed448.zero := by
  have e : stepNow a = fun r b => if b then (r.add r).add a else r.add r := by
    funext r b; unfold stepNow; cases (_ && _) <;> rfl
  rw [e, Ed448.Point.times]

/-- One step of a power, likewise. -/
def powerNow (a r : Nat) (b : Bool) : Nat :=
  bif Nat.ble r Ed448.p then if b then r * r % Ed448.p * a % Ed448.p else r * r % Ed448.p
  else if b then r * r % Ed448.p * a % Ed448.p else r * r % Ed448.p

theorem power_eq (a k : Nat) : Ed448.power a k = (Ed448.bitsOf 448 k).foldl (powerNow a) 1 := by
  have e : powerNow a = fun r b => if b then r * r % Ed448.p * a % Ed448.p else r * r % Ed448.p := by
    funext r b; unfold powerNow; cases Nat.ble _ _ <;> rfl
  rw [e, Ed448.power]

/-- The public key and the signature of no bytes, under the seed 6C82...F95B, that RFC 8032 gives (its first test of Ed448). -/
def blankKey : List Byte :=
  leBytes 57 0x806125e8afbe1afad16c0fe5f13d78d61b06c7469b7624f1ed7867e9805da70e8a1f0ea7852434a11d6ad46a61ec87e72cfd61b4599b44d75f
def blankSignature : List Byte := leBytes 114
  0x26652eff0858d9718c2663735af04911b6dbf4a013a13085dacdc7c59ab92d8504410bc08d5d925b342d1c5d6c003ef69d8ab1d428200dff8039fd1ba2d09bc528787dd4dd227afdf28182624f033f232b1f591ad423d84f07d2343e844a50fb2dae76f9880d3c021f2557e4bbf6373a53

/-- The point of 57 bytes, by evaluation. -/
def pointNow (b : List Byte) : Option Ed448.Point :=
  let p := Ed448.p
  let n := leNat b
  let s := n / 2 ^ 455
  let y := n % 2 ^ 455
  let u := (y * y + p - 1) % p
  let v := (Ed448.d * y % p * y + p - 1) % p
  let uuv := u * u % p * u % p * v % p
  let x := uuv * ((Ed448.bitsOf 448 ((p - 3) / 4)).foldl (powerNow (uuv * u % p * u % p * v % p * v % p)) 1) % p
  if b.length ≠ 57 ∨ p ≤ y ∨ v * x % p * x % p ≠ u ∨ (x = 0 ∧ s = 1) then none
  else some { x := if s = x % 2 then x else p - x, y := y, z := 1 }

theorem decode_eq (b : List Byte) : Ed448.decode b = pointNow b := by
  unfold Ed448.decode pointNow
  simp only [power_eq]

/-- Whether a signature holds for the hash of its message, by evaluation. -/
def holdsNow (sig pub : List Byte) (h : Nat) : Bool :=
  match pointNow (sig.take 57), pointNow pub with
  | some r, some a =>
    let s := leNat (sig.drop 57)
    sig.length == 114 && decide (s < Ed448.order) &&
      ((Ed448.bitsOf 446 s).foldl (stepNow Ed448.base) Ed448.zero).four.same
        (r.add ((Ed448.bitsOf 446 (h % Ed448.order)).foldl (stepNow a) Ed448.zero)).four
  | _, _ => false

theorem valid_eq (sig m pub : List Byte) : Ed448.valid sig m pub = holdsNow sig pub
    (Ed448.hash (sig.take 57 ++ pub ++ m)) := by
  unfold Ed448.valid holdsNow
  rw [decode_eq, decode_eq]
  cases pointNow (sig.take 57) <;> cases pointNow pub <;> simp only [times_eq]

theorem test_ed448 : Ed448.valid blankSignature [] blankKey = true := by
  rw [valid_eq]
  decide +kernel

/-- The public key of the seed of 57 zero bytes, and signatures under it of the digests of the images below, as an
implementation outside the model computes them. -/
def imageKey : List Byte := leBytes 57 0x80c4321cb2699166f1a829259d8f503743f0cfceca127354d652fe62b9657f9afd7defac07f809e1bdae42a4f1d43282b2498a8703fe3a5b
def bodySignature : List Byte := leBytes 114
  0x31ec5e2a376971b1049c87cf274e5c2e1176f22c25dfabcb2c1118c48a856075b1d11aa7d1f4f44a83465277a35000a72245535af9c397908042a5927b13bc8f7951c11c7f6986990198cde8c1617887e72f44991a6011e1d79244edb33ada9acd9fbde85d697bd26383f468608f1a1352
def firmwareSignature : List Byte := leBytes 114
  0x19051683539f1bb584540e50eb3104f2f92dc3c5ae162705226181f4c3227634e4c9413c754daaf94cb3867cfae44343a2b9561e0de4943380103d4c845e3338ace2b356d5f125d15f3e1df9951ca2b092ba65f8cd2358380956e7a0e7b3b2ea83e7e1573a75a08c26f94d4ffe699b8d88

/-- A header of a kind (R359). -/
def header (kind svn size : Nat) (sig : List Byte) : List Byte :=
  leBytes 4 0x49465841 ++ leBytes 2 1 ++ leBytes 2 kind ++ leBytes 8 size ++ leBytes 4 svn ++ zeroes 12 ++ imageKey ++ zeroes 7 ++
    sig ++ zeroes 302

/-- A partition image: an object of one text section of one word, with an entry at its start (R252, R253). -/
def image : List Byte :=
  header 1 0 100 bodySignature ++ (leBytes 4 0x73616872 ++ leBytes 4 1 ++ leBytes 4 1 ++ zeroes 20 ++ leBytes 4 1 ++ zeroes 28) ++
    (leBytes 4 0 ++ leBytes 4 0x200 ++ leBytes 8 4 ++ leBytes 8 96 ++ zeroes 8) ++ zeroes 4

/-- A firmware image of four zero bytes with the SVN 7. -/
def firmware : List Byte := header 0 7 4 firmwareSignature ++ zeroes 4

/-- An image whose signature holds fails no check, given a key whose hash is fused or installed. -/
theorem image_good {kind : Nat} {img : List Byte} {keys : List (List Byte)} {minsvn : Nat} (h : (headerOk kind img &&
    holdsNow ((img.drop 96).take 114) ((img.drop 32).take 57) (Ed448.hash
      (((img.drop 96).take 114).take 57 ++ (img.drop 32).take 57 ++ digest img)) &&
    !(decide (kind = 0) && decide (field img 16 4 < minsvn))) = true)
    (hk : keys.contains (Shake.shake256 ((img.drop 32).take 57) 32) = true) : imageFault kind keys minsvn img = none := by
  simp only [Bool.and_eq_true, Bool.not_eq_true', Bool.and_eq_false_iff, decide_eq_false_iff_not] at h
  obtain ⟨⟨h1, h2⟩, h3⟩ := h
  unfold imageFault
  simp only [valid_eq, h1, h2, hk, Bool.not_true, Bool.false_eq_true, if_false, ite_eq_right_iff, reduceCtorEq, imp_false, not_and]
  omega

/-- A package in service with the partition image in host memory, its key installed, and partition 0 in STATE 1. -/
def placing : State :=
  let s := State.reset
  let s := { s with parts := [(0, { Part.reset with state := 1, hbmStacks := 3 })],
                    pkg := { s.pkg with clocks := true, bootstat := 4, imgaddr := 0, imgsize := 612,
                                        ownerkeys := [(0, Shake.shake256 imageKey 32)] } }
  s.putRaw (.phys (2 ^ 54)) image

theorem placing_reads : placing.hostBytes placing.pkg.imgaddr.toNat placing.pkg.imgsize.toNat = some image := by decide +kernel

theorem image_passes : imageFault 1 [Shake.shake256 imageKey 32] 0 image = none :=
  image_good (by decide +kernel) (by
    rw [show (image.drop 32).take 57 = imageKey by decide +kernel]
    simp)

theorem firmware_passes (keys : List (List Byte)) (h : keys.contains (Shake.shake256 imageKey 32) = true) :
    imageFault 0 keys 7 firmware = none :=
  image_good (by decide +kernel) (by rw [show (firmware.drop 32).take 57 = imageKey by decide +kernel]; exact h)

/-- The machine at supervisor level in partitions of four lanes, for frames of 1 MiB in its scratchpad. -/
def saving : State :=
  let s := memory sup
  { s with clusters := [(0, { Cluster.reset with pw := 3 })], h := { s.h with s := [(1, 64), (2, 0x1000)] } }

/-- The sealed frame in h1's object, at 0x1000 of the scratchpad. -/
def restoring : State :=
  let s := (returning true 2).putRaw (.scratch 0 0x1000) sealedBytes
  { s with h := { s.h with s := [(1, 0x1000)] } }

/-- What VFRESTORE asks of its frame. -/
def restores (s : State) (h : BitVec 4) (va : Nat) : Bool :=
  match s.one h .frameIn true va 1024 with
  | (.runs l, u) =>
    (u.pkg.frames.any fun f => decide (f.key = u.h.key) && decide (f.sealed = ((u.raw l).drop 32).take 16)) &&
    leNat (((u.raw l).drop 4).take 4) == 64 &&
    match u.one h .frameIn true va 64 with
    | (.runs l', u') => (u'.badIn l').isEmpty && u'.raw l' == sealedBytes &&
      (match u'.pkg.frames.find? fun f => f.key = u'.h.key ∧ f.sealed = (sealedBytes.drop 32).take 16 with
        | none => false
        | some f => f.key == 0 && f.sealed == sealBits && [2, 3].contains f.kind)
    | _ => false
  | _ => false

theorem restores_ex {s h va} (e : restores s h va = true) : ∃ l u l' u' f, s.one h .frameIn true va 1024 = (.runs l, u) ∧
    (u.pkg.frames.any fun f => decide (f.key = u.h.key) && decide (f.sealed = ((u.raw l).drop 32).take 16)) = true ∧
    u.one h .frameIn true va (leNat (((u.raw l).drop 4).take 4)) = (.runs l', u') ∧ u'.badIn l' = [] ∧
    u'.goodFrame [2, 3] (u'.raw l') = some f := by
  unfold restores at e
  split at e
  · rename_i l u h1
    simp only [Bool.and_eq_true, beq_iff_eq] at e
    obtain ⟨⟨h2, h0⟩, e⟩ := e
    rw [← h0] at e
    split at e
    · rename_i l' u' h3
      simp only [Bool.and_eq_true, beq_iff_eq, List.isEmpty_iff] at e
      obtain ⟨⟨h4, h5⟩, e⟩ := e
      split at e
      · cases e
      · rename_i f h6
        simp only [Bool.and_eq_true, beq_iff_eq] at e
        obtain ⟨⟨k0, k1⟩, k2⟩ := e
        refine ⟨l, u, l', u', f, h1, h2, h3, h4, ?_⟩
        unfold State.goodFrame
        rw [h5, h6]
        simp only [k0, k1, test_seal, k2, and_self, if_true]
    · cases e
  · cases e

theorem witness_VectorFramesSavedAndRestored :
    (saving.runnable = true ∧ saving.h.sup = true ∧ saving.h.xfers = []) ∧
    (∃ l u, (saving.noteCv true).one 1 .frame true (saving.rd 1).toNat ((saving.noteCv true).makeFrame 2 saving.h.pc 0).1 =
      (.runs l, u) ∧ u.badIn l = []) ∧
    (restoring.runnable = true ∧ restoring.h.sup = true ∧ restoring.h.xfers = []) ∧
    (let s := restoring.noteCv false
     ∃ l u l' u' f, s.one 1 .frameIn true (restoring.rd 1).toNat 1024 = (.runs l, u) ∧
      (u.pkg.frames.any fun f => decide (f.key = u.h.key) && decide (f.sealed = ((u.raw l).drop 32).take 16)) = true ∧
      u.one 1 .frameIn true (restoring.rd 1).toNat (leNat (((u.raw l).drop 4).take 4)) = (.runs l', u') ∧ u'.badIn l' = [] ∧
      u'.goodFrame [2, 3] (u'.raw l') = some f) :=
  ⟨by decide +kernel, runs_ex (by decide +kernel), by decide +kernel, restores_ex (by decide +kernel)⟩

/-! ## Configuration, harts, gangs and the heap -/

theorem witness_ConfigurationTagsAndWidth :
    (user.runnable = true ∧ (tyOf 0x65).isSome ∧ (tyOf 0).isNone ∧ user.h.xfers = []) ∧
    ((0 : BitVec 6).toNat < user.nreg ∧ (7 : BitVec 6).toNat < user.nreg ∧ user.nreg ≤ (8 : BitVec 6).toNat) ∧
    user.clusterBusy = false ∧ busy.clusterBusy = true := by decide +kernel

/-- A hart of gang 1, whose first grant of the phase has fixed 2 rows of 256 columns at 32 lanes. -/
def ganged : State :=
  let g : Gang := { Gang.reset with grow := 2, gcol := 256, gfix := true, members := 2, lfix := 32 }
  { user with h := { hartU with gang := 1 }, clusters := [(0, { Cluster.reset with gangs := [(1, g)] })] }

/-- The same before the phase's first grant. -/
def fresh : State :=
  { user with h := { hartU with gang := 1 }, clusters := [(0, { Cluster.reset with gangs := [(1, { Gang.reset with members := 1 })] })] }

/-- The parking condition of VSETVLG in a phase with a fixed grant. -/
def parks (s : State) (a b : BitVec 6) : Bool :=
  let x := s.gangOf s.clNo s.h.gang
  let full := min x.lfix s.lanes
  let g (e : Nat) := laterGrant e x.grow.toNat x.gcol.toNat (s.rd a).toNat (s.rd b).toNat
  decide (s.grantLanes < full) && (decide ((g (s.ecap s.grantLanes)).1 < (g (s.ecap full)).1) ||
    decide ((g (s.ecap s.grantLanes)).2 < (g (s.ecap full)).2))

/-- The ganged hart under a cap of 200 W, 13 lane groups, of which other clusters' harts hold 12. -/
def starved : State :=
  let g : Gang := { Gang.reset with grow := 1, gcol := 0x1FFFFF, gfix := true, members := 2, lfix := 32 }
  { user with h := { hartU with gang := 1, s := [(1, 1), (2, 0x1FFFFF)] },
              harts := [(16, { Hart.reset with life := .active, lg := 32, granted := true }),
                        (32, { Hart.reset with life := .active, lg := 16, granted := true })],
              clusters := [(0, { Cluster.reset with gangs := [(1, g)] })],
              parts := [(0, { Part.reset with pcap := 0x100C8 })] }

theorem witness_GrantsFollowTheirRule :
    (user.runnable = true ∧ (1 : BitVec 6) ≠ 63 ∧ user.h.gang = 0 ∧ user.h.xfers = []) ∧
    (fresh.runnable = true ∧ fresh.h.gang ≠ 0 ∧ (fresh.gangOf fresh.clNo fresh.h.gang).gfix = false) ∧
    (ganged.runnable = true ∧ ganged.h.gang ≠ 0 ∧ (ganged.gangOf ganged.clNo ganged.h.gang).gfix = true ∧
      parks ganged 1 2 = false) ∧
    (starved.runnable = true ∧ starved.h.gang ≠ 0 ∧ (starved.gangOf starved.clNo starved.h.gang).gfix = true ∧
      parks starved 1 2 = true) := by decide +kernel

/-- The memory machine with the tables of the engines open to every engine: a slot's holds can be counted. -/
def engines (s : State) : State :=
  let s := memory s
  let acl := Table.set Access.reset s.pkg.acl (aclKey 0 0x100 0) State.allUnits
  { s with pkg := { s.pkg with acl := Table.set Access.reset acl (aclKey 0 0x110 0) State.allUnits } }

/-- That an engine's operation is performed. -/
theorem done_ex {α β : Type} {x : Option α × β} (h : x.1.isSome = true) : ∃ a u, x = (some a, u) := by
  obtain ⟨a, u⟩ := x
  cases a with
  | none => cases h
  | some a => exact ⟨a, u, rfl⟩

/-- A cluster with every context taken. -/
def full : State :=
  { user with harts := (List.range 15).map fun i => (i + 1, { Hart.reset with life := .saved }) }

theorem witness_SpawnMakesAHart :
    (full.runnable = true ∧ full.freeCtxs = []) ∧ (engines user).freeCtxs ≠ [] ∧
    (Eng.bpe (((engines user).noteCv false).pick (engines user).freeCtxs.length).2 (copySlots (engines user).h.slots)).1.isSome
      = true := by decide +kernel

/-- A cluster with a hart in context 1 that waits for a slot. -/
def queue : State :=
  { user with harts := [(1, { Hart.reset with life := .standby })], clusters := [(0, { Cluster.reset with ready := [1] })] }

theorem witness_HartsEndWaitAndYield :
    (user.runnable = true ∧ user.h.xfers = [] ∧ (user.clu user.clNo).ready = []) ∧
    -- HWAIT on context 5, generation 0: free; on context 0, the hart itself, at its generation: there
    ((user.hart (16 * user.clNo + ((user.rd 1).extractLsb' 0 4).toNat)).life = .free ∧
      ¬((user.hart (16 * user.clNo + ((user.rd 0).extractLsb' 0 4).toNat)).life = .free ∨
        (user.hart (16 * user.clNo + ((user.rd 0).extractLsb' 0 4).toNat)).hgen ≠ (user.rd 0).extractLsb' 4 16)) ∧
    (queue.runnable = true ∧ (queue.clu queue.clNo).ready = [1] ∧ 1 ∉ ([] : List Nat) ∧ 1 ≠ queue.cur ∧
      (queue.mod fun h => { h with life := .standby }).freeSlot queue.clNo 1 = some 0) := by decide +kernel

/-- The same hart as the second of two to arrive: the first is parked in context 1, which the barrier is to wake. -/
def meeting : State :=
  { user with h := { hartU with gang := 1 },
              harts := [(1, { Hart.reset with life := .active, slot := 1, gang := 1, park := some .gbar })],
              clusters := [(0, { Cluster.reset with pw := 1, gangs := [(1, { Gang.reset with members := 2, arrived := 1 })] })] }

theorem witness_GangsAndBarriers :
    (user.runnable = true ∧ (user.rd 1).toNat ≤ 7 ∧ (user.rd 2).toNat ≤ 7 ∧ user.h.gang = 0 ∧ 7 < (user.rd 4).toNat ∧
      user.h.xfers = []) ∧
    -- the last of one member to arrive, and the first of two
    (fresh.h.gang ≠ 0 ∧ (fresh.gangOf 0 1).arrived + 1 = (fresh.gangOf 0 1).members) ∧
    (ganged.h.gang ≠ 0 ∧ (ganged.gangOf 0 1).arrived + 1 ≠ (ganged.gangOf 0 1).members) ∧
    (meeting.runnable = true ∧ meeting.h.xfers = [] ∧ meeting.h.gang ≠ 0 ∧
      (meeting.gangOf 0 1).arrived + 1 = (meeting.gangOf 0 1).members ∧ 1 ∈ State.ctxsOf meeting.clNo ∧
      (meeting.hart 1).life ≠ .free ∧ (meeting.hart 1).gang = meeting.h.gang ∧ (meeting.hart 1).park = some .gbar) := by
  decide +kernel

/-- An eligible request of index 3 and cost 10, in a partition with a budget. -/
def queued (state : Nat) : State :=
  let r : Request := { index := 3, deadline := 5, cost := 10, asid := 0, space := space, flag := none, table := strong space 2,
                       tableh := 0, order := 0, state := state, cancel := false, passes := 0, met := false }
  { user with h := { hartU with s := [(1, 3 * 2 ^ 32)] },
              parts := [(0, { Part.reset with state := 2, lsbudget := 100, requests := [r] })] }

theorem witness_RequestsPoppedAndPushed :
    (user.runnable = true ∧ user.qualified (user.rd 1).toNat = []) ∧
    ((queued 2).runnable = true ∧ (queued 2).qualified ((queued 2).rd 0).toNat ≠ []) ∧
    ((queued 3).runnable = true ∧ (queued 3).h.xfers = [] ∧
      ((queued 3).request (((queued 3).rd 1).extractLsb' 32 16)).map (·.state) = some 3) ∧
    ((queued 2).request (((queued 2).rd 1).extractLsb' 32 16)).map (·.state) = some 2 ∧
    (queued 2).request (((queued 2).rd 0).extractLsb' 32 16) = none := by decide +kernel

/-! ## Vector instructions -/

/-- A hart with a grant of one row of four columns and 8 registers: v0 to v2 i32, v3 and v4 f32, v5 q8, v6 n32 with two
segments of 2, v7 p8; v1 holds 1, 2, 3, 4 and v2 the indices 3, 0, 1, 0; m1 has bits 0 and 2. -/
def vector : State :=
  let z (t : BitVec 8) : VReg := { VReg.reset with tag := t }
  let v := [(0, z 0x65), (1, { z 0x65 with bits := 1 + 2 * 2 ^ 32 + 3 * 2 ^ 64 + 4 * 2 ^ 96 }),
            (2, { z 0x65 with bits := 3 + 2 ^ 64 }), (3, z 0xA5), (4, z 0xA5), (5, z 0x48),
            (6, { z 0x85 with levels := [[2, 2]] }), (7, z 0xC3)]
  { user with h := { hartU with vlr := 1, vlc := 4, m := [(1, 5)], v := v } }

/-- The same with a grant that no register holds, or with a convoy that has taken a path, or at user registers only. -/
def huge : State := { vector with h := { vector.h with vlr := 2 ^ 20, vlc := 2 ^ 20 } }
def convoyed (p : Path) : State := { vector with h := { vector.h with convoy := [p.no] } }

/-- `VecReady` by evaluation. -/
theorem vecReady {s : State} {c p regs cap} (h : (s.runnable && regs.all (fun r => decide (r < s.nreg)) &&
    (c || !s.h.convoy.contains p.no) && cap.all (fun r => decide (s.g ≤ s.capacity r)) && s.h.xfers.isEmpty) = true) :
    VecReady s c p regs cap := by
  simp only [Bool.and_eq_true, List.all_eq_true, decide_eq_true_eq, Bool.or_eq_true, Bool.not_eq_true',
    List.isEmpty_iff] at h
  obtain ⟨⟨⟨⟨h1, h2⟩, h3⟩, h4⟩, h5⟩ := h
  refine ⟨h1, h2, ?_, h4, h5⟩
  cases h3 with
  | inl h => exact .inl h
  | inr h => exact .inr (by simpa using h)

theorem witness_AnswersAndBlocks :
    (Ty.int true 32 false).isQ = false ∧ (([(0, .raw 1 0), (3, .raw 2 0)] : List (Nat × Ans)).map (·.1)).Nodup ∧ 0 < 8 ∧
    (([(64, .val (.ofInt 1) 0)] : List (Nat × Ans)).map (·.1)).Nodup ∧
    (∀ x ∈ ([(64, .val (.ofInt 1) 0)] : List (Nat × Ans)), ∃ v f, x.2 = .val v f) ∧
    (0 / 64 ∉ ([(64, .val (.ofInt 1) 0)] : List (Nat × Ans)).map (fun x => x.1 / 64)) := by
  refine ⟨rfl, by decide, by decide, by decide, ?_, by decide⟩
  intro x hx
  simp only [List.mem_singleton] at hx
  subst hx
  exact ⟨_, _, rfl⟩

theorem witness_VectorLegalityOrder :
    (vector.runnable = true ∧ vector.h.xfers = []) ∧
    [8, 0, 1].any (fun r => decide (vector.nreg ≤ r)) = true ∧
    ([0, 1, 2].any (fun r => decide (vector.nreg ≤ r)) = false ∧ EwOp.and.intOnly = true ∧
      (vector.kindOp .and 3 3 4 != .integer) = true) ∧
    ((vector.kindOp .and 0 1 2 != .integer) = false ∧ (depthOf 1 (vector.vreg 1).depth).isNone = true) ∧
    ((!false && decide (Path.ew.no ∈ (convoyed .ew).h.convoy)) = true ∧ (depthOf 0 (vector.vreg 1).depth).isSome = true) ∧
    [0, 1, 2].all (fun r => decide (huge.g ≤ huge.capacity r)) = false ∧
    -- and one that runs from the queue
    (let s := vector.mod fun h => { h with front := some { self := h.captured 0x28000000 [], rest := [], pc := h.pc + 4, modes := h.modes } }
     s.runnable = true ∧ s.h.xfers = [] ∧ s.h.front ≠ none) := by decide +kernel

theorem witness_ElementwiseResults : EwReady vector true 0 1 2 0 ∧ EwReady (convoyed .xl) false 3 3 4 0 ∧
    EwReady vector true 6 6 6 1 ∧ vector.kindOp .and 0 1 2 = .integer :=
  ⟨⟨vecReady (by decide +kernel), .inl rfl, by decide +kernel⟩, ⟨vecReady (by decide +kernel), .inl rfl, by decide +kernel⟩,
    ⟨vecReady (by decide +kernel), .inr (by decide +kernel), by decide +kernel⟩, by decide +kernel⟩

theorem witness_IntegerElementsWrap : EwReady vector true 0 1 2 0 ∧ vector.sat = false ∧
    (vector.vreg 0).ty = .int true 32 false ∧ (vector.vreg 1).ty = .int true 32 false ∧
    (vector.vreg 2).ty = .int true 32 false ∧ 3 < vector.g :=
  ⟨⟨vecReady (by decide +kernel), .inl rfl, by decide +kernel⟩, by decide +kernel, by decide +kernel, by decide +kernel,
    by decide +kernel, by decide +kernel⟩

theorem witness_CompareWritesTheMask : VecReady vector true .ew [1, 2] [1, 2] ∧ vector.operandLimit (vector.vreg 1) 0 = [] :=
  ⟨vecReady (by decide +kernel), by decide +kernel⟩

theorem witness_SelectsAndKindTaggedForms :
    EwReady vector true 0 1 2 0 ∧
    (EwReady vector true 3 7 4 0 ∧ (vector.vreg 7).ty = .p8 ∧ (vector.vreg 4).ty.isFp = true ∧ (vector.vreg 3).ty.isFp = true) ∧
    (VkReady vector true 0 0 3 1 5 ∧ VkReady vector true 3 1 2 1 5) ∧
    VecReady vector true .ew (State.srcRegs 0 3 1 5) (State.srcRegs 0 3 1 5) :=
  ⟨⟨vecReady (by decide +kernel), .inl rfl, by decide +kernel⟩,
    ⟨⟨vecReady (by decide +kernel), .inl rfl, by decide +kernel⟩, by decide +kernel, by decide +kernel, by decide +kernel⟩,
    ⟨⟨vecReady (by decide +kernel), by decide +kernel⟩, ⟨vecReady (by decide +kernel), by decide +kernel⟩⟩,
    vecReady (by decide +kernel)⟩

theorem witness_UnaryBroadcastAndRescale :
    VecReady vector true .ew [0, 1] [0, 1] ∧ vector.stackLimits 0 (vector.vreg 1).levels = [] ∧
    (vector.vreg 0).tag = (vector.vreg 1).tag ∧ VecReady vector true .ew [0] [0] ∧
    (VecReady vector true .ew [5, 3] [5, 3] ∧ (vector.vreg 5).ty.isQ = true ∧
      vector.stackLimits 5 (vector.vreg 3).levels = []) :=
  ⟨vecReady (by decide +kernel), by decide +kernel, by decide +kernel, vecReady (by decide +kernel),
    vecReady (by decide +kernel), by decide +kernel, by decide +kernel⟩

theorem witness_MovesGoWhereTheySay :
    DepthOk (vector.vreg 1) 0 ∧ vector.byBlocks 0 1 = false ∧
    (VecReady vector true .xl [0, 1] [0, 1] ∧ vector.stackLimits 0 (vector.vreg 1).levels = []) ∧
    vector.stackLimits 0 (vector.moveDesc 1 0).levels = [] ∧
    (VecReady vector true .xl [0, 1, 2] [0, 1, 2] ∧ (vector.vreg 2).ty.isInt = true) ∧
    ((vector.vreg 1).tag = (vector.vreg 0).tag ∧ (vector.vreg 1).ty.isQ = false) ∧
    -- an index inside the grant, and a position that two elements push to
    (0 ≤ vector.indexOf 0 1 2 0 ∧ vector.indexOf 0 1 2 0 < vector.g ∧ vector.indexOf 0 1 2 1 = vector.indexOf 0 1 2 3) ∧
    -- at the depth of v6
    (DepthOk (vector.vreg 6) 7 ∧ vector.stackLimits 6 (vector.vreg 6).levels = []) :=
  ⟨.inr (by decide +kernel), by decide +kernel, ⟨vecReady (by decide +kernel), by decide +kernel⟩, by decide +kernel,
    ⟨vecReady (by decide +kernel), by decide +kernel⟩, by decide +kernel, by decide +kernel, .inl rfl, by decide +kernel⟩

theorem witness_MaskOperations : VecReady vector true .ew [] [] ∧ (∃ i < vector.g, vector.maskBit 1 i = true ∧
    ∀ j < i, vector.maskBit 1 j = false) ∧ ∀ i < vector.g, vector.maskBit 2 i = false :=
  ⟨vecReady (by decide +kernel), ⟨0, by decide +kernel⟩, by decide +kernel⟩

theorem witness_SegmentStackOperations :
    -- SPUSH of one level of 4, whose one length is VA's first element
    (VecReady vector true .ew [0, 4] [0, 4] ∧
      (let v := Table.set VReg.reset vector.h.v 1 { vector.vreg 1 with bits := 4 }
       let s : State := { vector with h := { vector.h with v := v } }
       let new := (List.range 1).map fun j => s.el 1 j % 2 ^ 32
       (s.vreg 1).ty.isWide = true ∧ (s.vreg 0).depth < 8 ∧ 1 ≤ s.capacity 1 ∧ 1 ≤ s.capacity 0 ∧ new.sum = s.g ∧
       s.tooLong 0 (new :: (s.vreg 0).levels) = false)) ∧
    -- SPOP and SGETL of v6
    (VecReady vector true .ew [0, 6] [0, 6] ∧ (vector.vreg 0).ty.isWide = true ∧ 0 < (vector.vreg 6).depth ∧
      DepthOk (vector.vreg 6) 7) ∧
    -- VFLAT of v6's one level
    (VecReady vector true .ew [6, 6] [6, 6] ∧ (7 : BitVec 3) ≠ 0 ∧ (vector.vreg 6).depth ≠ 0 ∧
      vector.stackLimits 6 (dropLevel ((vector.vreg 6).depth - 1) (vector.vreg 6).levels) = []) :=
  ⟨⟨vecReady (by decide +kernel), by decide +kernel⟩,
    ⟨vecReady (by decide +kernel), by decide +kernel, by decide +kernel, .inl rfl⟩,
    ⟨vecReady (by decide +kernel), by decide, by decide +kernel, by decide +kernel⟩⟩

theorem witness_ReductionsAndScans :
    (VecReady vector true .xl [0, 1] [0, 1] ∧ DepthOk (vector.vreg 1) 0 ∧ (vector.vreg 0).ty.isQ = false ∧
      vector.manySegs (vector.vreg 1) 0 ++ vector.stackLimits 0 (State.redDesc (vector.vreg 1) 0).levels = []) ∧
    kindOf (vector.vreg 1).ty (vector.vreg 0).ty = .integer ∧
    ((vector.vreg 0).ty = .int true 32 false ∧ (vector.vreg 1).ty = .int true 32 false ∧ vector.sat = false ∧
      (vector.vreg 1).headOpen = false ∧ 0 < vector.g) ∧
    vector.manySegs (vector.vreg 1) 0 ++ vector.stackLimits 0 (vector.vreg 1).levels = [] ∧
    -- segment by segment
    (VecReady vector true .xl [6, 6] [6, 6] ∧ DepthOk (vector.vreg 6) 7 ∧
      vector.manySegs (vector.vreg 6) 1 ++ vector.stackLimits 6 (State.redDesc (vector.vreg 6) 1).levels = []) :=
  ⟨⟨vecReady (by decide +kernel), .inr (by decide +kernel), by decide +kernel, by decide +kernel⟩, by decide +kernel,
    by decide +kernel, by decide +kernel, ⟨vecReady (by decide +kernel), .inl rfl, by decide +kernel⟩⟩

theorem witness_RestructuringResults :
    (VecReady vector true .xl [6, 6] [6, 6] ∧ (vector.vreg 6).ty.isQ = false ∧
      vector.stackLimits 6 (setDeepest (vector.vreg 6).levels ((vector.activeSegs (vector.vreg 6) 1).map List.length)) = []) ∧
    (VecReady vector true .xl [0, 1, 6] [0, 1, 6] ∧ DepthOk (vector.vreg 6) 7 ∧
      vector.manySegs (vector.vreg 6) 1 ++ vector.stackLimits 0 (vector.vreg 6).levels = [] ∧
      (vector.vreg 1).tag = (vector.vreg 0).tag ∧ (vector.vreg 1).ty.isInt = true) ∧
    (let v := vector.vreg 1
     let kids := (v.segs vector.g v.depth).map (vector.maskKids 1)
     SplitReady vector true 0 1 kids (setDeepest v.levels (kids.map List.length) ++ [kids.flatten.map List.length])) ∧
    (let v := vector.vreg 6
     let kids := (v.segs vector.g v.depth).map (fun x => (threeKids v ((List.range x.2).map (x.1 + ·))).1)
     SplitReady vector true 6 6 kids (setDeepest v.levels (kids.map List.length) ++ [kids.flatten.map List.length])) ∧
    (VecReady vector true .xl [0, 1] [0, 1] ∧ (0 : BitVec 3).toNat = (vector.vreg 1).depth ∧
      vector.stackLimits 0 (setDeepest (vector.vreg 1).levels ((vector.activeSegs (vector.vreg 1) 1).map fun x =>
        min (vector.rd 1).toNat x.length)) = []) ∧
    ((vector.vreg 1).ty.isInt = true ∧ (vector.vreg 0).ty = .int true 32 false) :=
  ⟨⟨vecReady (by decide +kernel), by decide +kernel, by decide +kernel⟩,
    ⟨vecReady (by decide +kernel), .inl rfl, by decide +kernel, by decide +kernel, by decide +kernel⟩,
    ⟨vecReady (by decide +kernel), by decide +kernel, by decide +kernel, by decide +kernel, rfl, by decide +kernel⟩,
    ⟨vecReady (by decide +kernel), by decide +kernel, by decide +kernel, by decide +kernel, rfl, by decide +kernel⟩,
    ⟨vecReady (by decide +kernel), by decide +kernel, by decide +kernel⟩, by decide +kernel⟩

/-- A hart with 16 registers for MMAC: v0 the i32 result, v1 and v8 to v15 i8 in slices. -/
def matrix : State :=
  let z (t : BitVec 8) : VReg := { VReg.reset with tag := t }
  let v := (0, z 0x65) :: (1, z 0x08) :: (List.range 8).map fun i => (8 + i, z 0x08)
  { user with h := { hartU with vtype := 0x100, vlr := 1, vlc := 4, v := v } }

theorem witness_MatrixAndFunctionResults :
    (matrix.runnable = true ∧ matrix.h.xfers = [] ∧ (∀ r ∈ matrix.macRegs 0 1 8 1, r < matrix.nreg) ∧
      (matrix.badMac 0 1 8 1).reg = false ∧ (matrix.badMac 0 1 8 1).tag = false ∧ matrix.shortMac 0 1 8 1 = false ∧
      (matrix.vreg 1).ty.isInt = true) ∧
    (VecReady vector true .sf [3, 4] [3, 4] ∧ Ty.isFp (vector.vreg 3).ty = true ∧ (vector.vreg 4).ty = .fp .f32 ∧
      vector.stackLimits 3 (vector.vreg 4).levels = []) ∧
    (VecReady vector true .sf [7, 4] [7, 4] ∧ (fun t => t == Ty.p8) (vector.vreg 7).ty = true) ∧
    (VecReady vector true .sf [0] [0] ∧ (1 : BitVec 6) ≠ 63 ∧ (vector.vreg 0).ty ≠ .p8 ∧ (vector.vreg 0).ty.isQ = false) :=
  ⟨by decide +kernel, ⟨vecReady (by decide +kernel), by decide +kernel, by decide +kernel, by decide +kernel⟩,
    ⟨vecReady (by decide +kernel), by decide +kernel⟩,
    ⟨vecReady (by decide +kernel), by decide +kernel, by decide +kernel, by decide +kernel⟩⟩

/-! ## Vector memory -/

/-- That a slot is reached and every element's bytes are found and readable; at least one is found. -/
def finds (v : State) (h : BitVec 4) (use : Use) (mode : Nat) (l : List Elem) : Bool :=
  match v.reach h use true l with
  | (.ok p, w) => match (p.inMode mode).elems l [] w with
    | (found, none, _, u) => !found.isEmpty && found.all fun y => (u.badIn y.2).isEmpty
    | _ => false
  | _ => false

theorem finds_ex {v h use mode l} (e : finds v h use mode l = true) : ∃ u found, Found v u h use mode l found := by
  unfold finds at e
  split at e
  · rename_i p w h1
    split at e
    · rename_i found m u h2
      simp only [Bool.and_eq_true, List.all_eq_true, List.isEmpty_iff] at e
      exact ⟨u, found, ⟨p, w, m, h1, h2⟩, e.2⟩
    · cases e
  · cases e

/-- The vector hart with memory: s1 = 64 for places, s2 = 8, s5 = 0x1000 for its stream's block, and v2 the offsets 0, 4, 8, 12. -/
def vectorMemory : State :=
  let s := memory vector
  let w := { s.vreg 2 with bits := 4 * 2 ^ 32 + 8 * 2 ^ 64 + 12 * 2 ^ 96 }
  -- one row of 16 bytes, in rows of 16 bytes, at slot 2
  let spb := [0, 0, 0, 0, 1, 0, 0, 0, 16, 0, 0, 0, 0, 0, 0, 0, 0, 0, 16, 0, 1, 0, 2]
  let s := s.putRaw (.phys (65536 * (s.fetchFrame + 6) + 0x9000)) spb
  { s with h := { s.h with s := [(1, 64), (2, 8), (5, 0x1000)], v := Table.set VReg.reset s.h.v 2 w } }

/-- What a mode 5 access finds. -/
def streams (v : State) (word : BitVec 32) (h : BitVec 4) (a : BitVec 6) (z : Nat) : Bool :=
  match v.readSpb word 0 h (v.rd a).toInt z with
  | (.ok b _, u0) =>
    match u0.reachBy b.slot .vld true (fun w e => w.fromStart (((w.active w.dm).filter (· < b.elems z)).map fun k =>
         { idx := k, off := b.offset e (w.blockSize e) z k, len := z })) with
    | (.ok p, l, u) => match (p.inMode 5).elems l [] u with
      | (found, none, _, u') => found.length == 4 && found.all fun y => (u'.badIn y.2).isEmpty
      | _ => false
    | _ => false
  | _ => false

theorem streams_ex {v word h a z} (e : streams v word h a z = true) : ∃ b bytes u0 p l u found m u',
    v.readSpb word 0 h (v.rd a).toInt z = (.ok b bytes, u0) ∧
    u0.reachBy b.slot .vld true (fun w e => w.fromStart (((w.active w.dm).filter (· < b.elems z)).map fun k =>
         { idx := k, off := b.offset e (w.blockSize e) z k, len := z })) = (.ok p, l, u) ∧
    (p.inMode 5).elems l [] u = (found, none, m, u') ∧ (∀ y ∈ found, u'.badIn y.2 = []) := by
  unfold streams at e
  split at e
  · rename_i b bytes u0 h1
    split at e
    · rename_i p l u h2
      split at e
      · rename_i found m u' h3
        simp only [Bool.and_eq_true, List.all_eq_true, List.isEmpty_iff] at e
        exact ⟨b, bytes, u0, p, l, u, found, m, u', h1, h2, h3, e.2⟩
      · cases e
    · cases e
  · cases e

/-- That a slot answers gone. -/
def answersGone (x : Reached × State) : Bool := match x with | (.gone, _) => true | _ => false

theorem answersGone_ex {x : Reached × State} (h : answersGone x = true) : ∃ u, x = (.gone, u) := by
  obtain ⟨g, u⟩ := x
  cases g <;> simp_all [answersGone]

theorem witness_VectorLoadsAndStores :
    (∀ o ∈ [0, 1, 2, 3, 4, (5 : BitVec 3)], VecReady vectorMemory true .ld (State.memRegs 0 2 o.toNat) (State.memRegs 0 2 o.toNat) ∧
      (vectorMemory.badMem 0 2 o.toNat).tag = false) ∧
    (∀ o ∈ [0, 1, 2, 3, (4 : BitVec 3)], let v := vectorMemory.issued true .ld
      ∃ u found, Found v u 2 .vld o.toNat (v.fromStart (v.units (vectorMemory.vreg 0).ty o.toNat 1 2)) found) ∧
    (let v := vectorMemory.issued true .ld
     ∃ u, v.reach 3 .vld true (v.fromStart (v.units (vectorMemory.vreg 0).ty 0 1 2)) = (.gone, u)) ∧
    (let v := vectorMemory.issued true .ld
     let z := (vectorMemory.vreg 0).ty.unitBytes
     ∃ b bytes u0 p l u found m u', v.readSpb (encode (.vld true 0 2 5 0 5)) 0 2 (v.rd 5).toInt z = (.ok b bytes, u0) ∧
       u0.reachBy b.slot .vld true (fun w e => w.fromStart (((w.active w.dm).filter (· < b.elems z)).map fun k =>
         { idx := k, off := b.offset e (w.blockSize e) z k, len := z })) = (.ok p, l, u) ∧
       (p.inMode 5).elems l [] u = (found, none, m, u') ∧ (∀ y ∈ found, u'.badIn y.2 = [])) ∧
    (VecReady vectorMemory true .st (State.memRegs 5 2 0) (State.memRegs 5 2 0) ∧
      (vectorMemory.badMem 5 2 0).tag = false ∧ let v := vectorMemory.issued true .st
      ∃ u found, Found v u 2 .store 0 (v.fromStart (v.units (vectorMemory.vreg 5).ty 0 1 2)) found) := by
  have h : ∀ o ∈ [0, 1, 2, 3, 4, (5 : BitVec 3)],
    ((vectorMemory.runnable && (State.memRegs 0 2 o.toNat).all (fun r => decide (r < vectorMemory.nreg)) &&
    (true || !vectorMemory.h.convoy.contains Path.ld.no) &&
    (State.memRegs 0 2 o.toNat).all (fun r => decide (vectorMemory.g ≤ vectorMemory.capacity r)) &&
    vectorMemory.h.xfers.isEmpty) = true) ∧ (vectorMemory.badMem 0 2 o.toNat).tag = false := by decide +kernel
  have k : ∀ o ∈ [0, 1, 2, 3, (4 : BitVec 3)], finds (vectorMemory.issued true .ld) 2 .vld o.toNat ((vectorMemory.issued true .ld).fromStart
    ((vectorMemory.issued true .ld).units (vectorMemory.vreg 0).ty o.toNat 1 2)) = true := by decide +kernel
  exact ⟨fun o ho => ⟨vecReady (h o ho).1, (h o ho).2⟩, fun o ho => finds_ex (k o ho), answersGone_ex (by decide +kernel),
    streams_ex (by decide +kernel), vecReady (by decide +kernel), by decide +kernel, finds_ex (by decide +kernel)⟩

/-- `finds`, of elements that do not overlap. -/
def apart (v : State) (h : BitVec 4) (l : List Elem) : Bool :=
  match v.reach h .atomic true l with
  | (.ok p, w) => match (p.inMode 2).elems l [] w with
    | (found, none, _, u) => decide (found.flatMap (bytesOf ·.2)).Nodup && found.all fun y => (u.badIn y.2).isEmpty
    | _ => false
  | _ => false

theorem apart_ex {v h l} (e : apart v h l = true) : ∃ u found, Found v u h .atomic 2 l found ∧
    (found.flatMap (bytesOf ·.2)).Nodup := by
  unfold apart at e
  split at e
  · rename_i p w h1
    split at e
    · rename_i found m u h2
      simp only [Bool.and_eq_true, List.all_eq_true, List.isEmpty_iff, decide_eq_true_eq] at e
      exact ⟨u, found, ⟨⟨p, w, m, h1, h2⟩, e.2⟩, e.1⟩
    · cases e
  · cases e

theorem witness_VectorAtomicsAndWaits :
    (VecReady vectorMemory true .aw [0, 2] [0, 2] ∧ (vectorMemory.badAmo .add 0 2).tag = false ∧
      let v := vectorMemory.issued true .aw
      ∃ u found, Found v u 2 .atomic 2 (v.indexed 0 2) found ∧ (found.flatMap (bytesOf ·.2)).Nodup) ∧
    (VecReady vectorMemory true .aw [0, 1, 2] [0, 1, 2] ∧ (vectorMemory.badCas 0 2).tag = false) ∧
    ((vectorMemory.vreg 0).ty.isWide = true ∧ (vectorMemory.vreg 2).ty.isWide = true ∧ let v := vectorMemory.issued true .aw
      ∃ u found, Found v u 2 .wait 2 (v.indexed 0 2) found) ∧
    -- memory reads 0 there: equal to v0's zeros, and no element of v1 is met
    ((waitCond 1).holds true 32 0 0 = true ∧ (waitCond 1).holds true 32 0 1 = false) :=
  ⟨⟨vecReady (by decide +kernel), by decide +kernel, apart_ex (by decide +kernel)⟩,
    ⟨vecReady (by decide +kernel), by decide +kernel⟩, ⟨by decide +kernel, by decide +kernel, finds_ex (by decide +kernel)⟩,
    by decide +kernel⟩

/-! ## Handles, blocks, experts and engine transfers -/

/-- An object table in memory: handle 4 is a paged object of two blocks of pool 0, the first mapped to block 0; handle 5 is
remote, at peer 32; pool 0 has four blocks of 32 KiB of which block 0 is taken by ASID 0 (R323, R324). Experts 0 to 3: 0 is
absent, 1 resident as handle 2 (R326). Peer slot 0 is peer 32, by port 0 (R339). -/
def objects : State :=
  let s := engines vector
  let s := handle s 4 (2 ^ 48 + 2 ^ 45 + 2 ^ 43 + 1) 1 0 0x10000 0x130000
  let s := handle s 5 (2 ^ 48 + 3 * 2 ^ 40 + 1) 1 0 0x2000 32
  let s := s.putPhys 0x110000 8 (0x4000000 + 15 * 16 + 1)
  let s := s.putPhys 0x110008 8 (4 + 3 * 2 ^ 32)
  let s := s.putPhys 0x110018 8 0x120000
  let s := s.putPhys 0x120000 4 1
  let s := s.putPhys 0x130000 8 2
  let s := (s.putPhys 0x130008 4 3).putPhys 0x130040 8 (0xFFFFFFFF * 2 ^ 32)
  let s := (s.putPhys 0x150018 8 0x10000).putPhys 0x150020 8 2
  let s := (s.putPhys 0x150028 8 (2 ^ 48 + 2)).putPhys 0x160000 8 (2 ^ 63 + 2 ^ 32 + 32)
  let s := s.modPart 0 fun p => { p with pools := 0x110000, arenaBase := 0x140000, arenaSize := 256, peersBase := 0x160000,
                                         balloc := [(ballocKey 0 0, some 0)], tports := 1 }
  let acl := Table.set Access.reset s.pkg.acl (aclKey 24 0 0) State.allUnits
  let sp := { s.h.space with ertbase := 0x0200000000150000 }
  { s with
    pkg := { s.pkg with acl := acl }
    h := { s.h with
      space := sp
      slots := [(2, some (strong sp 2)), (4, some { strong sp 2 with weak := true }), (5, some (strong sp 4)),
        (6, some (strong sp 5)), (7, some { strong sp 2 with expert := some 1 }),
        (8, some { strong sp 2 with weak := true, gone := true })]
      s := [(1, 1), (2, 0x0001000000000002), (3, 0x800), (4, 0x100000), (63, 0x21)] } }

/-- A cluster in which a page-in of expert 1 has landed for the hart's element 2. -/
def landed : State :=
  { objects with clusters := [(0, { Cluster.reset with tokens := [{ hart := 0, space := objects.h.space, expert := 1, elem := 2,
                                                                     ready := some 5 }] })] }

/-- The entry of a slot's binding, by evaluation: it is live, its counts have room, and the strong one is above a bound. -/
def liveFor (s : State) (h : BitVec 4) (weak : Bool) (low : Nat) : Bool :=
  match s.slot h with
  | none => false
  | some b => b.weak == weak && (s.badIn [(.phys (b.space.entryAt b.index), 64)]).isEmpty && (s.entryOf b).state == 1 && (s.entryOf b).gen == b.gen && !b.gone &&
      decide (low < (s.entryOf b).scount) && decide ((s.entryOf b).scount + 1 < 2 ^ 32) &&
      decide ((s.entryOf b).wcount + 1 < 2 ^ 32) && decide (low - 1 < (s.entryOf b).wcount)

theorem liveFor_ex {s h weak low} (e : liveFor s h weak low = true) : ∃ b, s.slot h = some b ∧ b.weak = weak ∧ LiveFor s b ∧
    low < (s.entryOf b).scount ∧ low - 1 < (s.entryOf b).wcount := by
  unfold liveFor at e
  split at e
  · cases e
  · rename_i b h1
    simp only [Bool.and_eq_true, beq_iff_eq, Bool.not_eq_true', decide_eq_true_eq, List.isEmpty_iff] at e
    obtain ⟨⟨⟨⟨⟨⟨⟨⟨a1, a0⟩, a2⟩, a3⟩, a4⟩, a5⟩, a6⟩, a7⟩, a8⟩ := e
    exact ⟨b, h1, a1, ⟨a0, a2, a3, a4, a6, a7⟩, a5, a8⟩

theorem witness_HandleInstructions :
    Ready objects ∧ objects.slot 9 = none ∧
    (∃ b, objects.slot 2 = some b ∧ b.weak = false ∧ LiveFor objects b ∧ 1 < (objects.entryOf b).scount ∧
      1 - 1 < (objects.entryOf b).wcount) ∧
    (∃ b, objects.slot 4 = some b ∧ b.weak = true ∧ LiveFor objects b ∧ 1 < (objects.entryOf b).scount ∧
      1 - 1 < (objects.entryOf b).wcount) ∧
    ((Eng.bpe (objects.noteCv true) (Eng.release (strong objects.h.space 2))).1.isSome = true ∧
      (Eng.bpe (objects.noteCv true) (Eng.raiseHold { strong objects.h.space 2 with weak := true })).1.isSome = true ∧
      (Eng.bpe (objects.noteCv true) (Eng.lowerHold (strong objects.h.space 2))).1.isSome = true) ∧
    (malformed objects.h.space (objects.rd 2) = false ∧
      objects.bindingOf (valWeak (objects.rd 2)) (valGen (objects.rd 2)) (valIndex (objects.rd 2)) none =
        strong objects.h.space 2 ∧
      (Eng.bpe (objects.noteCv true) (Eng.rebind (strong objects.h.space 2) (objects.slot 9))).1.isSome = true) ∧
    ((objects.rd 1).toNat ≤ 5 ∧
      (strong objects.h.space 2).isGone ((objects.noteCv true).view (strong objects.h.space 2)).1 = false ∧
      ({ strong objects.h.space 2 with weak := true, gone := true } : Binding).isGone
        ((objects.noteCv true).view { strong objects.h.space 2 with weak := true, gone := true }).1 = true) :=
  ⟨⟨by decide +kernel, by decide +kernel⟩, by decide +kernel, liveFor_ex (by decide +kernel), liveFor_ex (by decide +kernel),
    by decide +kernel, by decide +kernel, by decide +kernel⟩

/-- The same with the count of block 0 at its greatest. -/
def crowded : State :=
  let s := objects.putPhys 0x120000 4 0xFFFFFFFF
  { s with h := { s.h with s := [(1, BitVec.allOnes 64)] } }

theorem witness_BlockInstructions :
    Ready objects ∧
    -- HNEW of one block of pool 0
    (badAttributes objects (objects.rd 0) = false ∧
      (Eng.bpe (objects.noteCv true) (Eng.madeFor objects.h.space (objects.slot 9) (Eng.makePaged objects.h.space
        0 0 1 0 0 0 (objects.pool objects.partNo 0).bs (List.replicate 1 emptyBlock)))).1.isSome = true) ∧
    ((objects.rd 0).toNat ≤ 63 ∧ (objects.pool objects.partNo 0).en = true ∧
      (Eng.bpe (objects.noteCv true) (Eng.takeBlock 0)).1.isSome = true) ∧
    (badFree objects 0 0 = false ∧ (Eng.bpe (objects.noteCv true) (Eng.decCount 0 0)).1.isSome = true) ∧
    -- h5 is the paged object
    (let b := strong objects.h.space 4
     let e := objects.entryOf b
     let t0 := objects.btable e.tbl
     objects.slot 5 = some b ∧ b.isGone e = false ∧ e.paged = true ∧ t0.entries = 2 ∧ objects.mapped t0 0 = some 0 ∧
      objects.mapped t0 1 = none ∧
      (Eng.bpe (objects.noteCv true) (Eng.madeFor objects.h.space (objects.slot 9)
        (Eng.ofTable e t0 (Eng.forkTable objects.h.space e t0)))).1.isSome = true ∧
      (objects.rd 0).toNat < t0.entries ∧
      (Eng.bpe (objects.noteCv true) (Eng.ofTable e t0 (Eng.cow t0 0))).1.isSome = true ∧
      (objects.rd 1).toNat < t0.entries ∧
      (Eng.bpe (objects.noteCv true) (Eng.ofTable e t0 (Eng.cow t0 1))).1.isSome = true ∧
      (objects.rd 0).toNat < (objects.pool objects.partNo t0.pool).nblk ∧
      objects.physNat ((objects.pool objects.partNo t0.pool).cnt + 4 * (objects.rd 0).toNat) 4 ≠ 0 ∧
      (Eng.bpe (objects.noteCv true) (Eng.ofTable e t0 (Eng.mapBlock t0 1 0))).1.isSome = true ∧
      (objects.rd 1).toNat ≤ t0.entries * ((objects.pool objects.partNo t0.pool).bs / 2 ^ t0.rowlog) ∧
      objects.rd 1 ≠ BitVec.allOnes 64 ∧
      (Eng.bpe (objects.noteCv true) (Eng.ofTable e t0 (Eng.fill t0 (some 1)))).1.isSome = true ∧
      (Eng.bpe (objects.noteCv true) (Eng.ofTable e t0 (Eng.emptyTable t0))).1.isSome = true ∧
      objects.badIn [(.phys (t0.addr + 8), 4)] = []) ∧
    -- its block's count is full, and a register is all ones
    (let b := strong crowded.h.space 4
     let e := crowded.entryOf b
     let t0 := crowded.btable e.tbl
     Ready crowded ∧ crowded.slot 5 = some b ∧ b.isGone e = false ∧ e.paged = true ∧
      crowded.forkFull (crowded.pool crowded.partNo t0.pool) (crowded.blocksOf t0) = true ∧
      (Eng.bpe (crowded.noteCv true) (Eng.madeFor crowded.h.space (crowded.slot 9)
        (Eng.ofTable e t0 (Eng.forkTable crowded.h.space e t0)))).1.isSome = true ∧
      (Eng.bpe (crowded.noteCv true) (Eng.ofTable e t0 (Eng.fill t0 none))).1.isSome = true ∧
      crowded.rd 1 = BitVec.allOnes 64) :=
  ⟨⟨by decide +kernel, by decide +kernel⟩, by decide +kernel, by decide +kernel, by decide +kernel, by decide +kernel,
    ⟨by decide +kernel, by decide +kernel⟩, by decide +kernel⟩

theorem witness_ExpertInstructions :
    Ready objects ∧ (objects.rd 1).toNat < objects.h.space.ertSize ∧
    -- expert 1 is resident and expert 0 absent
    (let x := objects.expert (objects.h.space.expertAt 1)
     2 ≤ x.state ∧ objects.bindingOf false (valGen x.handle) (valIndex x.handle) (some 1) =
       { strong objects.h.space 2 with expert := some 1 } ∧
     (Eng.perigee (objects.noteCv true) objects.partNo (do
       Eng.forHart; Eng.exbindHit x { strong objects.h.space 2 with expert := some 1 } (objects.slot 9))).1.isSome = true) ∧
    (let x := objects.expert (objects.h.space.expertAt 0)
     x.state < 2 ∧ (objects.clu objects.clNo).tokens.length + (objects.newTokens 0 1).length ≤ 4096 ∧
     (Eng.perigee (objects.noteCv true) objects.partNo (do Eng.forHart; Eng.exbindMiss objects.h.space 0 x)).1.isSome = true) ∧
    (objects.readySet (some 0) = [] ∧ landed.readySet none ≠ [] ∧ landed.readySet (some 1) ≠ [] ∧
      (Eng.perigee (landed.noteCv true) landed.partNo (do Eng.forHart; Eng.takeReady landed.h.space 1 (landed.slot 9))).1.isSome = true) ∧
    (objects.slot 7 = some { strong objects.h.space 2 with expert := some 1 } ∧
      (Eng.bpe (objects.noteCv true) (Eng.release { strong objects.h.space 2 with expert := some 1 })).1.isSome = true) ∧
    ((objects.rd 1).toNat ≤ 1 ∧ (objects.rd 0).toNat ≤ 1 ∧
      (Eng.perigee (objects.noteCv true) objects.partNo (do Eng.forHart; Eng.pinExpert objects.h.space 1 true)).1.isSome = true ∧
      (Eng.perigee (objects.noteCv true) objects.partNo (do Eng.forHart; Eng.expertWord objects.h.space 1 true)).1.isSome = true) :=
  ⟨⟨by decide +kernel, by decide +kernel⟩, by decide +kernel, by decide +kernel, by decide +kernel, by decide +kernel,
    by decide +kernel, by decide +kernel⟩

/-- What a fill of h's object finds: every byte of the grant, with no error anywhere. -/
def fills (v : State) (h : BitVec 4) (d : BitVec 6) : Bool :=
  match v.checks h .store fun w e => Side.elems { slot := h, stream := none, off := (v.rd d).toInt } v.g w e with
  | (.ok p, l, u) => match p.elems l [] u with
    | (found, none, _, u') => u'.bad.isEmpty && found.length == 4 && decide (bytesAt found).Nodup
    | _ => false
  | _ => false

theorem fills_ex {v h d} (e : fills v h d = true) : ∃ p l u u' m found, v.checks h .store (fun w e =>
    Side.elems { slot := h, stream := none, off := (v.rd d).toInt } v.g w e) = (.ok p, l, u) ∧
    p.elems l [] u = (found, none, m, u') ∧ u'.bad = [] ∧ (bytesAt found).Nodup := by
  unfold fills at e
  split at e
  · rename_i p l u h1
    split at e
    · rename_i found m u' h2
      simp only [Bool.and_eq_true, List.isEmpty_iff, decide_eq_true_eq] at e
      exact ⟨p, l, u, u', m, found, h1, h2, e.1.1, e.2⟩
    · cases e
  · cases e

/-- Both ends of a transfer without stream blocks. -/
def ends (v : State) (use : Use) (h g : BitVec 4) (d a : BitVec 6) : Option (Move × State) :=
  let x : Side := { slot := g, stream := none, off := (v.rd a).toInt }
  let y : Side := { slot := h, stream := none, off := (v.rd d).toInt }
  match v.bothEnds use x y (min (x.limit v.g) (y.limit v.g)) [] with
  | (.ok m, u) => some (m, u)
  | _ => none

theorem ends_ex {v use h g d a m u} (e : ends v use h g d a = some (m, u)) (word : BitVec 32) :
    BothEnds v u word use false false h g d a m { slot := g, stream := none, off := (v.rd a).toInt }
      { slot := h, stream := none, off := (v.rd d).toInt } := by
  simp only [ends] at e
  refine ⟨[], [], v, v, rfl, rfl, ?_⟩
  split at e
  · rename_i m' u' h1
    simp only [Option.some.injEq, Prod.mk.injEq] at e
    obtain ⟨rfl, rfl⟩ := e
    simpa using h1
  · cases e

/-- A copy within the package whose every byte is found, with or without a shared byte. -/
def copies (v : State) (h g : BitVec 4) (d a : BitVec 6) (overlap : Bool) : Bool :=
  match ends v .copyTo h g d a with
  | none => false
  | some (m, u) =>
    m.src.ent.space != 3 && m.dst.ent.space != 3 && m.linear && (m.shared v.clNo).isEmpty != overlap &&
    let order (l : List Elem) : List Elem := if m.descends v.clNo then l.reverse else l
    match m.src.elems (order m.sl) [] u with
    | (xs, none, _, u1) => match m.dst.elems (order m.dl) [] u1 with
      | (ys, none, _, u2) => xs.length == ys.length && u2.bad.isEmpty && decide (bytesAt ys).Nodup && ys.length == 4
      | _ => false
    | _ => false

theorem copies_ex {v h g d a overlap} (e : copies v h g d a overlap = true) (word : BitVec 32) : ∃ x y m u,
    BothEnds v u word .copyTo false false h g d a m x y ∧ m.src.ent.space ≠ 3 ∧ m.dst.ent.space ≠ 3 ∧ m.linear = true ∧
    ∃ xs ys u1 u2 m1 m2, m.src.elems (if m.descends v.clNo then m.sl.reverse else m.sl) [] u = (xs, none, m1, u1) ∧
      m.dst.elems (if m.descends v.clNo then m.dl.reverse else m.dl) [] u1 = (ys, none, m2, u2) ∧ xs.length = ys.length ∧
      u2.bad = [] ∧ (bytesAt ys).Nodup := by
  unfold copies at e
  split at e
  · cases e
  · rename_i m u h1
    simp only [Bool.and_eq_true, bne_iff_ne] at e
    obtain ⟨⟨⟨⟨e1, e2⟩, e3⟩, -⟩, e⟩ := e
    split at e
    · rename_i xs m1 u1 h2
      split at e
      · rename_i ys m2 u2 h3
        simp only [Bool.and_eq_true, beq_iff_eq, List.isEmpty_iff, decide_eq_true_eq] at e
        exact ⟨_, _, m, u, ends_ex h1 word, e1, e2, e3, xs, ys, u1, u2, m1, m2, h2, h3, e.1.1.1, e.1.1.2, e.1.2⟩
      · cases e
    · cases e

/-- The machine of `objects` with places for a copy of four bytes: s1 = 1 and s10 = 3 overlap, s1 and s2 do not. -/
def copying : State := { objects with h := { objects.h with s := [(1, 1), (2, 0x800), (10, 3)] } }

/-- Its stream block at 0x1000 of h2 names h2 itself; the same block names the remote h6 where its byte 22 says so. -/
def pushing : State :=
  let spb (slot : Byte) : List Byte := [0, 0, 0, 0, 1, 0, 0, 0, 16, 0, 0, 0, 0, 0, 0, 0, 0, 0, 4, 0, 1, 0, slot]
  let s := objects.putRaw (.phys (65536 * (objects.fetchFrame + 6) + 0x9000)) (spb 2)
  let s := s.putRaw (.phys (65536 * (objects.fetchFrame + 6) + 0x9020)) (spb 6)
  { s with h := { s.h with s := [(1, 0x1000), (2, 0x1020), (3, 6 + 8 * 256)] } }

/-- A push whose source's bytes are found, its peer open, and its flag's object, where it has one, at the same peer. -/
def pushes (v : State) (word : BitVec 32) (h g : BitVec 4) (d a : BitVec 6) (flagged : Bool) : Bool :=
  match v.side word true 0 g a with
  | (.ok (x, bx), u1) => match u1.side word true bx.length h d with
    | (.ok (y, b), u2) => match u2.bothEnds .pushTo x y (min (x.limit v.g) (y.limit v.g)) (bx ++ b) with
      | (.ok m, u) =>
        m.src.ent.space != 3 &&
        let uf := if flagged then (u.pushFlag (v.rd (d + 1)) m.dst.ent.peer).2 else u
        (!flagged || (u.pushFlag (v.rd (d + 1)) m.dst.ent.peer).1.isOk) &&
        (match uf.peerOpen m.dst.ent y.slot Want.store with
          | (none, up) => match m.src.elems m.sl [] up with
            | (l, none, _, u1) => u1.bad.isEmpty && l.length == 4
            | _ => false
          | _ => false)
      | _ => false
    | _ => false
  | _ => false

theorem pushes_ex {v word h g d a flagged} (e : pushes v word h g d a flagged = true) : ∃ x y m u f uf up,
    BothEnds v u word .pushTo true true h g d a m x y ∧ m.src.ent.space ≠ 3 ∧
    (if flagged = true then ∃ k, f = some k ∧ u.pushFlag (v.rd (d + 1)) m.dst.ent.peer = (.ok k, uf)
      else f = none ∧ uf = u) ∧
    uf.peerOpen m.dst.ent y.slot Want.store = (none, up) ∧
    ∃ from_ m1 u1, m.src.elems m.sl [] up = (from_, none, m1, u1) ∧ u1.bad = [] := by
  unfold pushes at e
  split at e
  · rename_i x bx u1 h1
    split at e
    · rename_i y b u2 h2
      split at e
      · rename_i m u h3
        simp only [Bool.and_eq_true, bne_iff_ne] at e
        obtain ⟨e1, e2, e⟩ := e
        split at e
        · rename_i up h4
          split at e
          · rename_i l m1 u3 h5
            simp only [Bool.and_eq_true, List.isEmpty_iff] at e
            cases flagged with
            | false =>
              exact ⟨x, y, m, u, none, u, up, ⟨bx, b, u1, u2, h1, h2, h3⟩, e1, by simp, by simpa using h4, l, m1, u3, h5, e.1⟩
            | true =>
              simp only [if_true] at h4
              cases h6 : u.pushFlag (v.rd (d + 1)) m.dst.ent.peer with
              | mk k uf =>
                rw [h6] at h4 e2
                cases k with
                | error t => simp [Except.isOk, Except.toBool] at e2
                | ok k =>
                  exact ⟨x, y, m, u, some k, uf, up, ⟨bx, b, u1, u2, h1, h2, h3⟩, e1, by rw [if_pos rfl]; exact ⟨k, rfl, h6⟩, h4, l, m1, u3, h5, e.1⟩
          · cases e
        · cases e
      · cases e
    · cases e
  · cases e

/-- The same hart with an earlier push in flight, whose tag is 9. -/
def behindPush : State := { pushing with h := { pushing.h with xfers := [{ flight with tag := 9 }] } }

theorem witness_EngineTransfers :
    (EngineReady copying true ∧ copying.h.resuming = false) ∧
    (∃ p l u u' m found, (copying.issued true .en).checks 2 .store (fun w e =>
      Side.elems { slot := 2, stream := none, off := ((copying.issued true .en).rd 1).toInt } (copying.issued true .en).g w e) =
        (.ok p, l, u) ∧ p.elems l [] u = (found, none, m, u') ∧ u'.bad = [] ∧ (bytesAt found).Nodup) ∧
    -- a copy whose ends overlap, and one whose ends do not
    copies (copying.issued true .en) 2 2 1 10 true = true ∧ copies (copying.issued true .en) 2 2 2 1 false = true ∧
    -- a push, and one with an arrival flag in s3
    ((pushing.runnable = true ∧ (true = true ∨ Path.en.no ∉ pushing.h.convoy) ∧ pushing.h.xfers = []) ∧ pushes (pushing.issued true .en) (encode (.xpush true 2 2 2 1 0)) 2 2 2 1 false = true ∧
      ((2 : BitVec 6) ≠ 63 ∧ (pushing.rd (2 + 1)).extractLsb' 4 4 = 0) ∧
      pushes (pushing.issued true .en) (encode (.xpush true 2 2 2 1 1)) 2 2 2 1 true = true ∧
      -- the same behind an earlier push
      (behindPush.runnable = true ∧ behindPush.h.resuming = false ∧ behindPush.h.xfers.length < 8 ∧ behindPush.h.xfers ≠ [] ∧
        (∀ y ∈ behindPush.h.xfers, y.push = true ∧ y.refused = none ∧
          y.tag ≠ behindPush.h.restart.tag.getD (BitVec.ofNat 32 behindPush.pkg.nextTag)) ∧
        pushes (behindPush.issued true .en) (encode (.xpush true 2 2 2 1 0)) 2 2 2 1 false = true)) :=
  ⟨⟨⟨⟨by decide +kernel, by decide +kernel⟩, .inl rfl⟩, by decide +kernel⟩, fills_ex (by decide +kernel), by decide +kernel,
    by decide +kernel, ⟨by decide +kernel, .inl rfl, by decide +kernel⟩, by decide +kernel, by decide +kernel,
    by decide +kernel, by decide +kernel⟩

/-! ## Flits -/

/-- A flit of a type to partition 0 from peer 32, in order where it is the first of its port. -/
def flit (t : FlitType) (payload : List Byte) : Flit :=
  { type := t.code, seq := 1, epoch := 0, ack := 0, src := 32, dst := State.peerNumber 0, tag := 7, k := 0, payload := payload }

/-- The machine of `objects` once it has heard peer 32's EPOCH 0. -/
def linked : State := objects.modPart 0 fun p => { p with state := 1, peers := [(32, { Peer.reset with epoch := some 0 })] }

theorem comes_ex (s : State) (q : Nat) (t : FlitType) (payload : List Byte) (hp : payload.length ≤ 224)
    (hq : q / 16 = 0) (h : ((s.port q).up && (s.port q).lastIn == 0 && (s.part 0).state != 0 && (s.slotOfPeer 0 32).isSome) = true) :
    ∃ i ps, Comes s q (flit t payload).bits2048 t (flit t payload) i ps := by
  simp only [Bool.and_eq_true, beq_iff_eq, bne_iff_ne] at h
  obtain ⟨⟨⟨h1, h2⟩, h0⟩, h3⟩ := h
  obtain ⟨⟨i, ps⟩, h4⟩ := Option.isSome_iff_exists.mp h3
  refine ⟨i, ps, h1, by rw [hq]; exact h0, parse_bits2048 (by cases t <;> simp [flit, FlitType.code]) (by simp [flit]) hp, rfl, fun _ _ => ?_, ?_, ?_⟩
  · rw [h2]; rfl
  · rw [hq]; rfl
  · rw [hq]; exact h4

theorem arrives_ex (s : State) (q : Nat) (t : FlitType) (payload : List Byte) (hp : payload.length ≤ 224)
    (hq : q / 16 = 0) (h : ((s.port q).up && (s.port q).lastIn == 0 && (s.part 0).state != 0 && ((s.slotOfPeer 0 32).isSome &&
      decide ((s.peer 0 32).epoch = some 0))) = true) : ∃ i ps, Arrives s q (flit t payload).bits2048 t (flit t payload) i ps := by
  simp only [Bool.and_eq_true, decide_eq_true_eq] at h
  obtain ⟨h1, h2, h3⟩ := h
  obtain ⟨i, ps, c⟩ := comes_ex s q t payload hp hq (by
    simp only [Bool.and_eq_true]; exact ⟨h1, h2⟩)
  exact ⟨i, ps, c, by rw [hq]; exact h3⟩

/-- A flit whose CRC is wrong: 256 zero bytes. -/
theorem test_bad_flit : (Flit.parse 0).2 = false := by decide +kernel

/-- The machine of `linked` once peer 32 has moved on from EPOCH 0, or before it has been heard. -/
def movedOn : State := objects.modPart 0 fun p => { p with state := 1, peers := [(32, { Peer.reset with epoch := some 1, old := [0] })] }

def unheard : State := objects.modPart 0 fun p => { p with state := 1 }

/-- Port 0 down; its port failed; its peer cut off for long enough; a window over. -/
def down : State := { linked with pkg := { linked.pkg with ports := [(0, { Port.reset with up := false })] }, cycles := 85000 }
def failed : State := { linked with pkg := { linked.pkg with ports := [(0, { Port.reset with failed := 17 })] } }

theorem witness_PortsAndFlits :
    (linked.port 0).up = true ∧ (down.port 0).up = false ∧ (∃ f, Flit.parse 0 = (f, false)) ∧
    (∃ f, Flit.parse (flit .grant []).bits2048 = (f, true) ∧ f.type = 5 ∧ (f.seq - (linked.port 0).lastIn).toNat = 1) ∧
    (∀ t : FlitType, ∃ i ps, Arrives linked 0 (flit t [4]).bits2048 t (flit t [4]) i ps) ∧
    -- a reset flit of a current, an old and a new EPOCH
    ((movedOn.peer 0 32).epoch ≠ some (flit .reset []).epoch ∧ (flit .reset []).epoch ∈ (movedOn.peer 0 32).old ∧
      (unheard.peer 0 32).epoch ≠ some (flit .reset []).epoch ∧ (flit .reset []).epoch ∉ (unheard.peer 0 32).old ∧
      ∀ t, (∃ i ps, Comes movedOn 0 (flit t []).bits2048 t (flit t []) i ps) ∧
        ∃ i ps, Comes unheard 0 (flit t []).bits2048 t (flit t []) i ps) ∧
    (failed.portFailed 0 = true ∧ linked.portFailed 0 = false) ∧
    ((∃ ps, down.peerSlot 0 0 = some ps) ∧ down.cutOff 0 0 = true ∧ linked.cutOff 0 0 = false) ∧
    (down.windowOver 0 = true ∧ linked.windowOver 0 = false) := by
  refine ⟨by decide +kernel, by decide +kernel, ⟨_, Prod.ext rfl test_bad_flit⟩,
    ⟨_, parse_bits2048 (by decide) (by decide) (by decide), by decide +kernel⟩,
    fun t => arrives_ex _ _ t _ (by decide) (by decide) (by decide +kernel),
    ⟨by decide +kernel, by decide +kernel, by decide +kernel, by decide +kernel, fun t =>
      ⟨comes_ex _ _ t _ (by decide) (by decide) (by decide +kernel), comes_ex _ _ t _ (by decide) (by decide) (by decide +kernel)⟩⟩,
    by decide +kernel,
    ⟨Option.isSome_iff_exists.mp (by decide +kernel), by decide +kernel⟩, by decide +kernel⟩

/-! ## Scheduling, traps and pre-emption -/

/-- A hart that has run for more than a quantum, with another that waits for its slot; parked in some way. -/
def waiting (p : Option Park) : State := { queue with h := { hartU with park := p }, cycles := 2 ^ 30 }

theorem witness_HartsAreScheduled :
    (user.switchable (0 : BitVec 8).toNat = [] ∧ (waiting (some .wfi)).switchable (0 : BitVec 8).toNat = [0] ∧
      (0 ∉ ((waiting (some .wfi)).clu 0).ready ∧ ((waiting (some .wfi)).clu 0).ready = [1] ∧
        ((waiting (some .wfi)).modHart 0 fun h => { h with life := .standby }).freeSlot 0 1 = some 0)) ∧
    (user.quantumOver (0 : BitVec 12).toNat = false ∧ (waiting none).quantumOver (0 : BitVec 12).toNat = true ∧
      ((waiting none).modHart 0 fun h => { h with life := .standby }).freeSlot 0 1 = some 0) ∧
    ((waiting (some (.vwait []))).waitMet (0 : BitVec 12).toNat = true ∧ user.waitMet (0 : BitVec 12).toNat = false) ∧
    (((waiting (some (.hwait 5))).hart (0 : BitVec 12).toNat).park = some (.hwait 5) ∧
      (waiting (some (.hwait 5))).waitOver ((0 : BitVec 12).toNat / 16) 5 = true ∧
      user.hwaitMet (0 : BitVec 12).toNat = false) ∧
    (((waiting (some .wfi)).hart (0 : BitVec 12).toNat).park = some .wfi ∧ (user.hart (0 : BitVec 12).toNat).park ≠ some .wfi) ∧
    -- a parked VSETVLG with lanes free, and one without, before and after its quantum
    (let s := ganged.modHart 0 fun h => { h with park := some (.grant 2 1 2 0) }
     (s.hart (0 : BitVec 12).toNat).park = some (.grant 2 1 2 0) ∧ (s.grantFor (0 : BitVec 12).toNat true).isSome = true ∧
      s.grantLate (0 : BitVec 12).toNat = false) ∧
    (let s := { (starved.modHart 0 fun h => { h with park := some (.grant 2 1 0x1FFFFF 0) }) with cycles := 2 ^ 30 }
     (s.hart (0 : BitVec 12).toNat).park = some (.grant 2 1 0x1FFFFF 0) ∧ (s.grantFor (0 : BitVec 12).toNat true).isNone = true ∧
      s.grantLate (0 : BitVec 12).toNat = true) := by decide +kernel

/-- A machine in which a frame can be written, with an interrupt pending. -/
def signalled : State := { framed with h := { framed.h with intr := [(1, 9)] } }

/-- A hart with a refused transfer, and one with a machine check pending. -/
def refused : State := { user with h := { hartU with xfers := [{ flight with refused := some (1, 5) }] } }
def checked : State := { user with h := { hartU with checks := [(false, 5, 0x40, 0, none)] } }

/-- A Saved hart whose frame is good, and one that has none. -/
def saved : State := let s := returning false 3; { s with h := { s.h with life := .saved } }
def unsaved : State := { saved with pkg := { saved.pkg with frames := [] } }

/-- That a frame's seal fails. -/
def isBad (x : State.Unsealed × State) : Bool := match x with | (.bad, _) => true | _ => false

theorem isBad_ex {x : State.Unsealed × State} (h : isBad x = true) : ∃ u, x = (.bad, u) := by
  obtain ⟨g, u⟩ := x
  cases g with
  | bad => exact ⟨u, rfl⟩
  | good f => simp [isBad] at h
  | fault e p => simp [isBad] at h

theorem saved_reads : ∃ f u, saved.readFrame [3] false saved.h.sframe = (.good f, u) := by
  obtain ⟨f, u, h, -⟩ := reads_ex (reads_of (s := saved) (kinds := [3]) (user := false) (va := saved.h.sframe) (same := true) (by decide +kernel))
  exact ⟨f, u, h⟩

theorem framed_saved : frameOk (framed.writeFrame 3 framed.h.sframe framed.h.pc framed.h.startOf) = true := by decide +kernel

theorem framed_trap : frameOk ((signalled.mod fun h => { h with intr := [] }).writeFrame 1 signalled.h.sframe signalled.h.pc
    signalled.h.startOf) = true := by decide +kernel

theorem framed_fault : frameOk ((framed.mod fun h => { h with frameFault := none }).writeFrame 1 framed.h.sframe framed.h.pc
    framed.h.startOf) = true := by decide +kernel

theorem framed_user' : frameOk (framed.writeFrame 0 framed.h.uframe framed.h.pc framed.h.startOf) = true := by
  rw [show framed.h.pc = 0x1000 by decide +kernel, show framed.h.startOf = 0 by decide +kernel]
  exact framed_user

theorem witness_TrapsAndPreemption :
    (signalled.interruptible (0 : BitVec 12).toNat = true ∧ (signalled.switchTo 0).h.intr = [(1, 9)] ∧
      (signalled.switchTo 0).h.stvec ≠ 0) ∧
    (user.runnable = true ∧ userCode 16 = true ∧ userCode 20 = true ∧ user.h.xfers = []) ∧
    ((!framed.h.sup && framed.h.utvec != 0 && !framed.h.ucause.getLsbD 63 && framed.runnable && framed.h.xfers.isEmpty &&
      framed.h.stvec != 0) = true) ∧
    (refused.runnable = true ∧ refused.refusedXfer (refusalVal 1 5) = some { flight with refused := some (1, 5) }) ∧
    (sup.runnable = true ∧ sup.h.sup = true ∧ sup.h.stvec ≠ 0) ∧
    (user.ready (0 : BitVec 12).toNat = true ∧ (user.hart 0).stvec ≠ 0 ∧ sup.ready 0 = true ∧ (sup.hart 0).sup = true) ∧
    (sup.stands (0 : BitVec 12).toNat = true ∧ (sup.switchTo 0).h.sup = true ∧ checked.stands 0 = true ∧
      (checked.switchTo 0).h.checks ≠ []) ∧
    ((framed.stands 0 && !(framed.switchTo 0).h.sup && (framed.switchTo 0).h.checks.isEmpty) = true) ∧
    (user.stands 0 = true ∧ user.h.sup = false ∧ user.h.checks = [] ∧
      ∃ page u, user.writeFrame 3 user.h.sframe user.h.pc user.h.startOf = (.error page, u)) ∧
    ((saved.hart 0).life = .saved ∧ (unsaved.hart 0).life = .saved ∧
      ∃ u, (unsaved.switchTo 0).readFrame [3] false (unsaved.switchTo 0).h.sframe = (.bad, u)) ∧
    (user.hart (0 : BitVec 12).toNat).life ≠ .saved ∧ user.liveIn (0 : BitVec 3).toNat ≠ [] ∧ State.reset.liveIn 0 = [] :=
  ⟨by decide +kernel, by decide, by decide +kernel, by decide, by decide, by decide, by decide, by decide +kernel,
    ⟨by decide, by decide, by decide, frameErr_ex (by decide +kernel)⟩,
    ⟨by decide +kernel, by decide +kernel, isBad_ex (by decide +kernel)⟩, by decide +kernel, by decide +kernel, by decide +kernel⟩

/-! ## Power, boot and security -/

/-- A hart that holds lanes, and a partition that is hot, or without a power cap. -/
def laned : State := { user with h := { hartU with granted := true, lg := 32, groups := [0, 1, 2, 3, 4, 5, 6, 7] } }

theorem witness_PowerAndHeat : laned.groupHeld (0 : BitVec 8).toNat (7 : BitVec 3).toNat = true ∧
    user.groupHeld (0 : BitVec 8).toNat (7 : BitVec 3).toNat = false := by decide +kernel

/-- The package with its rails up to one in range, with PERST# asserted or not, and in a BOOTSTAT. -/
def powered (n : Nat) (perst : Bool) (stat : BitVec 64) : State :=
  { State.reset with pkg := { State.reset.pkg with rails := (List.range n).map fun i => (i, true), perst := perst,
                                                   bootstat := stat.toNat, clocks := true } }

theorem witness_RailsAndReset :
    ((0 : BitVec 4).toNat ≤ 10 ∧ (10 : BitVec 4).toNat ≤ 10 ∧ ∀ r < 10, (powered 10 true 0).inRange r = true) ∧
    (10 < (11 : BitVec 4).toNat ∧ ∃ r < (10 : BitVec 4).toNat, (powered 9 true 0).inRange r = false) ∧
    ((powered 11 true 0).pkg.perst = true ∧ ∀ r ≤ 10, (powered 11 true 0).inRange r = true) ∧
    ((powered 11 false 1).pkg.perst = false ∧ ∃ r ≤ 10, (powered 10 true 0).inRange r = false) ∧
    -- VCORE7 leaves its range; VIO is removed while VMEM is down; VCORE0 while its partition runs, and while it is off
    ((powered 11 false 4).railUp (10 : BitVec 4).toNat = true) ∧
    ((powered 2 true 0).railUp (1 : BitVec 4).toNat = true ∧ (∀ q ≤ 10, (1 : BitVec 4).toNat < q → (powered 2 true 0).railUp q = false) ∧
      (1 : BitVec 4).toNat < 3) ∧
    (let s := { powered 4 false 4 with parts := [(0, { Part.reset with state := 2, tports := 1 })] }
     s.railUp (3 : BitVec 4).toNat = true ∧ (∀ q ≤ 10, (3 : BitVec 4).toNat < q → s.railUp q = false) ∧
      s.off ((3 : BitVec 4).toNat - 3) = false) ∧
    (powered 2 true 0).railUp (2 : BitVec 4).toNat = false ∧
    (let s := { powered 11 false 4 with parts := [(0, { Part.reset with tports := 1 })] }
     3 ≤ (3 : BitVec 4).toNat ∧ s.railUp (3 : BitVec 4).toNat = true ∧ s.pkg.clocks = true ∧
      s.off ((3 : BitVec 4).toNat - 3) = true ∧ s.pkg.retention.get false (3 : BitVec 4).toNat = false) := by decide +kernel

/-- The package at its boot ROM, whose host offers an image of a size at an address. -/
def offered (a n : Nat) : State :=
  let s := powered 11 false 1
  { s with pkg := { s.pkg with imgaddr := BitVec.ofNat 64 a, imgsize := BitVec.ofNat 64 n, minsvn := 7 } }

/-- The same with the firmware image at host address 0. -/
def booting : State := (offered 0 516).putRaw (.phys (2 ^ 54)) firmware

theorem booting_reads : booting.hostBytes booting.pkg.imgaddr.toNat booting.pkg.imgsize.toNat = some firmware := by decide +kernel

/-- Where the fuses hold the hash of the image's key, it is accepted. -/
theorem booting_good (h : Config.fusedKey 0 = some (Shake.shake256 imageKey 32)) :
    imageFault 0 ((List.range 4).filterMap Config.fusedKey) booting.pkg.minsvn.toNat firmware = none := by
  rw [show booting.pkg.minsvn.toNat = 7 by decide +kernel]
  apply firmware_passes
  rw [List.contains_iff_mem, List.mem_filterMap]
  exact ⟨0, by decide, h⟩

/-- A partition with a stack, two of whose words hold uncorrectable errors, one of them in the LLC. -/
def scrubbed : State :=
  { State.reset with bad := [.phys 0x1000, .phys 0x2000, .phys (2 ^ 54)], caught := [(0x2000, 4)], parts := [(0, { Part.reset with hbmStacks := 1 })],
                     pkg := { State.reset.pkg with clocks := true } }

theorem length_encode (a : Ed448.Point) : a.encode.length = 57 := length_leBytes 57 _

theorem idpub_length : State.idpub.length = 57 := length_encode _

theorem body_length (s : State) (h1 : s.pkg.nonce.length = 32) (h2 : s.pkg.mfw.length = 64) (h3 : s.pkg.mcfg.length = 64)
    (h4 : ∀ p, (s.part p).mpart.length = 64) : s.reportBody.length = 760 := by
  unfold State.reportBody
  have r : List.range 8 = [0, 1, 2, 3, 4, 5, 6, 7] := rfl
  have i := idpub_length
  generalize State.idpub = x at i
  simp only [List.length_append, i, length_leBytes, r, List.flatMap_cons, List.flatMap_nil, apply_ite List.length,
    h1, h2, h3, h4, zeroes, List.length_replicate, ite_self, List.length_cons, List.length_nil]

theorem sign_length (seed m : List Byte) : (Ed448.sign seed m).length = 114 := by
  unfold Ed448.sign
  simp only [List.length_append, length_encode, length_leBytes]

theorem report_length (s : State) (h1 : s.pkg.nonce.length = 32) (h2 : s.pkg.mfw.length = 64) (h3 : s.pkg.mcfg.length = 64)
    (h4 : ∀ p, (s.part p).mpart.length = 64) : s.report.length = 896 := by
  have h := body_length s h1 h2 h3 h4
  unfold State.report
  generalize s.reportBody = b at h
  simp only [List.length_append, h, sign_length, zeroes, List.length_replicate]

theorem witness_BootCommands :
    ((offered 0 511).pkg.clocks = true ∧ (offered 0 511).pkg.bootstat = 1 ∧ (offered 0 511).pkg.imgsize.toNat < 512 ∧
      2 ^ 21 < (offered 0 (2 ^ 21 + 1)).pkg.imgsize.toNat) ∧
    (512 ≤ (offered (2 ^ 53) 512).pkg.imgsize.toNat ∧
      (offered (2 ^ 53) 512).hostBytes (offered (2 ^ 53) 512).pkg.imgaddr.toNat 512 = none) ∧
    (let img := zeroes 512
     (offered 0 512).hostBytes (offered 0 512).pkg.imgaddr.toNat 512 = some img ∧
      ∀ keys, imageFault 0 keys (offered 0 512).pkg.minsvn.toNat img = some 8) ∧
    (booting.hostBytes booting.pkg.imgaddr.toNat booting.pkg.imgsize.toNat = some firmware ∧
      (Config.fusedKey 0 = some (Shake.shake256 imageKey 32) →
        imageFault 0 ((List.range 4).filterMap Config.fusedKey) booting.pkg.minsvn.toNat firmware = none)) ∧
    (let s := { powered 11 false 4 with pkg := { (powered 11 false 4).pkg with svn := 1 } }
     s.pkg.clocks = true ∧ s.pkg.bootstat = 4 ∧ s.pkg.minsvn < s.pkg.svn ∧ s.pkg.raises < 64) ∧
    ((powered 11 false 3).pkg.bootstat = 3 ∧ ¬(powered 11 false 3).pkg.minsvn < (powered 11 false 3).pkg.svn) ∧
    ((powered 11 false 1).pkg.bootstat ≠ 0 ∧ (powered 11 false 1).pkg.bootstat ≠ 2 ∧ (powered 11 false 1).bad = [] ∧
      (powered 11 false 1).report.length = 896) ∧
    ((∀ q < 0, (scrubbed.part q).hbmStacks.getLsbD (0 : BitVec 4).toNat = false) ∧
      (scrubbed.part 0).hbmStacks.getLsbD (0 : BitVec 4).toNat = true ∧
      scrubbed.badOf (0 : BitVec 4).toNat (· = 0) = [0x1000] ∧ scrubbed.badOf (0 : BitVec 4).toNat (· = 4) = [0x2000]) :=
  ⟨by decide +kernel, by decide +kernel, ⟨by decide +kernel, fun keys => by
      have h : headerOk 0 (zeroes 512) = false := by decide +kernel
      simp [imageFault, h]⟩,
    ⟨booting_reads, booting_good⟩, by decide +kernel, by decide +kernel,
    ⟨by decide +kernel, by decide +kernel, by decide +kernel, report_length _ (by decide +kernel) (by decide +kernel) (by decide +kernel) fun _ => rfl⟩, by decide +kernel⟩

theorem witness_SecurityVersionOnlyRises :
    (let s := { powered 11 false 4 with pkg := { (powered 11 false 4).pkg with svn := 1 } }
     s.pkg.clocks = true ∧ s.pkg.bootstat = 4 ∧ s.pkg.minsvn < s.pkg.svn ∧ s.pkg.raises < 64) ∧
    ¬(powered 11 false 3).pkg.minsvn < (powered 11 false 3).pkg.svn := by decide +kernel

/-! ## Heap records, messages and page-ins -/

/-- A machine whose PF0 is presented. -/
def presenting (s : State) : State := { s with pkg := { s.pkg with perst := false, clocks := true } }

/-- The machine of `objects` in service, its ASIDs all of them or one alone, with some requests. -/
def serving (hi : Nat) (l : List Request) : State :=
  (presenting objects).modPart 0 fun p => { p with state := 2, asidlo := 0, asidhi := BitVec.ofNat 14 hi, requests := l }

/-- The request of `queued` in a state, its table named by the handle value 2^48 + 2. -/
def held (state : Nat) (met : Bool) : Request :=
  { index := 3, deadline := 5, cost := 10, asid := 0, space := space, flag := none, table := strong space 2,
    tableh := 0x0001000000000002, order := 0, state := state, cancel := false, passes := 0, met := met }

/-- A record: OP, ASID, GAP, FLAGEN, index 3 and the table h2's value; the flag is in the same object at 8. -/
def record (op asid gap flagen : Nat) : BitVec 512 :=
  BitVec.ofNat 512 (3 * 2 ^ 96 + op * 2 ^ 112 + flagen * 2 ^ 120 + asid * 2 ^ 128 + gap * 2 ^ 144 + (2 ^ 48 + 2) * 2 ^ 256 +
    8 * 2 ^ 320 + (2 ^ 48 + 2) * 2 ^ 448)

theorem witness_HeapRecordsAndMessages :
    (State.reset.presented = false ∧ (presenting user).presented = true ∧ (serving 0 []).presented = true ∧
      (serving 0 [held 2 true]).presented = true ∧ (presenting pending).presented = true) ∧
    ((8 : Nat) ≠ 64 ∧ (8 : BitVec 12).toNat % 64 ≠ 0 ∧ (4032 : BitVec 12).toNat % 64 = 0 ∧
      ((presenting user).part (0 : BitVec 3).toNat).state ≠ 2) ∧
    (((serving 0 []).part (0 : BitVec 3).toNat).state = 2 ∧ 2 < (Record.ofBits (record 3 0 0 0)).op) ∧
    ((Record.ofBits (record 0 0 1 0)).op = 0 ∧
      ((serving 0 []).within 0).insertFault (Record.ofBits (record 0 0 1 0)) = some 2) ∧
    ((Record.ofBits (record 0 0 0 1)).op = 0 ∧
      ((serving 0 []).within 0).insertFault (Record.ofBits (record 0 0 0 0)) = none ∧
      ((serving 0 []).within 0).insertFault (Record.ofBits (record 0 0 0 1)) = none ∧
      ((serving 0 [held 2 true]).within 0).insertFault (Record.ofBits (record 0 0 0 0)) = some 4) ∧
    ((Record.ofBits (record 1 1 0 0)).op = 1 ∧ (Record.ofBits (record 2 1 0 0)).op = 2 ∧
      ((serving 0 []).within 0).controlFault (Record.ofBits (record 1 1 0 0)) = some 3) ∧
    (∀ n ∈ [1, 2, 3, 4], ((serving 0 [held n true]).within 0).controlFault (Record.ofBits (record 1 0 0 0)) = none ∧
      (((serving 0 [held n true]).within 0).request (Record.ofBits (record 1 0 0 0)).index) = some (held n true)) ∧
    ((Record.ofBits (record 0 0 0 0)).op ≠ 1 ∧ (Record.ofBits (record 0 0 0 0)).op ≠ 2) ∧
    (((serving 0 [held 1 true]).within (0 : BitVec 3).toNat).request 3 = some (held 1 true) ∧ (held 1 true).state = 1 ∧
      (held 1 true).met = true) ∧
    -- messages to context 0 of cluster 0, to no cluster, and to a free context
    (((presenting user).hart 0).life ≠ .free ∧ (presenting user).hidOf 0 = (0 : BitVec 128).extractLsb' 0 20 ∧
      ((presenting user).hart 0).intr.all (fun y => y.1 ≠ 1) = true) ∧
    ((presenting pending).hart 0).intr.any (fun y => y.1 = 1) = true ∧
    (¬((0x1F000000 : BitVec 128).extractLsb' 24 5).toNat < 24 ∧ ((presenting user).hart 5).life = .free) := by decide +kernel

/-- The machine with a page-in of expert 0, of two blocks, at the head of port 0: with nothing, or with its entry, its table
and blocks 1 and 2; the tier's table is open to Perigee. -/
def paging (alloc : Option (Nat × Nat × List Nat)) (retried : Bool) : State :=
  { objects with pkg := { objects.pkg with
      acl := Table.set Access.reset objects.pkg.acl (aclKey 16 0x110 0) State.allUnits,
      pageq := [(0, [{ part := 0, space := objects.h.space, expert := 0, alloc := alloc, retried := retried }])] } }

/-- The same as a page-in. -/
def pageIn (alloc : Option (Nat × Nat × List Nat)) (retried : Bool) : PageIn :=
  { part := 0, space := objects.h.space, expert := 0, alloc := alloc, retried := retried }

def landing : Option (Nat × Nat × List Nat) := some (6, 0x150000, [1, 2])

/-- A pool with fewer free blocks than LOW: the paged object of h4 has only a weak hold. -/
def reclaimed : State := (objects.putPhys 0x100108 8 (2 ^ 32)).putPhys 0x110010 8 (4 + 4 * 2 ^ 32)

theorem witness_PageInsAndReclaim :
    objects.headPageIn (0 : BitVec 3).toNat = none ∧
    ((paging none false).headPageIn (0 : BitVec 3).toNat = some (pageIn none false) ∧
      (paging none false).pageInReady (pageIn none false) = false ∧
      (Eng.perigee (paging none false) 0 (State.allocatePageIn (pageIn none false))).1.isSome = true) ∧
    (∀ r ∈ [false, true], (paging landing r).headPageIn (0 : BitVec 3).toNat = some (pageIn landing r) ∧
      (paging landing r).pageInReady (pageIn landing r) = true) ∧
    (Eng.perigee (paging landing false) 0 (State.landPageIn (pageIn landing false)
      ((paging landing false).tokenHarts 0 0 objects.h.space.asid).length 6 0x150000 2)).1.isSome = true ∧
    (objects.nextCandidate (0 : BitVec 3).toNat (0 : BitVec 6).toNat = none ∧
      reclaimed.nextCandidate (0 : BitVec 3).toNat (0 : BitVec 6).toNat = some (reclaimed.h.space, 4) ∧
      reclaimed.h.space.htSize ≤ 2 ^ 24) := by
  refine ⟨by decide +kernel, by decide +kernel, by decide +kernel, by decide +kernel, by decide +kernel⟩

/-! ## The host -/

/-- The package in service, its tables open to the first host function, with a decoder of tier port 0 at address 2^40. -/
def hosted : State :=
  let s := powered 11 false 4
  let acl := Table.set Access.reset [] (aclKey 0 0x300 0) State.allUnits
  { s with pkg := { s.pkg with acl := Table.set Access.reset acl (aclKey 16 0x300 0) State.allUnits,
                               hdm := [(0, (2 ^ 40, 2 ^ 30, 0))] },
           parts := [(0, { Part.reset with state := 1 })] }

/-- The same with an uncorrectable error in memory and in the tier. -/
def poisoned : State := { hosted with bad := [.phys 0x1000, .phys (2 ^ 55)] }

theorem witness_HostAccessesAndRegisters :
    -- memory: its first and last byte, allowed, denied, and with an error; outside it
    ((∃ x < 16, targetOf (0x1000 : BitVec 56).toNat = some x) ∧ (∃ x < 16, targetOf ((0x1000 : BitVec 56).toNat + 2 - 1) = some x) ∧
      hosted.hostAllowed (0 : BitVec 5).toNat 0x1000 2 Want.store = true ∧ hosted.hostAllowed 0 0x1000 2 Want.load = true ∧
      hosted.bad = [] ∧ hosted.badIn [(.phys 0x1000, 2)] = [] ∧ hosted.hostAllowed (1 : BitVec 5).toNat 0x1000 2 Want.store = false ∧
      poisoned.badIn [(.phys 0x1000, 2)] ≠ []) ∧
    (hosted.presented = true ∧ State.reset.presented = false) ∧
    (¬∃ x < 16, targetOf (0x80000000000000 : BitVec 56).toNat = some x) ∧
    -- the tier
    (hosted.hdmTarget ((0 : BitVec 5).toNat / 9) (0x10000000000 : BitVec 64).toNat = some (2 ^ 55) ∧
      hosted.hdmTarget ((0 : BitVec 5).toNat / 9) ((0x10000000000 : BitVec 64).toNat + 2 - 1) = some (2 ^ 55 + 2 - 1) ∧
      hosted.hostAllowed 0 (2 ^ 55) 2 Want.store = true ∧ hosted.hostAllowed 0 (2 ^ 55) 2 Want.load = true ∧
      hosted.hostAllowed 1 (2 ^ 55) 2 Want.load = false ∧ poisoned.badIn [(.phys (2 ^ 55), 2)] ≠ [] ∧
      hosted.hdmTarget ((9 : BitVec 5).toNat / 9) (0x10000000000 : BitVec 64).toNat = none) ∧
    -- access-table entries of a stack, a fabric port and a link, and what is none
    ((BitVec.ofNat 32 0x1000000).toNat = 0x1000000 + 0 * 0x20000 + 0 * 128 + 0 * 16 ∧
      (BitVec.ofNat 32 (0x1000000 + 24 * 0x20000)).toNat = 0x1000000 + 24 * 0x20000 + 0 * 128 + 0 * 16 ∧
      (BitVec.ofNat 32 (0x1000000 + 153 * 0x20000 + 0x311 * 128 + 7 * 16)).toNat =
        0x1000000 + 153 * 0x20000 + 0x311 * 128 + 7 * 16 ∧ assigned 0 = true ∧ assigned 0x311 = true) ∧
    ((0xFFFFF0 : BitVec 32).toNat < 0x1000000 ∧ 154 ≤ ((BitVec.ofNat 32 (0x1000000 + 154 * 0x20000)).toNat - 0x1000000) / 0x20000 ∧
      assigned 0xC0 = false ∧ (0x1000004 : BitVec 32).toNat % 8 ≠ 0) ∧
    -- registers
    ((0 : BitVec 5).toNat % 9 = 0 ∧ (9 : BitVec 5).toNat % 9 = 0 ∧ (1 : BitVec 5).toNat % 9 ≠ 0) ∧
    ((0x10000 : BitVec 32).toNat = 0x10000 + 0x1000 * 0 ∧ (0x17000 : BitVec 32).toNat = 0x10000 + 0x1000 * 7 ∧
      hosted.inService = true ∧ (hosted.part 0).state ≤ 1 ∧ (hosted.part 7).state ≤ 1) ∧
    (State.reset.inService = false ∧ 1 < ((serving 0 []).part 0).state ∧ 0x18000 ≤ (0x18000 : BitVec 32).toNat) := by
  refine ⟨⟨⟨0, by decide +kernel⟩, ⟨0, by decide +kernel⟩, by decide +kernel⟩, by decide +kernel, ?_, by decide +kernel, by decide +kernel,
    by decide +kernel, by decide +kernel, by decide +kernel, by decide +kernel⟩
  rintro ⟨x, hx, h⟩
  revert x
  decide +kernel

/-- The package in service with partition 0 in a STATE and its contexts as a hart leaves them. -/
def commanded (state : Nat) (h : Hart) : State := { hosted with h := h, parts := [(0, { Part.reset with state := state })] }

/-- The same with a command that goes on, and with every spare taken. -/
def commandBusy : State := { hosted with parts := [(0, { Part.reset with state := 2, quiescing := true })] }
def spent : State := { commanded 2 Hart.reset with clusters := [(0, { Cluster.reset with spares := 0, onSpare := true })] }

/-- The same with the bank of lane 3 of cluster 0 copied. -/
def copied : State := { commanded 2 Hart.reset with clusters := [(0, { Cluster.reset with copying := [(3, 0)] })] }

theorem hostBytes_modPart (s : State) (p : Nat) (f : Part → Part) (a n : Nat) :
    (s.modPart p f).hostBytes a n = s.hostBytes a n := rfl

theorem placing_keys : ((List.range 8).map fun i => placing.pkg.ownerkeys.get (zeroes 32) i).filter (· ≠ zeroes 32) =
    [Shake.shake256 imageKey 32] := by decide +kernel

/-- The object of the partition image. -/
def imageObj : Obj :=
  { sections := [({ kind := 0, va := 0, body := zeroes 4 }, 2)], symbols := [], relocs := [], handles := [], entrySect := 0,
    entryOff := 0, harts := 1 }

theorem image_parses : Obj.parse (image.drop 512) = some imageObj := by decide +kernel

theorem pick_lt (s : State) (n : Nat) (h : 0 < n) : (s.pick n).1 < n := by
  unfold State.pick; split
  · exact h
  · exact Nat.mod_lt _ h

theorem length_dedup (l : List Nat) : (dedup l).length ≤ l.length := by
  induction l with
  | nil => exact Nat.le_refl _
  | cons a l ih => unfold dedup; split <;> simp only [List.length_cons] <;> omega

/-- A section of four bytes needs at most two tables of a level. -/
theorem tablesAt_le (va level : Nat) (h : level ≤ 5) :
    (State.tablesAt [{ kind := 0, va := va, body := zeroes 4 }] level).length ≤ 2 := by
  refine Nat.le_trans (length_dedup _) ?_
  have h : 2 ^ 2 ≤ 2 ^ levelShift (level - 1) := Nat.pow_le_pow_right (by decide) (by unfold levelShift; split <;> omega)
  have h1 : (va + 3) / 2 ^ levelShift (level - 1) ≤ va / 2 ^ levelShift (level - 1) + 1 := by
    rw [← Nat.add_div_right _ (by omega)]
    exact Nat.div_le_div_right (by omega)
  have e : zeroes 4 ≠ [] := by decide
  simp only [List.filter_cons, List.filter_nil, List.flatMap_cons, List.flatMap_nil, List.append_nil, Nat.shiftRight_eq_div_pow,
    e, ne_eq, not_false_eq_true, decide_true, if_true, List.length_map, List.length_range]
  have e' : va + (zeroes 4).length - 1 = va + 3 := rfl
  rw [e']
  omega

theorem tablesFor_le (va : Nat) : (State.tablesFor [{ kind := 0, va := va, body := zeroes 4 }]).length ≤ 10 := by
  have e : List.range 5 = [0, 1, 2, 3, 4] := rfl
  simp only [State.tablesFor, e, List.flatMap_cons, List.flatMap_nil, List.length_append, List.length_map, List.length_nil]
  have := tablesAt_le va (0 + 1) (by decide)
  have := tablesAt_le va (1 + 1) (by decide)
  have := tablesAt_le va (2 + 1) (by decide)
  have := tablesAt_le va (3 + 1) (by decide)
  have := tablesAt_le va (4 + 1) (by decide)
  omega

theorem room_fits {va hlog elog : Nat} (h3 : hlog < 25) (h4 : elog < 17) (s : State) (p : Nat) (hp : s.stacksOf p ≠ []) :
    let r := State.roomOf [{ kind := 0, va := va, body := zeroes 4 }] (0 + hlog) elog
    ¬((s.stacksOf p).length * State.stackFrames < r.size ∨ State.stackFrames < r.head) := by
  have p1 : 2 ^ (0 + hlog + 6) ≤ 2 ^ 30 := Nat.pow_le_pow_right (by decide) (by omega)
  have p2 : 2 ^ (elog + 5) ≤ 2 ^ 21 := Nat.pow_le_pow_right (by decide) (by omega)
  have p3 := tablesFor_le va
  have p4 : 1 ≤ (s.stacksOf p).length := List.length_pos_iff.mpr hp
  have p5 : 1 * 786432 ≤ (s.stacksOf p).length * 786432 := Nat.mul_le_mul_right _ p4
  simp only [State.Room.size, State.Room.head, State.Room.handles, State.Room.experts, State.stackFrames, State.roomOf, roundUp,
    zeroes, List.map_cons, List.map_nil, List.sum_cons, List.sum_nil, List.length_replicate]
  simp only [zeroes] at p3
  generalize 2 ^ (0 + hlog + 6) = x at p1
  generalize 2 ^ (elog + 5) = y at p2
  generalize (s.stacksOf p).length = z at p5
  omega

theorem draws_lt (s : State) : (s.draws imageObj.sections.length 16).1.headD 0 < 16 := pick_lt s 16 (by decide)

theorem stacksOf_pick (s : State) (n p : Nat) : (s.pick n).2.stacksOf p = s.stacksOf p := by
  unfold State.pick; split <;> rfl

theorem stacksOf_draws (s : State) (p : Nat) : (s.draws imageObj.sections.length 16).2.stacksOf p = s.stacksOf p :=
  stacksOf_pick s 16 p

theorem image_at (a : Nat) (gaps : List Nat) : placeSections a imageObj.sections gaps =
    [{ kind := 0, va := roundUp (a + 65536 * gaps.headD 0) 65536, body := zeroes 4 }] := rfl
theorem image_placed (a : Nat) (gaps : List Nat) (h : a < 2 ^ 29) (h' : gaps.headD 0 < 16) :
    (placeSections a imageObj.sections gaps).all Section.fits = true ∧ ∃ va,
    relocateAll imageObj.symbols imageObj.relocs (placeSections a imageObj.sections gaps) =
      some [{ kind := 0, va := va, body := zeroes 4 }] := by
  rw [image_at]
  refine ⟨?_, _, rfl⟩
  have h1 : roundUp (a + 65536 * gaps.headD 0) 65536 + 4 ≤ 2 ^ 64 := by
    generalize gaps.headD 0 = g at h'
    unfold roundUp
    omega
  simpa only [Section.fits, List.all_cons, List.all_nil, Bool.and_true, if_true, decide_eq_true_eq, zeroes,
    List.length_replicate] using h1

/-- The loader finds room for an object like it wherever its choices put it. -/
theorem places_some (s : State) (p : Nat) (o : Obj) (hp : s.stacksOf p ≠ []) (hl : State.leastLog o.handles.length = 0)
    (hd : ∀ s : State, (s.draws o.sections.length 16).1.headD 0 < 16 ∧ (s.draws o.sections.length 16).2.stacksOf p = s.stacksOf p)
    (hr : ∀ (a : Nat) (gaps : List Nat), a < 2 ^ 29 → gaps.headD 0 < 16 →
      (placeSections a o.sections gaps).all Section.fits = true ∧ ∃ va,
      relocateAll o.symbols o.relocs (placeSections a o.sections gaps) = some [{ kind := 0, va := va, body := zeroes 4 }]) :
    (s.placeImage p o).1.isSome = true := by
  unfold State.placeImage
  rw [hl]
  split
  rename_i first s1 h1
  split
  rename_i gaps s2 h2
  have p1 : first < 4096 := by have := pick_lt s 4096 (by decide); rwa [h1] at this
  have q1 : s1.stacksOf p = s.stacksOf p := by have := stacksOf_pick s 4096 p; rwa [h1] at this
  have p2 : gaps.headD 0 < 16 := by have := (hd s1).1; rwa [h2] at this
  have q2 : s2.stacksOf p = s1.stacksOf p := by have := (hd s1).2; rwa [h2] at this
  obtain ⟨hf, va, h⟩ := hr (65536 * (first + 1)) gaps (by omega) p2
  dsimp only
  rw [if_pos hf, h]
  dsimp only
  have p3 := pick_lt s2 (25 - 0) (by decide)
  have p4 := pick_lt (s2.pick (25 - 0)).2 17 (by decide)
  unfold State.settleRoom
  rw [if_neg (room_fits p3 p4 _ p (by rw [stacksOf_pick, stacksOf_pick, q2, q1]; exact hp))]
  split
  rfl

theorem starts_of (s : State) (p : Nat) (o : Obj) (h : (s.placeImage p o).1.isSome = true)
    (hf : (o.refused || decide (s.roomFor p o.harts = []) || decide (s.stacksOf p = []) ||
      decide (24 < State.leastLog o.handles.length)) = false) : ∃ u, s.startImage p o = some u := by
  unfold State.startImage
  rw [hf]
  cases e : s.placeImage p o with | mk x t => ?_
  rw [e] at h
  cases x with
  | none => cases h
  | some x => exact ⟨_, rfl⟩

theorem placing_starts : ∃ o u, Obj.parse (image.drop 512) = some o ∧
    (placing.modPart 0 fun x => { x with cmd := 4 }).startImage 0 o = some u := by
  obtain ⟨u, h⟩ := starts_of (placing.modPart 0 fun x => { x with cmd := 4 }) 0 imageObj
    (places_some _ _ _ (by decide +kernel) (by decide)
      (fun s => ⟨draws_lt s, stacksOf_draws s 0⟩) image_placed) (by decide +kernel)
  exact ⟨_, u, image_parses, h⟩

theorem witness_PartitionCommands :
    (State.reset.inService = false ∧ hosted.inService = true) ∧
    ((commanded 1 Hart.reset).part (0 : BitVec 3).toNat).state ∉ [2] ∧
    (((commandBusy.part 0).state = 2) ∧ commandBusy.busy 0 = true) ∧
    (∀ n ∈ [0, 1, 2, 3], (commanded n Hart.reset).inService = true ∧ (commanded n Hart.reset).busy 0 = false ∧
      ((commanded n Hart.reset).part 0).state = n) ∧
    ((commanded 2 Hart.reset).toSave 0 = [] ∧ (commanded 2 hartU).toSave 0 ≠ []) ∧
    (commanded 0 Hart.reset).coreUp 0 = true ∧
    (let v := (commanded 1 Hart.reset).modPart 0 fun x => { x with cmd := 4 }
     let w : State := { v with pkg := { v.pkg with imgaddr := BitVec.ofNat 64 (2 ^ 53), imgsize := 612 } }
     w.hostBytes w.pkg.imgaddr.toNat w.pkg.imgsize.toNat = none ∧
     v.hostBytes v.pkg.imgaddr.toNat v.pkg.imgsize.toNat = some [] ∧ ∀ keys, (imageFault 1 keys 0 []).isSome = true) ∧
    (placing.inService = true ∧ placing.busy 0 = false ∧ (placing.part 0).state = 1) ∧
    (let v := placing.modPart 0 fun x => { x with cmd := 4 }
     v.hostBytes placing.pkg.imgaddr.toNat placing.pkg.imgsize.toNat = some image ∧
     imageFault 1 (((List.range 8).map fun i => placing.pkg.ownerkeys.get (zeroes 32) i).filter (· ≠ zeroes 32)) 0 image = none ∧
     ∃ o u, Obj.parse (image.drop 512) = some o ∧ v.startImage 0 o = some u) ∧
    ((23 : BitVec 5).toNat < 24 ∧ ((commanded 2 Hart.reset).clu 23).spares ≠ 0 ∧ (spent.clu 0).spares = 0 ∧
      (∃ c < 24, (spent.clu (24 * 0 + c)).onSpare = true) ∧ ∀ c < 24, ((commanded 3 Hart.reset).clu (24 * 0 + c)).onSpare = false) ∧
    -- a lane repair whose copy has ended
    (copied.copying 0 ≠ [] ∧ ∀ c ∈ copied.copying 0, ∀ x ∈ (copied.clu c).copying, x.2 ≤ copied.cycles) :=
  ⟨by decide +kernel, by decide +kernel, by decide +kernel, by decide +kernel, by decide +kernel, by decide +kernel,
    ⟨by decide +kernel, by decide +kernel, fun keys => by
      have h : headerOk 1 [] = false := by decide +kernel
      simp [imageFault, h]⟩,
    by decide +kernel,
    ⟨by rw [hostBytes_modPart]; exact placing_reads, by rw [placing_keys]; exact image_passes, placing_starts⟩,
    by decide +kernel, by decide +kernel⟩

/-- The machine of `linked` whose tables let peer slot 0 at the first stack; and with a read of its own in flight. -/
def opened : State :=
  { linked with pkg := { linked.pkg with acl := Table.set Access.reset linked.pkg.acl (aclKey 0 512 0) State.allUnits } }
def reading : State :=
  { opened with h := { opened.h with xfers := [{ flight with tag := 7, push := false, peer := 32, payload := [],
                                                             dest := [(.scratch 0 0x40, 64)] }] } }

theorem opened_slot : (opened.slotOfPeer 0 32).map (·.1) = some 0 ∧ (opened.peer 0 32).epoch = some 0 ∧
    ((opened.port 0).up && (opened.part 0).state != 0 && (opened.port 0).lastIn == 0) = true := by decide +kernel

theorem reading_slot : (reading.slotOfPeer 0 32).map (·.1) = some 0 ∧ (reading.peer 0 32).epoch = some 0 ∧
    ((reading.port 0).up && (reading.part 0).state != 0 && (reading.port 0).lastIn == 0) = true := by decide +kernel

/-- A flit arrives from slot 0. -/
theorem arrives_at {s : State} {t : FlitType} {payload : List Byte} (hp : payload.length ≤ 224)
    (h : (s.slotOfPeer 0 32).map (·.1) = some 0 ∧ (s.peer 0 32).epoch = some 0 ∧
      ((s.port 0).up && (s.part 0).state != 0 && (s.port 0).lastIn == 0) = true) :
    ∃ ps, Arrives s 0 (flit t payload).bits2048 t (flit t payload) 0 ps := by
  obtain ⟨h1, h2, h3⟩ := h
  obtain ⟨x, h1, hx⟩ := Option.map_eq_some_iff.mp h1
  obtain ⟨i, ps⟩ := x
  obtain rfl : i = 0 := hx
  simp only [Bool.and_eq_true] at h3
  obtain ⟨i, ps', a⟩ := arrives_ex s 0 t payload hp rfl (by rw [h3.1.1, h3.1.2, h3.2, h1]; simp [h2])
  have e := a.slot.symm.trans h1
  obtain ⟨rfl, rfl⟩ : i = 0 ∧ ps' = ps := by simpa using e
  exact ⟨ps', a⟩

/-- The machine once a numbered flit has arrived. -/
def received (s : State) (f : Flit) : State :=
  ((s.acked 0 f.ack).modPort 0 fun x => { x with lastIn := f.seq }).answer 0 0 .ack f.src

theorem received_ex {s : State} {t : FlitType} {payload : List Byte} (ht : t ≠ .ack ∧ t ≠ .nak) (hp : payload.length ≤ 224)
    (h : (s.slotOfPeer 0 32).map (·.1) = some 0 ∧ (s.peer 0 32).epoch = some 0 ∧
      ((s.port 0).up && (s.part 0).state != 0 && (s.port 0).lastIn == 0) = true) :
    ∃ ps, Arrives s 0 (flit t payload).bits2048 t (flit t payload) 0 ps ∧
      s.receive 0 (flit t payload).bits2048 t = (some (flit t payload, 0, ps), received s (flit t payload)) := by
  obtain ⟨ps, a⟩ := arrives_at (t := t) hp h
  refine ⟨ps, a, ?_⟩
  rw [receive_of_arrives a, if_pos ht, received]

/-- A remote access's bytes are found, as many as are asked, no two of them one. -/
def reaches (x : Except Nat (List Piece) × State) (n : Nat) : Bool := match x with
  | (.ok l, w) => w.bad.isEmpty && decide (bytesOf l).Nodup && (bytesOf l).length == n
  | _ => false

theorem reaches_ex {x : Except Nat (List Piece) × State} {n : Nat} (h : reaches x n = true) :
    ∃ l w, x = (.ok l, w) ∧ w.bad = [] ∧ (bytesOf l).Nodup ∧ (bytesOf l).length = n := by
  obtain ⟨g, u⟩ := x
  cases g with
  | ok l =>
    simp only [reaches, Bool.and_eq_true, List.isEmpty_iff, decide_eq_true_eq, beq_iff_eq] at h
    exact ⟨l, u, rfl, h.1.1, h.1.2, h.2⟩
  | error e => simp [reaches] at h

/-- A push of five bytes to h2's object, of which bytes 1 to 4 have come and wait for byte 0. -/
def halved : State :=
  let r : Receive :=
    { src := 32, tag := 7, done := [(1, 4)], refused := false, complete := false, held := [(1, 1), (2, 2), (3, 3), (4, 4)],
      flag := none }
  opened.modPart 0 fun p => { p with receives := [r] }

theorem halved_slot : (halved.slotOfPeer 0 32).map (·.1) = some 0 ∧ (halved.peer 0 32).epoch = some 0 ∧
    ((halved.port 0).up && (halved.part 0).state != 0 && (halved.port 0).lastIn == 0) = true := by decide +kernel

theorem witness_TransfersArrive :
    -- a data flit of one byte of a push of one byte to h2's object, and of the first of five
    (∀ y ∈ [(opened, 1), (halved, 5)],
      (∃ ps, Arrives y.1 (0 : BitVec 7).toNat (flit .data [4]).bits2048 .data (flit .data [4]) 0 ps ∧
        y.1.receive (0 : BitVec 7).toNat (flit .data [4]).bits2048 .data =
          (some (flit .data [4], 0, ps), received y.1 (flit .data [4]))) ∧
      let v := (received y.1 (flit .data [4])).within 0
      let place : Side := { slot := 0, stream := none, off := BitVec.toInt (0 : BitVec 64) }
      let r := v.receipt 0 32 7
      let pool := r.held ++ State.numbered (flit .data [4]).k [4]
      (r.refused = false ∧ r.flag = none ∧ (r.done.any fun x => x.1 = (flit .data [4]).k) = false ∧
        (flit .data [4]).k + [(4 : Byte)].length ≤ y.2 ∧ 1 + (r.done.map (·.2)).sum = y.2 ∧ (r.held = [] ↔ y.2 = 1)) ∧
      ∃ l w, v.remoteRuns 0 0 0x0001000000000002 .copyTo Want.store (fun x e =>
          let all := place.elems (pool.foldl (fun a y => max a (y.1 + 1)) 0) x e
          pool.filterMap fun y => all[y.1]?) = (.ok l, w) ∧
        w.bad = [] ∧ (bytesOf l).Nodup ∧ (bytesOf l).length = y.2) ∧
    -- a data flit that answers a read
    (∃ ps, Arrives reading 0 (flit .data (List.replicate 8 4)).bits2048 .data (flit .data (List.replicate 8 4)) 0 ps ∧
      reading.receive 0 (flit .data (List.replicate 8 4)).bits2048 .data =
        (some (flit .data (List.replicate 8 4), 0, ps), received reading (flit .data (List.replicate 8 4)))) ∧
    (reading.bad = [] ∧ reading.partNo = 0 ∧ reading.h.life = .active ∧ ∃ x, reading.h.xfers = [x] ∧ x.push = false ∧
      x.stale = false ∧ x.tag = 7 ∧ x.peer = 32 ∧ x.got = [] ∧ x.refused = none ∧ x.relay = none ∧ x.held = [] ∧
      x.start ≤ (flit .data (List.replicate 8 4)).k ∧
      ((bytesOf x.dest).all fun y => match y with | .reg .. => false | _ => true) = true) ∧
    -- a flag flit
    ((∃ ps, Arrives opened 0 (flit .flag []).bits2048 .flag (flit .flag []) 0 ps ∧
        opened.receive 0 (flit .flag []).bits2048 .flag = (some (flit .flag [], 0, ps), received opened (flit .flag []))) ∧
      let v := (received opened (flit .flag [])).within 0
      let r := v.receipt 0 32 7
      r.refused = false ∧ r.complete = false ∧ (r.done.map (·.2)).sum = (flit .flag []).k ∧
      ∃ l w, v.remoteRuns 0 0 0x0001000000000002 .atomic Want.atomic_
        (fun _ _ => [{ idx := 0, off := (8 : BitVec 64).toNat, len := 8 }]) = (.ok l, w) ∧ w.bad = [] ∧ (bytesOf l).Nodup ∧
        (bytesOf l).length = 8) :=
  ⟨by
      intro y hy
      obtain rfl | rfl : y = (opened, 1) ∨ y = (halved, 5) := by simpa using hy
      · exact ⟨received_ex (by decide) (by decide) opened_slot, by decide +kernel, reaches_ex (by decide +kernel)⟩
      · exact ⟨received_ex (by decide) (by decide) halved_slot, by decide +kernel, reaches_ex (by decide +kernel)⟩,
    received_ex (by decide) (by decide) reading_slot,
    ⟨by decide +kernel, by decide +kernel, by decide +kernel, _, rfl, rfl, rfl, rfl, rfl, rfl, rfl, rfl, rfl, by decide +kernel, by decide +kernel⟩,
    ⟨received_ex (by decide) (by decide) opened_slot, by decide +kernel, by decide +kernel, by decide +kernel,
      reaches_ex (by decide +kernel)⟩⟩

/-! ## Decoding, the step and the invariant -/

theorem witness_DecodeEncode : Instr.wf (.add true 1 1 2) = true := by decide

theorem witness_EncodeDecode : decodeBytes (wordBytes 0x02182100) = .ok (.add false 3 1 2) := by decide

/-- A hart about to run a word, and one with an interrupt pending, which it must take first. -/
def atWord (w : Nat) : State := user.withFetchWord 32 w
def interrupted : State := { user with h := { hartU with intr := [(1, 9)], stvec := 0 } }

theorem after_ex {o : Out} (h : after o (fun _ => true) = true) : ∃ t, o = .next t := by
  cases o with
  | next t => exact ⟨t, rfl⟩
  | fault f => cases h
  | refused r => cases h

/-- What a fetch finds, by evaluation. -/
theorem fetch_ex {s : State} {x : State.Fetched} (h : (s.fetch.1 == x) = true) : ∃ u, s.fetch = (x, u) :=
  ⟨s.fetch.2, Prod.ext (by simpa using h) rfl⟩

/-- The bytes at the pc are found, readable, and decode or not. -/
def finds4 (s : State) (good : Bool) : Bool :=
  match s.xlateRun s.h.space s.user .either Want.fetch 5 s.h.pc.toNat 4 with
  | (.ok l, u) => (u.badIn l).isEmpty &&
    (match decodeBytes (wordBytes (BitVec.ofNat 32 (leNat (u.raw l)))) with | .ok _ => good | .err _ => !good)
  | _ => false

theorem finds4_ex {s good} (h : finds4 s good = true) : ∃ l u, s.xlateRun s.h.space s.user .either Want.fetch 5 s.h.pc.toNat 4 = (.ok l, u) ∧
    u.badIn l = [] := by
  unfold finds4 at h
  split at h
  · rename_i l u e
    simp only [Bool.and_eq_true, List.isEmpty_iff] at h
    exact ⟨l, u, e, h.1⟩
  · cases h

/-- That the pc's bytes are not found. -/
def lost (s : State) : Bool :=
  match s.xlateRun s.h.space s.user .either Want.fetch 5 s.h.pc.toNat 4 with | (.error _, _) => true | _ => false

theorem lost_ex {s} (h : lost s = true) : ∃ x u, s.xlateRun s.h.space s.user .either Want.fetch 5 s.h.pc.toNat 4 = (.error x, u) := by
  unfold lost at h
  split at h
  · rename_i x u e
    exact ⟨x, u, e⟩
  · cases h

theorem turn_issue {s : State} (h1 : s.forced = none) (h2 : s.due = []) (h3 : s.canIssue = true) : s.turn = (.issue, (s.pick 1).2) := by
  have e : (s.pick 1).2.canIssue = s.canIssue := by rw [show (s.pick 1).2 = s from rfl]
  simp only [State.turn, h1, h2, h3, List.length_nil, Nat.zero_add, if_true, List.getElem?_nil, e]

/-- A state in which nothing of any hart is on its way, and what it finds at its pc. -/
def quietly (s : State) (i : Instr) : Bool :=
  s.fetch.1 == .instr i && (let v := s.fetch.2
    v.h.queue.isEmpty && v.regErrors.isEmpty && v.h.stores.isEmpty && v.harts.isEmpty && !v.mustWait (encode i) &&
      after (exec i v) (fun _ => true))

theorem quietly_ex {s : State} {i} (h : quietly s i = true) : ∃ v t, s.fetch = (.instr i, v) ∧ v.h.queue = [] ∧
    v.regErrors = [] ∧ (∀ k, (v.hart k).stores = []) ∧ v.mustWait (encode i) = false ∧ exec i v = .next t := by
  simp only [quietly, Bool.and_eq_true, beq_iff_eq, List.isEmpty_iff, Bool.not_eq_true'] at h
  obtain ⟨h0, ⟨⟨⟨⟨h1, h2⟩, h3⟩, h4⟩, h5⟩, h6⟩ := h
  obtain ⟨t, h6⟩ := after_ex h6
  refine ⟨s.fetch.2, t, Prod.ext h0 rfl, h1, h2, fun k => ?_, h5, h6⟩
  unfold State.hart
  split
  · exact h3
  · rw [h4]; rfl

theorem witness_StepRunsDecoded :
    ((atWord 0x02182100).inbox = [] ∧ (atWord 0x02182100).forced = none ∧ (atWord 0x02182100).due = [] ∧
      (atWord 0x02182100).canIssue = true ∧
      ∃ u t, (atWord 0x02182100).fetch = (.instr (.add false 3 1 2), u) ∧ exec (.add false 3 1 2) u = .next t) ∧
    (user.inbox = [] ∧ user.forced = none ∧ user.due = [] ∧ user.canIssue = true ∧
      ∃ u t, user.fetch = (.trap { code := 4, val := 0x1000, vec := false, estart := 0 }, u) ∧
        u.raise { code := 4, val := 0x1000, vec := false, estart := 0 } = .next t) ∧
    (∀ w ∈ [0x02182100, 0], ∃ l u, (atWord w).xlateRun (atWord w).h.space (atWord w).user .either Want.fetch 5
      (atWord w).h.pc.toNat 4 = (.ok l, u) ∧ u.badIn l = []) ∧
    (∃ x u, user.xlateRun user.h.space user.user .either Want.fetch 5 user.h.pc.toNat 4 = (.error x, u)) ∧
    (interrupted.inbox = [] ∧ interrupted.forced = some (.interrupt 0) ∧ ∃ t, (Event.interrupt 0).run interrupted = .next t) ∧
    -- a turn to issue, with nothing on its way
    ((atWord 0x02182100).inbox = [] ∧ ∃ u v t, (atWord 0x02182100).turn = (.issue, u) ∧ u.fetch = (.instr (.add false 3 1 2), v) ∧
      v.h.queue = [] ∧ v.regErrors = [] ∧ (∀ k, (v.hart k).stores = []) ∧ v.mustWait (encode (.add false 3 1 2)) = false ∧
      exec (.add false 3 1 2) v = .next t) ∧
    -- whether the input is taken now is a free choice
    (let s : State := { user with inbox := [.llcScrub 0] }
     s.inbox = [.llcScrub 0] ∧ State.takes { (s.pick 2).2 with inbox := [] } (.llcScrub 0) = true ∧
      (∃ t, exec (.llcScrub 0) { (s.pick 2).2 with inbox := [] } = .next t) ∧ (Config.choice 0 % 2 = 0 → (s.pick 2).1 = 0)) := by
  refine ⟨⟨by decide +kernel, by decide +kernel, by decide +kernel, by decide +kernel, ?_⟩,
    ⟨by decide +kernel, by decide +kernel, by decide +kernel, by decide +kernel, ?_⟩, ?_, lost_ex (by decide +kernel),
    ⟨by decide +kernel, by decide +kernel, ⟨_, rfl⟩⟩, ⟨by decide +kernel, ?_⟩, ⟨rfl, rfl, ⟨_, rfl⟩, fun h => h⟩⟩
  · obtain ⟨u, e⟩ := fetch_ex (s := atWord 0x02182100) (x := .instr (.add false 3 1 2)) (by decide +kernel)
    have h : after (exec (.add false 3 1 2) (atWord 0x02182100).fetch.2) (fun _ => true) = true := by decide +kernel
    obtain ⟨t, h⟩ := after_ex h
    rw [e] at h
    exact ⟨u, t, e, h⟩
  · obtain ⟨u, e⟩ := fetch_ex (s := user) (x := .trap { code := 4, val := 0x1000, vec := false, estart := 0 }) (by decide +kernel)
    have h : after (user.fetch.2.raise { code := 4, val := 0x1000, vec := false, estart := 0 }) (fun _ => true) = true := by
      decide +kernel
    obtain ⟨t, h⟩ := after_ex h
    rw [e] at h
    exact ⟨u, t, e, h⟩
  · intro w hw
    have h : ∀ w ∈ [0x02182100, 0], finds4 (atWord w) (w != 0) = true := by decide +kernel
    exact finds4_ex (h w hw)
  · obtain ⟨v, t, h⟩ := quietly_ex (s := ((atWord 0x02182100).pick 1).2) (i := .add false 3 1 2) (by decide +kernel)
    exact ⟨_, v, t, turn_issue (by decide +kernel) (by decide +kernel) (by decide +kernel), h⟩

/-- A partition at reset is sound. -/
theorem part_sound : Part.reset.Sound := ⟨by decide, by decide, by decide, by decide, by decide⟩

theorem word_sound : (atWord 0x02182100).Sound := by
  refine ⟨by decide +kernel, fun c => ⟨?_, ?_⟩, fun p => ?_, by decide +kernel⟩
  · have h : (atWord 0x02182100).clusters = [] := by decide +kernel
    simp only [State.clu, h]; exact rfl
  · have h : (atWord 0x02182100).clusters = [] := by decide +kernel
    simp only [State.clu, h]; exact Nat.le_refl 2
  · have h : (atWord 0x02182100).parts = [] := by decide +kernel
    simp only [State.part, h]; exact part_sound

theorem witness_StepKeepsSound : (atWord 0x02182100).Sound ∧ ∃ t, step (atWord 0x02182100) = .next t :=
  ⟨word_sound, after_ex (by decide +kernel)⟩

end Sys2Proof.Tests
end

section
/-!
PROOFS. Shared lemmas: a check that refuses an instruction, what a change of the current registers or of a cluster
leaves. Then grants: the lanes a hart takes, and VSETVL and VSETVLG (R16, R27, R29, R296).
-/

namespace Sys2Proof.Machine

/-- An instruction whose checks find a sub-cause (R138) raises it. -/
theorem illegalAt_of {i : Instr} {c : Bool} {s : State} {n : Nat}
    (he : s.runnable = true → exec i s = (s.noteCv c).illegal n (encode i)) : IllegalAt i c s n := by
  intro hr hx
  have hx' : (s.noteCv c).h.xfers = [] := by rw [State.noteCv_h_xfers, hx]
  refine ⟨fun hf => ?_, fun f hf => ?_⟩
  · rw [he hr, State.illegal, raise_at hx' (by rw [State.noteCv_h_front, hf]) rfl, State.noteCv_h_pc]
    rfl
  · have hu : ∀ h : Hart, h.front = some f → h.unqueued (illTrap n (encode i)) =
        { h.withModes f.modes with queue := f.self :: f.rest, pc := f.pc, front := none } := by
      intro h hh
      simp [Hart.unqueued, hh, illTrap]
    have hf' : (s.noteCv c).h.front = some f := by rw [State.noteCv_h_front, hf]
    rw [he hr, State.illegal, raise_of hx', hu _ hf']
    simp only [State.mod, hu _ hf']
    rfl

/-- What the checks of an instruction find first is what it raises. -/
theorem legal_head {s : State} {word : BitVec 32} {b : Bool} (hb : b = true) {n : Nat} {l : List (Bool × Nat)}
    {f : Unit → Out} : s.legal word ((b, n) :: l) f = s.illegal n word := by
  subst hb; exact legal_first (l := []) (by simp)

/-- A field that a change of the current registers leaves reads alike in every context. -/
theorem State.hart_mod {α : Type} (p : Hart → α) {s : State} {f : Hart → Hart} (hp : p (f s.h) = p s.h) (k : Nat) :
    p ((s.mod f).hart k) = p (s.hart k) := by
  unfold State.hart
  rw [State.mod_cur]
  split
  · exact hp
  · rfl

/-- Bytes read alike where memory is the same and each cluster's scratchpad is. -/
theorem State.byteAt_of_scratch {s t : State} (hm : t.mem = s.mem) (hc : ∀ k, (t.clu k).scratch = (s.clu k).scratch)
    (l : Loc) : t.byteAt l = s.byteAt l := by
  cases l <;> simp [State.byteAt, hm, hc]

/-- A field of a cluster that a change of clusters leaves. -/
theorem State.clu_modClu_field {α : Type} (p : Cluster → α) {s : State} {k : Nat} {f : Cluster → Cluster}
    (hp : p (f (s.clu k)) = p (s.clu k)) (n : Nat) : p ((s.modClu k f).clu n) = p (s.clu n) := by
  rw [State.clu_modClu]
  split
  · next h => rw [hp, h]
  · rfl

/-! ## Lanes and grants -/

/-- Two sets of registers alike in what the lanes of a grant are chosen by (R296, R27). -/
structure Hart.SameGrant (h h' : Hart) : Prop where
  life : h'.life = h.life
  slot : h'.slot = h.slot
  gang : h'.gang = h.gang
  lg : h'.lg = h.lg
  granted : h'.granted = h.granted

/-- The lanes of the next grant do not rest on the hart's other registers. -/
theorem State.grantLanes_mod {s : State} {f : Hart → Hart} (hf : s.h.SameGrant (f s.h)) :
    (s.mod f).grantLanes = s.grantLanes := by
  have hlive : (s.mod f).liveCtxs = s.liveCtxs := by
    unfold State.liveCtxs
    rw [State.mod_h, hf.life]
    rfl
  have hopen : ∀ k, (s.mod f).lanesOpen k = s.lanesOpen k := fun k => by
    unfold State.lanesOpen
    rw [State.hart_mod Hart.slot hf.slot]
    rfl
  have hheld : ∀ p k, (s.mod f).heldGroups p k = s.heldGroups p k := fun p k => by
    unfold State.heldGroups
    rw [hlive]
    simp only [State.hart_mod Hart.life hf.life, State.hart_mod Hart.granted hf.granted, State.hart_mod Hart.lg hf.lg]
  have hfor : ∀ k, (s.mod f).lanesFor k = s.lanesFor k := fun k => by
    simp only [State.lanesFor, hopen, hheld]
    rfl
  unfold State.grantLanes
  rw [State.mod_cur, State.mod_h, hfor, hopen, hf.gang, hf.lg, hf.granted]
  rfl

@[simp] theorem State.grantLanes_noteCv (s : State) (c : Bool) : (s.noteCv c).grantLanes = s.grantLanes := by
  rw [State.noteCv_eq]
  exact State.grantLanes_mod ⟨rfl, rfl, rfl, rfl, rfl⟩

/-- The registers of the hart that takes lanes. -/
theorem State.takeLanes_h (s : State) (lg : Nat) : (s.takeLanes lg).h =
    { s.h with lg := lg, granted := true, groups := (s.openGroups s.clNo s.h.slot).take (lg / 4) } := rfl

@[simp] theorem State.takeLanes_harts (s : State) (lg : Nat) : (s.takeLanes lg).harts = s.harts := rfl

/-- Taking lanes powers lane groups of the cluster (R297), and leaves its gangs. -/
theorem State.takeLanes_gangs (s : State) (lg k : Nat) : ((s.takeLanes lg).clu k).gangs = (s.clu k).gangs := by
  unfold State.takeLanes
  exact State.clu_modClu_field (s := s.holdLanes lg) Cluster.gangs rfl k

theorem State.takeLanes_scratch (s : State) (lg k : Nat) : ((s.takeLanes lg).clu k).scratch = (s.clu k).scratch := by
  unfold State.takeLanes
  exact State.clu_modClu_field (s := s.holdLanes lg) Cluster.scratch rfl k

theorem State.byteAt_takeLanes (s : State) (lg : Nat) (l : Loc) : (s.takeLanes lg).byteAt l = s.byteAt l :=
  State.byteAt_of_scratch (s := s) (t := s.takeLanes lg) rfl (s.takeLanes_scratch lg) l

/-- The grant of R29 is what the requests and the capacity allow. -/
theorem isGrant_grantOf (e rows cols : Nat) : IsGrant e rows cols (grantOf e rows cols).1 (grantOf e rows cols).2 := by
  unfold IsGrant grantOf
  split <;> exact ⟨rfl, rfl⟩

/-- A later grant of a phase (R27) is that of R29 bounded by the fixed rows and columns. -/
theorem isLaterGrant_laterGrant (e grow gcol rows cols : Nat) : IsLaterGrant e grow gcol rows cols
    (laterGrant e grow gcol rows cols).1 (laterGrant e grow gcol rows cols).2 :=
  ⟨_, _, isGrant_grantOf e rows cols, rfl, rfl⟩

/-- A grant given, the convoy ended and the hart gone on: how VSETVL and VSETVLG complete (R16, R29). -/
def State.awarded (s : State) (d : BitVec 6) (lg : Nat) (g : Nat × Nat) : State :=
  ((s.takeLanes lg).giveGrant d g).endConvoy.adv

/-- The scalars with a grant written to s(d) and the next register (R29). -/
def grantScalars (d : BitVec 6) (g : Nat × Nat) (t : Table Word) : Table Word :=
  let t := if d = 0 then t else t.set 0 d.toNat (BitVec.ofNat 64 g.1)
  if d + 1 = 0 then t else t.set 0 (d + 1).toNat (BitVec.ofNat 64 g.2)

/-- The registers of the hart that has been awarded a grant. -/
theorem State.awarded_h (s : State) (d : BitVec 6) (lg : Nat) (g : Nat × Nat) : (s.awarded d lg g).h =
    { s.h with s := grantScalars d g s.h.s, vlr := g.1, vlc := g.2, lg := lg, granted := true,
               groups := (s.openGroups s.clNo s.h.slot).take (lg / 4), convoy := [], pc := s.h.pc + 4 } := by
  simp only [State.awarded, State.giveGrant, State.wr_eq, State.adv, State.jump, State.endConvoy, State.mod_h,
    State.takeLanes_h, grantScalars]

@[simp] theorem State.awarded_harts (s : State) (d : BitVec 6) (lg : Nat) (g : Nat × Nat) :
    (s.awarded d lg g).harts = s.harts := by simp [State.awarded, State.giveGrant]

@[simp] theorem State.awarded_vlr (s : State) (d : BitVec 6) (lg : Nat) (g : Nat × Nat) :
    (s.awarded d lg g).h.vlr = g.1 := by rw [State.awarded_h]

@[simp] theorem State.awarded_vlc (s : State) (d : BitVec 6) (lg : Nat) (g : Nat × Nat) :
    (s.awarded d lg g).h.vlc = g.2 := by rw [State.awarded_h]

theorem State.awarded_clusters (s : State) (d : BitVec 6) (lg : Nat) (g : Nat × Nat) :
    (s.awarded d lg g).clusters = (s.takeLanes lg).clusters := by simp [State.awarded, State.giveGrant]

theorem State.awarded_gangOf (s : State) (d : BitVec 6) (lg : Nat) (g : Nat × Nat) (cl : Nat) (n : BitVec 3) :
    (s.awarded d lg g).gangOf cl n = s.gangOf cl n := by
  simp only [State.gangOf, State.clu, State.awarded_clusters]
  exact congrArg (fun t => Table.get Gang.reset t n.toNat) (s.takeLanes_gangs lg cl)

theorem State.byteAt_awarded (s : State) (d : BitVec 6) (lg : Nat) (g : Nat × Nat) (l : Loc) :
    (s.awarded d lg g).byteAt l = s.byteAt l := by
  rw [State.byteAt_congr (s := s.takeLanes lg) (by simp [State.awarded, State.giveGrant]) (s.awarded_clusters d lg g),
    State.byteAt_takeLanes]

/-- The scalars after an award: the rows in s(d), the columns in the next register, the others as before (R29). -/
theorem State.rd_awarded (s : State) (d r : BitVec 6) (lg : Nat) (g : Nat × Nat) : (s.awarded d lg g).rd r =
    if r = d + 1 then (if d + 1 = 0 then 0 else BitVec.ofNat 64 g.2)
    else if r = d then (if d = 0 then 0 else BitVec.ofNat 64 g.1) else s.rd r := by
  simp only [State.awarded, State.giveGrant, State.rd_adv, State.rd_endConvoy, State.rd_wr]
  rfl

/-- An award in a state that differs from the one before in the convoy and in the cluster's gangs only. -/
theorem granted_awarded {s u : State} {d : BitVec 6} (hd : d ≠ 63) (lg : Nat) (g : Nat × Nat)
    (hh : u.h = { s.h with convoy := u.h.convoy }) (hs : u.harts = s.harts)
    (hg : u.openGroups u.clNo s.h.slot = s.openGroups s.clNo s.h.slot) (hb : ∀ l, u.byteAt l = s.byteAt l) :
    Granted s (u.awarded d lg g) d lg := by
  have h1 : d + 1 ≠ 0 := by bv_omega
  have h2 : d ≠ d + 1 := by bv_omega
  have hslot : u.h.slot = s.h.slot := by rw [hh]
  have hgroups : (u.awarded d lg g).h.groups = (s.openGroups s.clNo s.h.slot).take (lg / 4) := by
    rw [State.awarded_h, ← hg, hslot]
  exact {
    rows := by rw [State.rd_awarded, if_neg h2, if_pos rfl, State.awarded_vlr]
    cols := by rw [State.rd_awarded, if_pos rfl, if_neg h1, State.awarded_vlc]
    others := fun r hr hr' => by
      rw [State.rd_awarded, if_neg hr', if_neg hr]
      exact State.rd_congr (by rw [hh]) r
    lanes := ⟨by rw [State.awarded_h], by rw [State.awarded_h], hgroups⟩
    hart := by rw [State.awarded_h, hh]
    harts := by rw [State.awarded_harts, hs]
    memory := fun l => by rw [State.byteAt_awarded, hb] }

/-- An award with the convoy-start bit noted. -/
theorem granted_noteCv (s : State) (c : Bool) {d : BitVec 6} (hd : d ≠ 63) (lg : Nat) (g : Nat × Nat) :
    Granted s ((s.noteCv c).awarded d lg g) d lg :=
  granted_awarded hd lg g (by rw [State.noteCv_eq]; rfl) (s.noteCv_harts c) (by rw [State.noteCv_eq]; rfl)
    (State.byteAt_congr (by simp) (by simp))

/-- The element capacity does not rest on the convoy. -/
@[simp] theorem State.ecap_noteCv (s : State) (c : Bool) (lg : Nat) : (s.noteCv c).ecap lg = s.ecap lg := by
  cases c <;> rfl

/-- A gang read after its registers are changed. -/
theorem State.gangOf_modGang (s : State) (cl : Nat) (g : BitVec 3) (f : Gang → Gang) :
    (s.modGang cl g f).gangOf cl g = f (s.gangOf cl g) := by
  rw [State.modGang, State.gangOf, State.clu_modClu, if_pos rfl, Table.get_set_same]

/-! ## VSETVL and VSETVLG -/

/-- VSETVL completes with the grant of R29, but at the last register. -/
theorem exec_vsetvl {s : State} (hr : s.runnable = true) (c : Bool) {d : BitVec 6} (hd : d ≠ 63) (a b : BitVec 6) :
    exec (.vsetvl c d a b) s = .next ((s.noteCv c).awarded d s.grantLanes
      (grantOf (s.ecap s.grantLanes) (s.rd a).toNat (s.rd b).toNat)) := by
  change execVsetvl c d a b s = _
  rw [execVsetvl, onHart_of hr, legal_of (by simpa using hd)]
  simp only [State.setvl, State.awarded, State.grantLanes_noteCv, State.ecap_noteCv, State.rd_noteCv]

/-- VSETVLG completes with what the rule of R27 gives, but at the last register. -/
theorem exec_vsetvlg_some {s t : State} (hr : s.runnable = true) {c : Bool} {d a b : BitVec 6} (hd : d ≠ 63)
    (ht : (s.noteCv c).setvlg d (s.rd a).toNat (s.rd b).toNat true = some t) :
    exec (.vsetvlg c d a b) s = .next t.endConvoy.adv := by
  change execVsetvlg c d a b s = _
  rw [execVsetvlg, onHart_of hr, legal_of (by simpa using hd)]
  simp only [State.rd_noteCv, ht]

/-- Where the rule of R27 parks it, the hart waits past VSETVLG. -/
theorem exec_vsetvlg_none {s : State} (hr : s.runnable = true) {c : Bool} {d a b : BitVec 6} (hd : d ≠ 63)
    (ht : (s.noteCv c).setvlg d (s.rd a).toNat (s.rd b).toNat true = none) :
    exec (.vsetvlg c d a b) s = .next { s with h := { s.h with
      park := some (.grant d (s.rd a).toNat (s.rd b).toNat s.cycles), pc := s.h.pc + 4, convoy := [] } } := by
  change execVsetvlg c d a b s = _
  rw [execVsetvlg, onHart_of hr, legal_of (by simpa using hd)]
  simp only [State.rd_noteCv, ht]
  cases c <;> rfl

/-- A hart in no gang is granted alike by VSETVLG and VSETVL. -/
theorem exec_vsetvlg_alone {s : State} (hr : s.runnable = true) (c : Bool) {d : BitVec 6} (hd : d ≠ 63) (a b : BitVec 6)
    (hg : s.h.gang = 0) : exec (.vsetvlg c d a b) s = exec (.vsetvl c d a b) s := by
  have ht : (s.noteCv c).setvlg d (s.rd a).toNat (s.rd b).toNat true =
      some ((s.noteCv c).setvl d (s.rd a).toNat (s.rd b).toNat) := by
    rw [State.setvlg, State.noteCv_h_gang, if_pos hg]
  rw [exec_vsetvlg_some hr hd ht, exec_vsetvl hr c hd]
  simp only [State.setvl, State.awarded, State.grantLanes_noteCv, State.ecap_noteCv]

/-- A gang's registers once the first grant of a phase is fixed (R27). -/
def Gang.fixed (g : Nat × Nat) (lg : Nat) (x : Gang) : Gang :=
  { x with grow := BitVec.ofNat 21 g.1, gcol := BitVec.ofNat 21 g.2, gfix := true, lfix := lg }

/-- The first VSETVLG of a phase is granted as by VSETVL, and fixes that for the phase (R27). -/
theorem exec_vsetvlg_first {s : State} (hr : s.runnable = true) (c : Bool) {d : BitVec 6} (hd : d ≠ 63) (a b : BitVec 6)
    (hg : s.h.gang ≠ 0) (hx : (s.gangOf s.clNo s.h.gang).gfix = false) :
    let g := grantOf (s.ecap s.grantLanes) (s.rd a).toNat (s.rd b).toNat
    exec (.vsetvlg c d a b) s = .next (((s.noteCv c).modGang s.clNo s.h.gang (Gang.fixed g s.grantLanes)).awarded d
      s.grantLanes g) := by
  intro g
  refine exec_vsetvlg_some hr hd ?_
  have hx' : ((s.noteCv c).gangOf s.clNo s.h.gang).gfix = false := by rw [State.noteCv_eq]; exact hx
  have hn : (s.noteCv c).clNo = s.clNo := by rw [State.noteCv_eq]; rfl
  rw [State.setvlg, State.noteCv_h_gang, if_neg hg]
  simp only [hn, hx', Bool.not_false, if_true, State.grantLanes_noteCv, State.ecap_noteCv]
  rfl

/-- What a later grant of the phase gives the hart under a number of lanes (R27). -/
def State.laterUnder (s : State) (rows cols lg : Nat) : Nat × Nat :=
  laterGrant (s.ecap lg) (s.gangOf s.clNo s.h.gang).grow.toNat (s.gangOf s.clNo s.h.gang).gcol.toNat rows cols

/-- A hart receives fewer lanes than its gang's first grant of the phase, and that alone makes its grant smaller (R27). -/
def State.Starved (s : State) (rows cols : Nat) : Prop :=
  let full := min (s.gangOf s.clNo s.h.gang).lfix s.lanes
  s.grantLanes < full ∧ ((s.laterUnder rows cols s.grantLanes).1 < (s.laterUnder rows cols full).1 ∨
    (s.laterUnder rows cols s.grantLanes).2 < (s.laterUnder rows cols full).2)

/-- The rule of a later grant: park where starved, else what the lanes of the moment give (R27). -/
theorem State.setvlg_fixed (s : State) (d : BitVec 6) (rows cols : Nat) (hg : s.h.gang ≠ 0)
    (hx : (s.gangOf s.clNo s.h.gang).gfix = true) :
    (s.Starved rows cols → s.setvlg d rows cols true = none) ∧
    (¬s.Starved rows cols → s.setvlg d rows cols true =
      some ((s.takeLanes s.grantLanes).giveGrant d (s.laterUnder rows cols s.grantLanes))) := by
  rw [State.setvlg, if_neg hg]
  simp only [hx, Bool.not_true, Bool.false_eq_true, if_false, Bool.true_and, Bool.and_eq_true, Bool.or_eq_true,
    decide_eq_true_eq]
  exact ⟨fun h => if_pos h, fun h => if_neg h⟩

/-- The convoy-start bit has no part in the rule of a later grant. -/
theorem State.laterUnder_noteCv (s : State) (c : Bool) (rows cols lg : Nat) :
    (s.noteCv c).laterUnder rows cols lg = s.laterUnder rows cols lg := by cases c <;> rfl

theorem State.starved_noteCv (s : State) (c : Bool) (rows cols : Nat) :
    (s.noteCv c).Starved rows cols ↔ s.Starved rows cols := by
  simp only [State.Starved, State.laterUnder_noteCv, State.grantLanes_noteCv]
  cases c <;> rfl

/-- A later VSETVLG of a phase, where the hart is not starved. -/
theorem exec_vsetvlg_later {s : State} (hr : s.runnable = true) (c : Bool) {d : BitVec 6} (hd : d ≠ 63) (a b : BitVec 6)
    (hg : s.h.gang ≠ 0) (hx : (s.gangOf s.clNo s.h.gang).gfix = true)
    (hp : ¬s.Starved (s.rd a).toNat (s.rd b).toNat) :
    exec (.vsetvlg c d a b) s = .next ((s.noteCv c).awarded d s.grantLanes
      (s.laterUnder (s.rd a).toNat (s.rd b).toNat s.grantLanes)) := by
  have hx' : ((s.noteCv c).gangOf (s.noteCv c).clNo (s.noteCv c).h.gang).gfix = true := by
    rw [State.noteCv_eq]; exact hx
  have ht := ((s.noteCv c).setvlg_fixed d (s.rd a).toNat (s.rd b).toNat (by rwa [State.noteCv_h_gang]) hx').2
    (by rwa [State.starved_noteCv])
  rw [exec_vsetvlg_some hr hd ht, State.grantLanes_noteCv, State.laterUnder_noteCv]
  rfl

/-- A later VSETVLG of a phase, where the hart is starved. -/
theorem exec_vsetvlg_starved {s : State} (hr : s.runnable = true) (c : Bool) {d : BitVec 6} (hd : d ≠ 63) (a b : BitVec 6)
    (hg : s.h.gang ≠ 0) (hx : (s.gangOf s.clNo s.h.gang).gfix = true)
    (hp : s.Starved (s.rd a).toNat (s.rd b).toNat) :
    exec (.vsetvlg c d a b) s = .next { s with h := { s.h with
      park := some (.grant d (s.rd a).toNat (s.rd b).toNat s.cycles), pc := s.h.pc + 4, convoy := [] } } := by
  have hx' : ((s.noteCv c).gangOf (s.noteCv c).clNo (s.noteCv c).h.gang).gfix = true := by
    rw [State.noteCv_eq]; exact hx
  exact exec_vsetvlg_none hr hd (((s.noteCv c).setvlg_fixed d _ _ (by rwa [State.noteCv_h_gang]) hx').1
    (by rwa [State.starved_noteCv]))

/-- The first grant of a phase leaves the rest of the machine as any grant does. -/
theorem granted_modGang (s : State) (c : Bool) {d : BitVec 6} (hd : d ≠ 63) (lg : Nat) (g : Nat × Nat) (n : BitVec 3)
    (f : Gang → Gang) : Granted s (((s.noteCv c).modGang s.clNo n f).awarded d lg g) d lg := by
  have hpw : ∀ k, (((s.noteCv c).modGang s.clNo n f).clu k).pw = (s.clu k).pw := fun k => by
    rw [State.modGang, State.clu_modClu_field Cluster.pw rfl, State.noteCv_eq]; rfl
  have hcopy : ∀ k, (((s.noteCv c).modGang s.clNo n f).clu k).copying = (s.clu k).copying := fun k => by
    rw [State.modGang, State.clu_modClu_field Cluster.copying rfl, State.noteCv_eq]; rfl
  have hscratch : ∀ k, (((s.noteCv c).modGang s.clNo n f).clu k).scratch = (s.clu k).scratch := fun k => by
    rw [State.modGang, State.clu_modClu_field Cluster.scratch rfl, State.noteCv_eq]; rfl
  refine granted_awarded hd lg g (by rw [State.noteCv_eq]; rfl) (s.noteCv_harts c) ?_
    (State.byteAt_of_scratch (s.noteCv_mem c) hscratch)
  simp only [State.openGroups, State.underRepair, hpw, hcopy]
  simp [State.modGang, State.clNo]

/-- VSETVL and VSETVLG at the last register, which has no successor, are illegal (R126, R138). -/
theorem illegalAt_vsetvl (c : Bool) (a b : BitVec 6) (s : State) : IllegalAt (.vsetvl c 63 a b) c s 4 :=
  illegalAt_of fun hr => by
    change execVsetvl c 63 a b s = _
    rw [execVsetvl, onHart_of hr]
    exact legal_head rfl

theorem illegalAt_vsetvlg (c : Bool) (a b : BitVec 6) (s : State) : IllegalAt (.vsetvlg c 63 a b) c s 4 :=
  illegalAt_of fun hr => by
    change execVsetvlg c 63 a b s = _
    rw [execVsetvlg, onHart_of hr]
    exact legal_head rfl

/-- VSETVL gives what R29 admits. -/
theorem vsetvl_grants {s : State} (hr : s.runnable = true) (c : Bool) {d : BitVec 6} (hd : d ≠ 63) (a b : BitVec 6) :
    ∃ t, exec (.vsetvl c d a b) s = .next t ∧ Granted s t d s.grantLanes ∧
      IsGrant (s.ecap s.grantLanes) (s.rd a).toNat (s.rd b).toNat t.h.vlr t.h.vlc :=
  ⟨_, exec_vsetvl hr c hd a b, granted_noteCv s c hd _ _, by
    rw [State.awarded_vlr, State.awarded_vlc]; exact isGrant_grantOf ..⟩

/-- Settles O19: each case of the rule completes with an award, and an award is a grant given. -/
theorem grantsFollowTheirRule : Obligations.GrantsFollowTheirRule := by
  refine ⟨⟨fun c d a b s hd hr => vsetvl_grants hr c hd a b, fun c d a b s hd hr hg => ?_,
    fun c a b s => ⟨illegalAt_vsetvl c a b s, illegalAt_vsetvlg c a b s⟩⟩, fun c d a b s hd hr hg => ⟨?_, ?_, ?_⟩⟩
  · rw [exec_vsetvlg_alone hr c hd a b hg]
    exact vsetvl_grants hr c hd a b
  · intro hx
    refine ⟨_, exec_vsetvlg_first hr c hd a b hg hx, granted_modGang s c hd _ _ _ _, ?_⟩
    simp only [State.awarded_vlr, State.awarded_vlc, State.awarded_gangOf, State.gangOf_modGang]
    exact ⟨isGrant_grantOf .., rfl, rfl, rfl, rfl⟩
  · intro hx hp
    refine ⟨_, exec_vsetvlg_later hr c hd a b hg hx hp, granted_noteCv s c hd _ _, ?_⟩
    rw [State.awarded_vlr, State.awarded_vlc]
    exact isLaterGrant_laterGrant ..
  · intro hx hp
    exact ⟨_, exec_vsetvlg_starved hr c hd a b hg hx hp, rfl⟩

end Sys2Proof.Machine
end

section
/-!
PROOFS. The machine at reset: every context, cluster and partition reads as its own reset value.
-/

namespace Sys2Proof.Machine

@[simp] theorem State.reset_hart (k : Nat) : State.reset.hart k = Hart.reset := by
  unfold State.hart; split <;> rfl

@[simp] theorem State.reset_clu (c : Nat) : State.reset.clu c = Cluster.reset := rfl
@[simp] theorem State.reset_part (p : Nat) : State.reset.part p = Part.reset := rfl
@[simp] theorem State.reset_gangOf (c : Nat) (g : BitVec 3) : State.reset.gangOf c g = Gang.reset := rfl

theorem Cluster.reset_sound : Cluster.reset.Sound := ⟨rfl, Nat.le_refl 2⟩

/-- DUTY 16, WATTS 1250, RATE 64, QUANTUM 64 and an empty log are within their bounds (R285, R294, R371). -/
theorem Part.reset_sound : Part.reset.Sound where
  duty := by decide
  watts := by decide
  rate := by decide
  quantum := by decide
  log := by decide

theorem State.reset_sound : State.reset.Sound where
  mem := rfl
  clusters _ := Cluster.reset_sound
  parts _ := Part.reset_sound
  raises := by decide

/-- GB of a gang at reset (R25). -/
theorem Gang.reset_word : Gang.reset.word = 0 := by decide

/-- PCAP's enable bit and WATTS, RATE, and PARTCFG's QUANTUM and AGE, at reset (R285). -/
theorem Part.reset_fields : Part.reset.pcap.getLsbD 16 = true ∧ bits Part.reset.pcap.toNat 0 16 = 1250 ∧
    bits Part.reset.tierrate.toNat 0 10 = 64 ∧ bits Part.reset.partcfg.toNat 16 16 = 64 ∧
    bits Part.reset.partcfg.toNat 12 4 = 10 := by decide

/-- Settles O59: the machine reads as the reset value of its contexts, clusters and partitions, and each of those holds
what the spec states. -/
theorem resetIsSound : Obligations.ResetIsSound := by
  obtain ⟨hcap, hwatts, hrate, hquantum, hage⟩ := Part.reset_fields
  refine ⟨State.reset_sound, fun k => ?_, fun c => ⟨rfl, rfl, fun g => Gang.reset_word⟩, fun p => ?_, rfl, rfl, rfl, rfl⟩
  · rw [State.reset_hart]
    exact ⟨rfl, rfl, rfl, rfl, rfl, rfl, rfl, rfl, rfl, rfl, rfl, rfl, rfl, rfl, fun r => ⟨rfl, rfl, rfl⟩⟩
  · exact ⟨hcap, hwatts, hrate, rfl, hquantum, hage, rfl, rfl, rfl, rfl, rfl, rfl, rfl, rfl, rfl, rfl, rfl, rfl, rfl⟩

end Sys2Proof.Machine
end

section
/-!
PROOFS. Configuration: VCFG, VTAG and PART (R15, R19, R44, R154).
-/

namespace Sys2Proof.Table

/-- A run of keys from 0 on given one value. -/
theorem get_foldl_set {α : Type} [DecidableEq α] (d v : α) (t : Table α) (n i : Nat) :
    get d ((List.range n).foldl (fun t k => set d t k v) t) i = if i < n then v else get d t i := by
  induction n with
  | zero => simp
  | succ n ih =>
    rw [List.range_succ, List.foldl_append, List.foldl_cons, List.foldl_nil, get_set, ih]
    grind

end Sys2Proof.Table

namespace Sys2Proof.Machine

/-! ## VCFG and VTAG -/

/-- A field read back from a number in which it was replaced, and a field below it. -/
theorem bits_putBits_nreg (v : Word) (n : BitVec 2) :
    bits (BitVec.ofNat 64 (putBits v.toNat 8 2 n.toNat)).toNat 8 2 = n.toNat ∧
    bits (BitVec.ofNat 64 (putBits v.toNat 8 2 n.toNat)).toNat 0 8 = bits v.toNat 0 8 := by
  have hv := v.isLt
  have hn := n.isLt
  simp only [bits, putBits, Nat.shiftRight_eq_div_pow, BitVec.toNat_ofNat]
  constructor <;> omega

/-- The registers of the current hart as VCFG leaves them before the grant is emptied (R15, R154). -/
def Hart.configured (n : BitVec 2) (t : BitVec 8) (h : Hart) : Hart :=
  { h with vtype := BitVec.ofNat 64 (putBits h.vtype.toNat 8 2 n.toNat), vlr := 0, vlc := 0, convoy := [],
           v := (List.range (8 * 2 ^ n.toNat)).foldl (fun v i => v.set VReg.reset i { VReg.reset with tag := t }) [] }

/-- VCFG with a defined tag configures the registers and takes lanes. -/
theorem exec_vcfg {s : State} (hr : s.runnable = true) (c : Bool) (n : BitVec 2) {tag : BitVec 8}
    (ht : (tyOf tag).isSome = true) :
    exec (.vcfg c n tag) s = .next ((s.mod (Hart.configured n tag)).takeLanes s.grantLanes).adv := by
  have hl : ((s.noteCv c).mod (Hart.configured n tag)).grantLanes = s.grantLanes := by
    rw [State.grantLanes_mod ⟨rfl, rfl, rfl, rfl, rfl⟩, State.grantLanes_noteCv]
  have hm : (s.noteCv c).mod (Hart.configured n tag) = s.mod (Hart.configured n tag) := by cases c <;> rfl
  change execVcfg c n tag s = _
  rw [execVcfg, onHart_of hr, legal_of (by simpa using ht)]
  change Host.Outcome.next (State.adv (State.takeLanes ((s.noteCv c).mod (Hart.configured n tag))
    ((s.noteCv c).mod (Hart.configured n tag)).grantLanes)) = _
  rw [hl, hm]

theorem illegalAt_vcfg (c : Bool) (n : BitVec 2) {tag : BitVec 8} (s : State) (ht : (tyOf tag).isNone = true) :
    IllegalAt (.vcfg c n tag) c s 5 :=
  illegalAt_of fun hr => by
    change execVcfg c n tag s = _
    rw [execVcfg, onHart_of hr]
    exact legal_head ht

/-- VTAG of a register in use, with a defined tag. -/
theorem exec_vtag {s : State} (hr : s.runnable = true) (c : Bool) {d : BitVec 6} {tag : BitVec 8} (hd : d.toNat < s.nreg)
    (ht : (tyOf tag).isSome = true) :
    exec (.vtag c d tag) s = .next (s.setVreg d.toNat { s.vreg d.toNat with tag := tag }).endConvoy.adv := by
  have hb : (s.noteCv c).beyond [d.toNat] = false := by
    have : (s.noteCv c).nreg = s.nreg := by cases c <;> rfl
    simpa [State.beyond, this] using hd
  change execVtag c d tag s = _
  rw [execVtag, onHart_of hr, legal_of (by simp [hb, ht])]
  cases c <;> rfl

/-- The registers at and beyond NREG do not exist (R126). -/
theorem illegalAt_vtag (c : Bool) {d : BitVec 6} (tag : BitVec 8) (s : State) (hd : s.nreg ≤ d.toNat) :
    IllegalAt (.vtag c d tag) c s 4 :=
  illegalAt_of fun hr => by
    have hb : (s.noteCv c).beyond [d.toNat] = true := by
      have : (s.noteCv c).nreg = s.nreg := by cases c <;> rfl
      simpa [State.beyond, this] using hd
    change execVtag c d tag s = _
    rw [execVtag, onHart_of hr]
    exact legal_head hb

/-! ## PART -/

@[simp] theorem State.setHart_cur (s : State) (k : Nat) (x : Hart) : (s.setHart k x).cur = s.cur := by
  unfold State.setHart; split <;> rfl
@[simp] theorem State.setHart_clusters (s : State) (k : Nat) (x : Hart) : (s.setHart k x).clusters = s.clusters := by
  unfold State.setHart; split <;> rfl
@[simp] theorem State.setHart_mem (s : State) (k : Nat) (x : Hart) : (s.setHart k x).mem = s.mem := by
  unfold State.setHart; split <;> rfl

@[simp] theorem State.modHart_cur (s : State) (k : Nat) (f : Hart → Hart) : (s.modHart k f).cur = s.cur :=
  s.setHart_cur k _
@[simp] theorem State.modHart_clusters (s : State) (k : Nat) (f : Hart → Hart) :
    (s.modHart k f).clusters = s.clusters := s.setHart_clusters k _
@[simp] theorem State.modHart_mem (s : State) (k : Nat) (f : Hart → Hart) : (s.modHart k f).mem = s.mem :=
  s.setHart_mem k _

/-- The current registers are those of the context `cur`. -/
theorem State.hart_cur (s : State) : s.hart s.cur = s.h := if_pos rfl

/-- A context read after one is changed. -/
theorem State.hart_modHart (s : State) (k n : Nat) (f : Hart → Hart) :
    (s.modHart k f).hart n = if k = n then f (s.hart k) else s.hart n := s.hart_setHart k n _

/-- The current registers after a context is changed. -/
theorem State.modHart_h (s : State) (k : Nat) (f : Hart → Hart) :
    (s.modHart k f).h = if k = s.cur then f s.h else s.h := by
  rw [← State.hart_cur (s.modHart k f), State.modHart_cur, State.hart_modHart]
  split
  · next h => rw [h, State.hart_cur]
  · exact s.hart_cur

/-- What differs between two sets of registers when the hart is given a slot and lanes: nothing else (R298, R296). -/
def Hart.Seated (h h' : Hart) : Prop :=
  h' = { h with life := h'.life, slot := h'.slot, since := h'.since, lg := h'.lg, granted := h'.granted,
                groups := h'.groups }

/-- What differs between two machines when the harts of a cluster are given slots and lanes: of the current hart only
its seat, of the cluster only the ready queue, and of the other clusters and of memory nothing. -/
structure State.Seated (cl : Nat) (s t : State) : Prop where
  cur : t.cur = s.cur
  hart : s.h.Seated t.h
  mem : t.mem = s.mem
  cluster : t.clu cl = { s.clu cl with ready := (t.clu cl).ready }
  others : ∀ k, k ≠ cl → t.clu k = s.clu k

theorem State.Seated.refl (cl : Nat) (s : State) : s.Seated cl s := ⟨rfl, rfl, rfl, rfl, fun _ _ => rfl⟩

theorem State.Seated.trans {cl : Nat} {s t u : State} (h : s.Seated cl t) (k : t.Seated cl u) : s.Seated cl u where
  cur := k.cur.trans h.cur
  hart := by
    have hh := h.hart
    have kh := k.hart
    unfold Hart.Seated at *
    rw [kh, hh]
  mem := k.mem.trans h.mem
  cluster := by rw [k.cluster, h.cluster]
  others n hn := (k.others n hn).trans (h.others n hn)

/-- A context given a seat, in a machine without other change. -/
theorem State.seated_modHart (cl : Nat) (s : State) (k : Nat) {f : Hart → Hart} (hf : ∀ h : Hart, h.Seated (f h)) :
    s.Seated cl (s.modHart k f) where
  cur := s.modHart_cur k f
  hart := by
    rw [State.modHart_h]
    split
    · exact hf s.h
    · rfl
  mem := s.modHart_mem k f
  cluster := by simp only [State.clu, State.modHart_clusters]
  others _ _ := by simp only [State.clu, State.modHart_clusters]

/-- The ready queue changed. -/
theorem State.seated_ready (cl : Nat) (s : State) (q : Cluster → List Nat) :
    s.Seated cl (s.modClu cl fun c => { c with ready := q c }) where
  cur := rfl
  hart := rfl
  mem := rfl
  cluster := by rw [State.clu_modClu, if_pos rfl]
  others n hn := by rw [State.clu_modClu, if_neg (Ne.symm hn)]

theorem State.seated_foldl {α : Type} (cl : Nat) (f : State → α → State) (hf : ∀ (s : State) a, s.Seated cl (f s a)) (l : List α) :
    ∀ s : State, s.Seated cl (l.foldl f s) := by
  induction l with
  | nil => exact State.Seated.refl cl
  | cons a l ih => exact fun s => (hf s a).trans (ih _)

theorem State.seated_takeSlot (cl : Nat) (s : State) (k n : Nat) : s.Seated cl (s.takeSlot k n) :=
  s.seated_modHart cl k fun _ => rfl

theorem State.seated_fillSlots (cl fuel : Nat) : ∀ s : State, s.Seated cl (s.fillSlots cl fuel) := by
  induction fuel with
  | zero => exact State.Seated.refl cl
  | succ fuel ih =>
    intro s
    unfold State.fillSlots
    split
    · exact State.Seated.refl cl s
    · split
      · exact State.Seated.refl cl s
      · exact ((s.seated_ready cl _).trans (State.seated_takeSlot cl _ _ _)).trans (ih _)

/-- Switching to another context sets the current registers aside, and switching back takes them up again. -/
theorem State.onCtx_h_other (s : State) {k : Nat} (hk : k ≠ s.cur) (g : State → Hart → Hart) :
    (s.onCtx k fun s => s.mod (g s)).h = s.h := by
  simp [State.onCtx, State.switchTo, hk, Ne.symm hk, Table.get_set]

/-- A change of the current context's own registers. -/
theorem State.onCtx_cur (s : State) (g : State → Hart → Hart) : (s.onCtx s.cur fun s => s.mod (g s)) = s.mod (g s) := by
  simp [State.onCtx, State.switchTo]

/-- A context given a seat as the current one. -/
theorem State.seated_onCtx (cl : Nat) (s : State) (k : Nat) (g : State → Hart → Hart)
    (hg : ∀ (s : State) (h : Hart), h.Seated (g s h)) : s.Seated cl (s.onCtx k fun s => s.mod (g s)) := by
  by_cases hk : k = s.cur
  · rw [hk, State.onCtx_cur]
    exact ⟨rfl, hg s s.h, rfl, rfl, fun _ _ => rfl⟩
  · have hc : (s.onCtx k fun s => s.mod (g s)).clusters = s.clusters := by
      simp [State.onCtx, State.switchTo, hk, Ne.symm hk]
    exact {
      cur := by simp [State.onCtx, State.switchTo, hk, Ne.symm hk]
      hart := by rw [s.onCtx_h_other hk]; rfl
      mem := by simp [State.onCtx, State.switchTo, hk, Ne.symm hk]
      cluster := by simp only [State.clu, hc]
      others := fun _ _ => by simp only [State.clu, hc] }

/-- A cluster under a new width, with no PART waiting and the fixed grants of its gangs dropped (R19). -/
def Cluster.widened (pw : BitVec 2) (c : Cluster) : Cluster :=
  { c with pw := pw, parting := none, gangs := c.gangs.filterMap fun p =>
      let x := { p.2 with gfix := false }
      if x = Gang.reset then none else some (p.1, x) }

/-- The contexts of the current cluster whose lane state PART clears (R19). -/
def State.laned (s : State) : List Nat :=
  (State.ctxsOf s.clNo).filter fun k => (s.hart k).life = .active ∨ (s.hart k).life = .standby

/-- The machine when PART has set the width and cleared the lane state, before it gives out slots and lanes (R19). -/
def State.blanked (s : State) (pw : BitVec 2) : State :=
  s.laned.foldl (fun s k => s.modHart k State.clearLanes) (s.modClu s.clNo (Cluster.widened pw))

/-- A hart's registers with the lanes of the moment (R19, R296). -/
def State.relaned (s : State) (h : Hart) : Hart :=
  { h with lg := s.lanesFor s.cur, granted := true,
           groups := (s.openGroups s.clNo h.slot).take (s.lanesFor s.cur / 4) }

/-- What PART does after that is to give out slots and lanes (R19). -/
theorem State.blanked_seated_setWidth (s : State) (pw : BitVec 2) : (s.blanked pw).Seated s.clNo (s.setWidth pw) := by
  have slots : ∀ (u : State) (x : Nat × Nat), u.Seated s.clNo
      (if x.1 < 2 ^ pw.toNat then u.modHart x.2 fun h => { h with slot := x.1 }
      else
        let parked := (u.hart x.2).park.isSome
        let u := u.modHart x.2 fun h => { h with life := .standby }
        if parked then u else u.modClu s.clNo fun c => { c with ready := c.ready ++ [x.2] }) := by
    intro u x
    split
    · exact u.seated_modHart _ _ fun _ => rfl
    · have hs : u.Seated s.clNo (u.modHart x.2 fun h => { h with life := .standby }) := u.seated_modHart _ _ fun _ => rfl
      dsimp only
      split
      · exact hs
      · exact hs.trans (State.seated_ready _ _ _)
  exact ((State.seated_foldl _ _ slots _ _).trans (State.seated_fillSlots _ _ _)).trans
    (State.seated_foldl _ _ (fun u k => u.seated_onCtx _ k State.relaned fun _ _ => rfl) _ _)

/-- Contexts changed in turn. -/
theorem State.foldl_modHart (f : Hart → Hart) (l : List Nat) (hl : l.Nodup) : ∀ s : State,
    (l.foldl (fun s k => s.modHart k f) s).cur = s.cur ∧
    (l.foldl (fun s k => s.modHart k f) s).clusters = s.clusters ∧
    (l.foldl (fun s k => s.modHart k f) s).mem = s.mem ∧
    (l.foldl (fun s k => s.modHart k f) s).h = if s.cur ∈ l then f s.h else s.h := by
  induction l with
  | nil => exact fun s => ⟨rfl, rfl, rfl, rfl⟩
  | cons k l ih =>
    intro s
    obtain ⟨hk, hl⟩ := List.nodup_cons.1 hl
    obtain ⟨hcur, hclu, hmem, hh⟩ := ih hl (s.modHart k f)
    simp only [List.foldl_cons]
    refine ⟨hcur.trans (by simp), hclu.trans (by simp), hmem.trans (by simp), hh.trans ?_⟩
    rw [State.modHart_cur, State.modHart_h]
    by_cases e : k = s.cur
    · subst e; simp [hk]
    · simp [e, Ne.symm e]

theorem State.laned_nodup (s : State) : s.laned.Nodup :=
  have hctxs : (State.ctxsOf s.clNo).Nodup :=
    List.Pairwise.map _ (fun _ _ hne e => hne (Nat.add_left_cancel e)) List.nodup_range
  List.Pairwise.filter _ hctxs

/-- A hart that issues is one of those whose lane state its PART clears. -/
theorem State.cur_mem_laned {s : State} (hr : s.h.life = .active) : s.cur ∈ s.laned := by
  have hc : s.cur ∈ State.ctxsOf s.clNo :=
    List.mem_map.2 ⟨s.cur % 16, List.mem_range.2 (Nat.mod_lt _ (by decide)), Nat.div_add_mod s.cur 16⟩
  exact List.mem_filter.2 ⟨hc, by simp [State.hart_cur, hr]⟩

/-- The machine between the two halves of PART (R19). -/
theorem State.blanked_spec {s : State} (hr : s.h.life = .active) (pw : BitVec 2) :
    (s.blanked pw).cur = s.cur ∧ (s.blanked pw).mem = s.mem ∧ (s.blanked pw).h = State.clearLanes s.h ∧
    ∀ k, (s.blanked pw).clu k = if s.clNo = k then (s.clu k).widened pw else s.clu k := by
  obtain ⟨hcur, hclu, hmem, hh⟩ :=
    State.foldl_modHart State.clearLanes s.laned s.laned_nodup (s.modClu s.clNo (Cluster.widened pw))
  refine ⟨hcur, hmem, hh.trans (if_pos (State.cur_mem_laned hr)), fun k => ?_⟩
  have : (s.blanked pw).clu k = (s.modClu s.clNo (Cluster.widened pw)).clu k :=
    congrArg (fun t => Table.get Cluster.reset t k) hclu
  rw [this, State.clu_modClu]
  split
  · next h => rw [h]
  · rfl

/-- A hart that is there to issue is active (R22). -/
theorem State.life_of_runnable {s : State} (hr : s.runnable = true) : s.h.life = .active := by
  obtain ⟨hlife, -⟩ := (Bool.and_eq_true _ _).mp hr
  exact of_decide_eq_true hlife

/-- PART with the cluster's transfers drained (R19). -/
theorem exec_part {s : State} (hr : s.runnable = true) {c : Bool} (n : BitVec 4)
    (hb : (s.noteCv c).clusterBusy = false) :
    exec (.part c n) s = .next ((s.noteCv c).adv.setWidth (BitVec.ofNat 2 n.toNat.log2)) := by
  change execPart c n s = _
  rw [execPart, onHart_of hr, hb]
  rfl

/-- PART while a transfer of the cluster is in flight waits in its place (R19). -/
theorem exec_part_waits {s : State} (hr : s.runnable = true) {c : Bool} (n : BitVec 4)
    (hb : (s.noteCv c).clusterBusy = true) : exec (.part c n) s =
      .next ((s.goes c s.h.pc).modClu s.clNo fun x => { x with parting := some (s.cur, s.h.pc) }) := by
  have hg : s.noteCv c = s.goes c s.h.pc := s.noteCv_eq c
  change execPart c n s = _
  rw [execPart, onHart_of hr, hb, hg]
  rfl

/-- What a completed PART has done to the machine in which the hart has gone on (R19). -/
theorem State.setWidth_spec {s : State} (hr : s.h.life = .active) (pw : BitVec 2) :
    (State.clearLanes s.h).Seated (s.setWidth pw).h ∧
    (s.setWidth pw).clu s.clNo = { (s.clu s.clNo).widened pw with ready := ((s.setWidth pw).clu s.clNo).ready } ∧
    (∀ k, k ≠ s.clNo → (s.setWidth pw).clu k = s.clu k) ∧ ∀ l, (s.setWidth pw).byteAt l = s.byteAt l := by
  obtain ⟨-, hmem, hh, hclu⟩ := State.blanked_spec hr pw
  have hs := s.blanked_seated_setWidth pw
  have hown : (s.setWidth pw).clu s.clNo =
      { (s.clu s.clNo).widened pw with ready := ((s.setWidth pw).clu s.clNo).ready } := by
    rw [hs.cluster, hclu, if_pos rfl]
  have hothers : ∀ k, k ≠ s.clNo → (s.setWidth pw).clu k = s.clu k := fun k hk => by
    rw [hs.others k hk, hclu, if_neg (Ne.symm hk)]
  refine ⟨hh ▸ hs.hart, hown, hothers, State.byteAt_of_scratch (hs.mem.trans hmem) fun k => ?_⟩
  by_cases hk : k = s.clNo
  · rw [hk, hown]; rfl
  · rw [hothers k hk]

/-- Settles O18: VCFG and VTAG by what they write, PART by the two halves of what it does. -/
theorem configurationTagsAndWidth : Obligations.ConfigurationTagsAndWidth := by
  refine ⟨⟨fun c n tag s ht hr => ⟨_, exec_vcfg hr c n ht, ?_⟩, fun c n tag s ht => illegalAt_vcfg c n s ht,
    fun c d tag s hd ht hr => ⟨_, exec_vtag hr c hd ht, ?_⟩, fun c d tag s hd => illegalAt_vtag c tag s hd⟩,
    fun c n s hr => ⟨fun hb => ⟨_, exec_part hr n hb, ?_⟩, exec_part_waits hr n⟩⟩
  · obtain ⟨hnreg, hmodes⟩ := bits_putBits_nreg s.h.vtype n
    refine ⟨congrArg (8 * 2 ^ ·) hnreg, fun r h => ?_, rfl, rfl, hmodes, rfl, rfl, rfl, rfl, rfl, rfl, rfl, rfl, rfl,
      fun l => ?_⟩
    · exact (Table.get_foldl_set VReg.reset _ [] _ r).trans (if_pos h)
    · exact State.byteAt_takeLanes _ _ l
  · refine ⟨?_, fun r h => ?_, rfl⟩
    · exact (s.vreg_setVreg d.toNat d.toNat _).trans (if_pos rfl)
    · exact (s.vreg_setVreg d.toNat r _).trans (if_neg (Ne.symm h))
  · have hlife : (s.noteCv c).adv.h.life = .active := by
      rw [State.adv_h_life, State.noteCv_h_life, State.life_of_runnable hr]
    obtain ⟨hh, hown, hothers, hbytes⟩ := State.setWidth_spec hlife (BitVec.ofNat 2 n.toNat.log2)
    have hn : (s.noteCv c).adv.clNo = s.clNo := by cases c <;> rfl
    have hclu : ∀ k, (s.noteCv c).adv.clu k = s.clu k := fun k => by cases c <;> rfl
    rw [hn] at hown hothers
    refine ⟨by rw [hown]; rfl, by rw [hh]; rfl, by rw [hh]; rfl, ?_, ?_, ?_, ?_, by rw [hh]; rfl, by rw [hown]; rfl,
      fun k hk => (hothers k hk).trans (hclu k), fun l => (hbytes l).trans (State.byteAt_congr (by simp) (by simp) l)⟩
    all_goals rw [hh]; simp [State.clearLanes]

end Sys2Proof.Machine
end

section
/-!
PROOFS. Slots, waking and gangs: what the operations of R22, R25, R26 and R298 change of any context and any cluster.
-/

namespace Sys2Proof.Machine

/-! ## The convoy-start bit, and contexts -/

/-- The instruction after this one, with the convoy-start bit noted. -/
theorem State.adv_noteCv (s : State) (c : Bool) : (s.noteCv c).adv = s.goes c (s.h.pc + 4) := by
  rw [State.noteCv_eq]; rfl

@[simp] theorem State.clNo_noteCv (s : State) (c : Bool) : (s.noteCv c).clNo = s.clNo := by cases c <;> rfl

@[simp] theorem State.gangOf_noteCv (s : State) (c : Bool) (k : Nat) (g : BitVec 3) :
    (s.noteCv c).gangOf k g = s.gangOf k g := by cases c <;> rfl

@[simp] theorem State.byteAt_noteCv (s : State) (c : Bool) (l : Loc) : (s.noteCv c).byteAt l = s.byteAt l := by
  cases c <;> rfl

/-- The contexts other than the current one read alike where they are kept alike. -/
theorem State.hart_other {s t : State} (hc : t.cur = s.cur) (hh : t.harts = s.harts) {k : Nat} (hk : k ≠ s.cur) :
    t.hart k = s.hart k := by
  unfold State.hart
  rw [hc, hh, if_neg hk, if_neg hk]

theorem State.cur_mem_ctxsOf (s : State) : s.cur ∈ State.ctxsOf s.clNo :=
  List.mem_map.2 ⟨s.cur % 16, List.mem_range.2 (Nat.mod_lt _ (by decide)), Nat.div_add_mod s.cur 16⟩

/-! ## Slots -/

theorem Hart.Seated.trans {h h' h'' : Hart} (a : h.Seated h') (b : h'.Seated h'') : h.Seated h'' := by
  unfold Hart.Seated at *
  rw [b, a]

/-- A context read after a hart takes a slot (R298). -/
theorem State.hart_takeSlot (s : State) (k n j : Nat) : (s.takeSlot k n).hart j =
    if k = j then { s.hart k with life := .active, slot := n, since := s.cycles, groups :=
      if (s.hart k).granted then (s.openGroups (k / 16) n).take ((s.hart k).lg / 4) else [] }
    else s.hart j := s.hart_modHart k j _

/-- The head of the ready queue takes the slot that suffices it (R298). -/
theorem State.fillSlots_take {s : State} {cl k n : Nat} {q : List Nat} (hq : (s.clu cl).ready = k :: q)
    (hn : s.freeSlot cl k = some n) (fuel : Nat) : s.fillSlots cl (fuel + 1) =
      ((s.modClu cl fun c => { c with ready := q }).takeSlot k n).fillSlots cl fuel := by
  rw [State.fillSlots, hq]
  simp only [hn]

/-- The queue once its head has taken a slot. -/
theorem State.ready_dequeued (s : State) (cl k n : Nat) (q : List Nat) :
    (((s.modClu cl fun c => { c with ready := q }).takeSlot k n).clu cl).ready = q := by
  have hclu : ((s.modClu cl fun c => { c with ready := q }).takeSlot k n).clusters =
      (s.modClu cl fun c => { c with ready := q }).clusters := State.modHart_clusters ..
  rw [State.clu, hclu]
  exact congrArg Cluster.ready ((s.clu_modClu cl cl _).trans (if_pos rfl))

/-- Filling slots gives a context at most a seat, and only one that waits in the queue. -/
theorem State.hart_fillSlots (cl fuel j : Nat) : ∀ s : State, (s.hart j).Seated ((s.fillSlots cl fuel).hart j) ∧
    (j ∉ (s.clu cl).ready → (s.fillSlots cl fuel).hart j = s.hart j) := by
  induction fuel with
  | zero => exact fun s => ⟨rfl, fun _ => rfl⟩
  | succ fuel ih =>
    intro s
    cases hq : (s.clu cl).ready with
    | nil =>
      rw [show s.fillSlots cl (fuel + 1) = s by simp only [State.fillSlots, hq]]
      exact ⟨rfl, fun _ => rfl⟩
    | cons k q =>
      cases hn : s.freeSlot cl k with
      | none =>
        rw [show s.fillSlots cl (fuel + 1) = s by simp only [State.fillSlots, hq, hn]]
        exact ⟨rfl, fun _ => rfl⟩
      | some n =>
        rw [State.fillSlots_take hq hn]
        obtain ⟨hseat, hout⟩ := ih ((s.modClu cl fun c => { c with ready := q }).takeSlot k n)
        have htake := (s.modClu cl fun c => { c with ready := q }).hart_takeSlot k n j
        refine ⟨Hart.Seated.trans ?_ hseat, fun hj => ?_⟩
        · rw [htake]
          split
          · next h => rw [← h]; rfl
          · rfl
        · have hq : j ∉ q := List.not_mem_of_not_mem_cons hj
          rw [hout (by rwa [State.ready_dequeued]), htake, if_neg (List.ne_of_not_mem_cons hj).symm]
          rfl

/-! ## Waking -/

/-- What differs between two sets of registers when the hart is woken and given a slot: nothing else (R22, R298). -/
def Hart.Roused (h h' : Hart) : Prop :=
  h' = { h with life := h'.life, slot := h'.slot, since := h'.since, lg := h'.lg, granted := h'.granted,
                groups := h'.groups, park := h'.park }

theorem Hart.Seated.roused {h h' : Hart} (a : h.Seated h') : h.Roused h' := by
  unfold Hart.Roused
  rw [a]

theorem Hart.Roused.trans {h h' h'' : Hart} (a : h.Roused h') (b : h'.Roused h'') : h.Roused h'' := by
  unfold Hart.Roused at *
  rw [b, a]

/-- What differs between two machines when harts are woken: of every context its seat and its park, of every cluster the
ready queue, and of memory nothing. -/
structure State.Roused (s t : State) : Prop where
  cur : t.cur = s.cur
  mem : t.mem = s.mem
  clusters : ∀ c, t.clu c = { s.clu c with ready := (t.clu c).ready }
  harts : ∀ k, (s.hart k).Roused (t.hart k)

namespace State.Roused

variable {s t u : State}

theorem refl (s : State) : s.Roused s := ⟨rfl, rfl, fun _ => rfl, fun _ => rfl⟩

theorem trans (a : s.Roused t) (b : t.Roused u) : s.Roused u where
  cur := b.cur.trans a.cur
  mem := b.mem.trans a.mem
  clusters c := by rw [b.clusters, a.clusters]
  harts k := (a.harts k).trans (b.harts k)

theorem gangOf (a : s.Roused t) (c : Nat) (g : BitVec 3) : t.gangOf c g = s.gangOf c g := by
  unfold State.gangOf
  rw [a.clusters]

end State.Roused

theorem State.roused_modHart (s : State) (k : Nat) {f : Hart → Hart} (hf : ∀ h : Hart, h.Roused (f h)) :
    s.Roused (s.modHart k f) where
  cur := s.modHart_cur k f
  mem := s.modHart_mem k f
  clusters c := by simp only [State.clu, State.modHart_clusters]
  harts j := by
    rw [State.hart_modHart]
    split
    · next h => rw [← h]; exact hf _
    · rfl

/-- The current registers changed, as those of their context. -/
theorem State.mod_eq_modHart (s : State) (f : Hart → Hart) : s.mod f = s.modHart s.cur f := by
  rw [State.modHart, State.setHart, if_pos rfl, State.hart_cur]
  rfl

theorem State.roused_mod (s : State) {f : Hart → Hart} (hf : ∀ h : Hart, h.Roused (f h)) : s.Roused (s.mod f) := by
  rw [State.mod_eq_modHart]
  exact s.roused_modHart s.cur hf

/-- What gives out seats in a cluster also is a way of waking, that leaves every park. -/
theorem State.Seated.roused {cl : Nat} {s t : State} (a : s.Seated cl t) (h : ∀ k, (s.hart k).Seated (t.hart k)) :
    s.Roused t where
  cur := a.cur
  mem := a.mem
  clusters c := by
    by_cases hc : c = cl
    · rw [hc]; exact a.cluster
    · rw [a.others c hc]
  harts k := (h k).roused

theorem State.roused_ready (cl : Nat) (s : State) (q : Cluster → List Nat) :
    s.Roused (s.modClu cl fun c => { c with ready := q c }) := (s.seated_ready cl q).roused fun _ => rfl

theorem State.roused_fillSlots (cl fuel : Nat) (s : State) : s.Roused (s.fillSlots cl fuel) :=
  (s.seated_fillSlots cl fuel).roused fun k => (s.hart_fillSlots cl fuel k).1

/-- Filling slots parks no hart and wakes none. -/
theorem State.park_fillSlots (cl fuel k : Nat) (s : State) :
    ((s.fillSlots cl fuel).hart k).park = (s.hart k).park := by
  rw [(s.hart_fillSlots cl fuel k).1]

theorem State.roused_wake (s : State) (k : Nat) : s.Roused (s.wake k) := by
  unfold State.wake
  split
  · refine State.Roused.trans (State.Roused.trans (s.roused_modHart k ?_) (State.roused_ready _ _ _))
      (State.roused_fillSlots _ _ _)
    exact fun _ => rfl
  · exact s.roused_modHart k fun _ => rfl

/-- A hart woken is parked no longer, and no other is woken with it. -/
theorem State.park_wake (s : State) (n k : Nat) :
    ((s.wake n).hart k).park = if n = k then none else (s.hart k).park := by
  have hmod : ∀ f : Hart → Hart, (f (s.hart n)).park = none →
      ((s.modHart n f).hart k).park = if n = k then none else (s.hart k).park := fun f hf => by
    rw [State.hart_modHart, apply_ite Hart.park, hf]
  unfold State.wake
  split
  · exact (State.park_fillSlots _ _ _ _).trans (hmod _ rfl)
  · exact hmod _ rfl

theorem State.roused_wakeAll (l : List Nat) : ∀ s : State, s.Roused (s.wakeAll l) := by
  induction l with
  | nil => exact State.Roused.refl
  | cons k l ih => exact fun s => (s.roused_wake k).trans (ih _)

/-- Of the harts woken none is parked any longer, and the others are as before (R22). -/
theorem State.park_wakeAll (l : List Nat) (k : Nat) : ∀ s : State,
    ((s.wakeAll l).hart k).park = if k ∈ l then none else (s.hart k).park := by
  induction l with
  | nil => exact fun s => rfl
  | cons n l ih =>
    intro s
    refine (ih (s.wake n)).trans ?_
    rw [State.park_wake]
    by_cases hl : k ∈ l
    · simp [hl]
    · simp [hl, eq_comm]

/-! ## Gangs -/

/-- What a gang's registers become when its barrier completes (R26). -/
def Gang.completed (x : Gang) : Gang := { x with phase := x.phase + 1, arrived := 0, gfix := false }

/-- The members of a gang that are parked in its barrier (R26). -/
def State.WaitsInBarrier (s : State) (cl : Nat) (g : BitVec 3) (k : Nat) : Prop :=
  k ∈ State.ctxsOf cl ∧ (s.hart k).life ≠ .free ∧ (s.hart k).gang = g ∧ (s.hart k).park = some .gbar

/-- A barrier's completion is a change of its gang, and harts woken. -/
theorem State.roused_completeBarrier (s : State) (cl : Nat) (g : BitVec 3) :
    (s.modGang cl g Gang.completed).Roused (s.completeBarrier cl g) := State.roused_wakeAll _ _

theorem State.gangOf_completeBarrier (s : State) (cl : Nat) (g : BitVec 3) :
    (s.completeBarrier cl g).gangOf cl g = (s.gangOf cl g).completed := by
  rw [(s.roused_completeBarrier cl g).gangOf, State.gangOf_modGang]

/-- The completion wakes the members that are parked in the barrier, and no other hart (R26). -/
theorem State.park_completeBarrier (s : State) (cl : Nat) (g : BitVec 3) (k : Nat) :
    (s.WaitsInBarrier cl g k → ((s.completeBarrier cl g).hart k).park = none) ∧
    (¬s.WaitsInBarrier cl g k → ((s.completeBarrier cl g).hart k).park = (s.hart k).park) := by
  have hmem : k ∈ ((State.ctxsOf cl).filter fun k => (s.hart k).life ≠ .free ∧ (s.hart k).gang = g ∧
      (s.hart k).park = some .gbar) ↔ s.WaitsInBarrier cl g k := by simp [State.WaitsInBarrier]
  rw [← hmem]
  exact ⟨fun h => (State.park_wakeAll _ k _).trans (if_pos h), fun h => (State.park_wakeAll _ k _).trans (if_neg h)⟩

/-- What differs between two sets of registers when harts move between gangs: nothing else (R25, R26). -/
def Hart.Regrouped (h h' : Hart) : Prop :=
  h' = { h with life := h'.life, slot := h'.slot, since := h'.since, lg := h'.lg, granted := h'.granted,
                groups := h'.groups, park := h'.park, gang := h'.gang }

theorem Hart.Regrouped.trans {h h' h'' : Hart} (a : h.Regrouped h') (b : h'.Regrouped h'') : h.Regrouped h'' := by
  unfold Hart.Regrouped at *
  rw [b, a]

/-- What a change of gangs leaves: the current context, memory and scratchpads, and of every context all but its gang and
what a barrier that completes changes. -/
structure State.Regrouped (s t : State) : Prop where
  cur : t.cur = s.cur
  mem : t.mem = s.mem
  scratch : ∀ c, (t.clu c).scratch = (s.clu c).scratch
  harts : ∀ k, (s.hart k).Regrouped (t.hart k)

namespace State.Regrouped

variable {s t u : State}

theorem refl (s : State) : s.Regrouped s := ⟨rfl, rfl, fun _ => rfl, fun _ => rfl⟩

theorem trans (a : s.Regrouped t) (b : t.Regrouped u) : s.Regrouped u where
  cur := b.cur.trans a.cur
  mem := b.mem.trans a.mem
  scratch c := (b.scratch c).trans (a.scratch c)
  harts k := (a.harts k).trans (b.harts k)

/-- The current registers. -/
theorem h (a : s.Regrouped t) : s.h.Regrouped t.h := by
  have := a.harts s.cur
  rwa [State.hart_cur, ← a.cur, State.hart_cur] at this

theorem byteAt (a : s.Regrouped t) (l : Loc) : t.byteAt l = s.byteAt l := State.byteAt_of_scratch a.mem a.scratch l

end State.Regrouped

theorem State.Roused.regrouped {s t : State} (a : s.Roused t) : s.Regrouped t where
  cur := a.cur
  mem := a.mem
  scratch c := by rw [a.clusters]
  harts k := by
    unfold Hart.Regrouped
    rw [a.harts]

theorem State.gangOf_modHart (s : State) (k : Nat) (f : Hart → Hart) (c : Nat) (g : BitVec 3) :
    (s.modHart k f).gangOf c g = s.gangOf c g := by simp only [State.gangOf, State.clu, State.modHart_clusters]

theorem State.regrouped_modHart (s : State) (k : Nat) (g : BitVec 3) :
    s.Regrouped (s.modHart k fun h => { h with gang := g }) where
  cur := s.modHart_cur k _
  mem := s.modHart_mem k _
  scratch c := by simp only [State.clu, State.modHart_clusters]
  harts j := by
    rw [State.hart_modHart]
    split
    · next h => rw [← h]; rfl
    · rfl

theorem State.regrouped_modGang (s : State) (cl : Nat) (g : BitVec 3) (f : Gang → Gang) :
    s.Regrouped (s.modGang cl g f) where
  cur := rfl
  mem := rfl
  scratch _ := by
    unfold State.modGang
    exact State.clu_modClu_field Cluster.scratch rfl _
  harts _ := rfl

theorem State.regrouped_completeBarrier (s : State) (cl : Nat) (g : BitVec 3) :
    s.Regrouped (s.completeBarrier cl g) :=
  (s.regrouped_modGang cl g _).trans (s.roused_completeBarrier cl g).regrouped

/-- A barrier's completion moves no hart to another gang. -/
theorem State.gang_completeBarrier (s : State) (cl : Nat) (g : BitVec 3) (k : Nat) :
    ((s.completeBarrier cl g).hart k).gang = (s.hart k).gang := by
  rw [(s.roused_completeBarrier cl g).harts k]
  rfl

/-- A hart out of its gang, before the barrier is looked at (R26). -/
def State.outOfGang (s : State) (k : Nat) : State :=
  (s.modGang (k / 16) (s.hart k).gang fun x =>
    { x with members := x.members - 1,
             arrived := if (s.hart k).park = some .gbar then x.arrived - 1 else x.arrived,
             gfix := if x.members - 1 = 0 then false else x.gfix }).modHart k fun h => { h with gang := 0 }

/-- A hart leaves the gang it is in, and where all the others have arrived the barrier completes (R26). -/
theorem State.leaveGang_of {s : State} {k : Nat} (h : (s.hart k).gang ≠ 0) :
    let x := (s.outOfGang k).gangOf (k / 16) (s.hart k).gang
    s.leaveGang k = if 1 ≤ x.arrived ∧ x.arrived = x.members then
      (s.outOfGang k).completeBarrier (k / 16) (s.hart k).gang else s.outOfGang k := by
  rw [State.leaveGang, if_neg h]
  rfl

/-- A hart that leaves its gang is in none, and nothing changes but gangs (R26). -/
theorem State.leaveGang_spec (s : State) (k : Nat) :
    s.Regrouped (s.leaveGang k) ∧ ((s.leaveGang k).hart k).gang = 0 := by
  by_cases h : (s.hart k).gang = 0
  · rw [State.leaveGang, if_pos h]
    exact ⟨State.Regrouped.refl s, h⟩
  · have hout : s.Regrouped (s.outOfGang k) := (s.regrouped_modGang _ _ _).trans (State.regrouped_modHart _ k 0)
    have hgang : ((s.outOfGang k).hart k).gang = 0 := by rw [State.outOfGang, State.hart_modHart, if_pos rfl]
    rw [State.leaveGang_of h]
    split
    · exact ⟨hout.trans (State.regrouped_completeBarrier _ _ _), (State.gang_completeBarrier _ _ _ k).trans hgang⟩
    · exact ⟨hout, hgang⟩

/-- A hart joins a gang (R25): it is counted there. -/
theorem State.joinGang_spec (s : State) (k : Nat) (g : BitVec 3) : s.Regrouped (s.joinGang k g) ∧
    ((s.joinGang k g).hart k).gang = g ∧
    ((s.joinGang k g).gangOf (k / 16) g).members = (s.gangOf (k / 16) g).members + 1 := by
  unfold State.joinGang
  refine ⟨(s.regrouped_modGang _ _ _).trans (State.regrouped_modHart _ k g), by rw [State.hart_modHart, if_pos rfl], ?_⟩
  rw [State.gangOf_modHart, State.gangOf_modGang]

end Sys2Proof.Machine
end

section
/-!
PROOFS. GANG and GBAR (R25, R26).
-/

namespace Sys2Proof.Machine

/-! ## GANG -/

/-- A hart moves between gangs: it ends in the gang named, and one that comes from none is counted there (R25). -/
theorem State.moveGang_spec (s : State) (g : BitVec 3) : s.Regrouped (s.moveGang g) ∧ (s.moveGang g).h.gang = g ∧
    (s.h.gang = 0 → g ≠ 0 → ((s.moveGang g).gangOf s.clNo g).members = (s.gangOf s.clNo g).members + 1) := by
  have cur : ∀ {t u : State}, t.Regrouped u → u.hart t.cur = u.h := fun a => by rw [← a.cur, State.hart_cur]
  obtain ⟨hl, hlg⟩ := s.leaveGang_spec s.cur
  unfold State.moveGang
  split
  · next hg => exact ⟨State.Regrouped.refl s, hg.symm, fun h0 h => absurd (hg.trans h0) h⟩
  · split
    · next h0 => exact ⟨hl, by rw [← cur hl, hlg, h0], fun _ h => absurd h0 h⟩
    · obtain ⟨hj, hjg, hjm⟩ := (s.leaveGang s.cur).joinGang_spec s.cur g
      refine ⟨hl.trans hj, by rw [← cur (hl.trans hj), hjg], fun h0 _ => hjm.trans ?_⟩
      have hs : s.leaveGang s.cur = s := by rw [State.leaveGang, State.hart_cur, if_pos h0]
      rw [hs]
      rfl

/-- GANG with a number of a gang. -/
theorem exec_gang {s : State} (hr : s.runnable = true) (c : Bool) {a : BitVec 6} (ha : (s.rd a).toNat ≤ 7) :
    exec (.gang c a) s = .next ((s.noteCv c).moveGang ((s.rd a).setWidth 3)).adv := by
  change execGang c a s = _
  rw [execGang, onHart_of hr, legal_of (by simpa using ha), State.rd_noteCv, BitVec.setWidth_eq_extractLsb' (by decide)]

theorem illegalAt_gang (c : Bool) {a : BitVec 6} {s : State} (ha : 7 < (s.rd a).toNat) :
    IllegalAt (.gang c a) c s 10 :=
  illegalAt_of fun hr => by
    change execGang c a s = _
    rw [execGang, onHart_of hr]
    exact legal_head (by simpa using ha)

/-! ## GBAR -/

/-- GBAR of a hart in no gang goes on (R26). -/
theorem exec_gbar_alone {s : State} (hr : s.runnable = true) (c : Bool) (hx : s.h.xfers = []) (hg : s.h.gang = 0) :
    exec (.gbar c) s = .next (s.goes c (s.h.pc + 4)) := by
  change execGbar c s = _
  rw [execGbar, onHart_of hr, State.noteCv_h_xfers, if_neg (by simp [hx]), State.noteCv_h_gang, if_pos hg,
    State.adv_noteCv]

/-- The current hart parked in its gang's barrier, past the instruction, and counted there (R26). -/
def State.atBarrier (s : State) : State :=
  (s.parkIn .gbar).modGang s.clNo s.h.gang fun x => { x with arrived := x.arrived + 1 }

theorem State.gangOf_atBarrier (s : State) : s.atBarrier.gangOf s.clNo s.h.gang =
    { s.gangOf s.clNo s.h.gang with arrived := (s.gangOf s.clNo s.h.gang).arrived + 1 } :=
  (s.parkIn .gbar).gangOf_modGang s.clNo s.h.gang fun x => { x with arrived := x.arrived + 1 }

/-- With the last of the members to arrive the barrier completes (R26). -/
theorem State.arrive_eq (s : State) : s.arrive =
    if (s.gangOf s.clNo s.h.gang).arrived + 1 = (s.gangOf s.clNo s.h.gang).members then
      s.atBarrier.completeBarrier s.clNo s.h.gang else s.atBarrier := by
  change (if (s.atBarrier.gangOf s.clNo s.h.gang).arrived = (s.atBarrier.gangOf s.clNo s.h.gang).members then
    s.atBarrier.completeBarrier s.clNo s.h.gang else s.atBarrier) = _
  rw [State.gangOf_atBarrier]

/-- Arriving parks the hart, and leaves the rest of the machine but its gang's count (R26). -/
theorem State.regrouped_atBarrier (s : State) : s.adv.Regrouped s.atBarrier :=
  (s.adv.roused_mod (f := fun h => { h with park := some .gbar }) fun _ => rfl).regrouped.trans
    (State.regrouped_modGang _ _ _ _)

/-- A member that is there to issue waits in the barrier once it has arrived. -/
theorem State.waits_atBarrier {s : State} (hr : s.h.life = .active) :
    s.atBarrier.WaitsInBarrier s.clNo s.h.gang s.cur := by
  refine ⟨s.cur_mem_ctxsOf, ?_⟩
  rw [show s.atBarrier.hart s.cur = s.atBarrier.h from if_pos rfl]
  exact ⟨fun h => Life.noConfusion (hr.symm.trans h), rfl, rfl⟩

/-- GBAR of a member of a gang. -/
theorem exec_gbar {s : State} (hr : s.runnable = true) (c : Bool) (hx : s.h.xfers = []) (hg : s.h.gang ≠ 0) :
    exec (.gbar c) s = .next (s.noteCv c).arrive := by
  change execGbar c s = _
  rw [execGbar, onHart_of hr, State.noteCv_h_xfers, if_neg (by simp [hx]), State.noteCv_h_gang, if_neg hg]

/-- What a member does by arriving at its gang's barrier (R26). -/
theorem State.arrive_spec {s : State} (hr : s.h.life = .active) :
    let x := s.gangOf s.clNo s.h.gang
    let y := s.arrive.gangOf s.clNo s.h.gang
    s.adv.Regrouped s.arrive ∧
    (x.arrived + 1 ≠ x.members → s.arrive.h.park = some .gbar ∧ y.arrived = x.arrived + 1) ∧
    (x.arrived + 1 = x.members → s.arrive.h.park = none ∧ y = x.completed ∧ ∀ k, k ≠ s.cur →
      (s.WaitsInBarrier s.clNo s.h.gang k → (s.arrive.hart k).park = none) ∧
      (¬s.WaitsInBarrier s.clNo s.h.gang k → (s.arrive.hart k).park = (s.hart k).park)) := by
  intro x y
  have hy : y = s.arrive.gangOf s.clNo s.h.gang := rfl
  rw [hy, State.arrive_eq]
  split
  · next h =>
    have hrs := s.regrouped_atBarrier.trans (s.atBarrier.regrouped_completeBarrier s.clNo s.h.gang)
    refine ⟨hrs, absurd h, fun _ => ⟨?_, ?_, fun k hk => ?_⟩⟩
    · have hcur : (s.atBarrier.completeBarrier s.clNo s.h.gang).cur = s.cur := hrs.cur
      rw [← State.hart_cur, hcur]
      exact (s.atBarrier.park_completeBarrier s.clNo s.h.gang s.cur).1 (State.waits_atBarrier hr)
    · rw [State.gangOf_completeBarrier, State.gangOf_atBarrier]
      rfl
    · have hk' : s.atBarrier.hart k = s.hart k := State.hart_other (s := s) (t := s.atBarrier) rfl rfl hk
      have hp := s.atBarrier.park_completeBarrier s.clNo s.h.gang k
      simpa only [State.WaitsInBarrier, hk'] using hp
  · next h => exact ⟨s.regrouped_atBarrier, fun _ => ⟨rfl, by rw [State.gangOf_atBarrier]⟩, fun e => absurd e h⟩

/-- Settles O22: GANG by what a move between gangs changes, GBAR by what a member does that arrives. -/
theorem gangsAndBarriers : Obligations.GangsAndBarriers := by
  refine ⟨fun c a s ha hr => ⟨_, exec_gang hr c ha, ?_⟩, fun c a s ha => illegalAt_gang c ha,
    fun c s hr hx hg => exec_gbar_alone hr c hx hg, fun c s hr hx hg => ⟨_, exec_gbar hr c hx hg, ?_⟩⟩
  · obtain ⟨hm, hgang, hmembers⟩ := (s.noteCv c).moveGang_spec ((s.rd a).setWidth 3)
    have hh := hm.h
    unfold Hart.Regrouped at hh
    rw [State.noteCv_h_gang, State.clNo_noteCv, State.gangOf_noteCv] at hmembers
    refine ⟨hgang, ?_, ?_, ?_, fun h0 h => ?_, fun l => (hm.byteAt l).trans (s.byteAt_noteCv c l)⟩
    · rw [State.adv_h_pc, hh, State.noteCv_h_pc]
    · rw [State.adv_h_s, hh, State.noteCv_h_s]
    · rw [State.adv_h_v, hh, State.noteCv_h_v]
    · rw [State.adv_h_gang, hgang] at h ⊢
      exact hmembers h0 h
  · have hlife : (s.noteCv c).h.life = .active := by rw [State.noteCv_h_life, State.life_of_runnable hr]
    obtain ⟨hm, hwait, hlast⟩ := State.arrive_spec hlife
    have hwaits : ∀ k, k ≠ s.cur → (s.noteCv c).hart k = s.hart k := fun k hk =>
      State.hart_other (s.noteCv_cur c) (s.noteCv_harts c) hk
    simp only [State.noteCv_h_gang, State.clNo_noteCv, State.gangOf_noteCv, State.noteCv_cur] at hwait hlast
    refine ⟨?_, ⟨hwait, fun h => ?_⟩, fun l => (hm.byteAt l).trans (s.byteAt_noteCv c l)⟩
    · have hh := hm.h
      unfold Hart.Regrouped at hh
      rw [hh, State.adv_h_pc, State.noteCv_h_pc]
    · obtain ⟨hpark, hgang, hothers⟩ := hlast h
      rw [hgang]
      refine ⟨hpark, rfl, rfl, rfl, fun k hk => ?_⟩
      have hp := hothers k hk
      rw [State.WaitsInBarrier, hwaits k hk] at hp
      split
      · next h => exact hp.1 h
      · next h => exact hp.2 h

end Sys2Proof.Machine
end

section
/-!
PROOFS. HWAIT and YIELD (R22, R24).
-/

namespace Sys2Proof.Machine

/-! ## HWAIT -/

/-- The hart that HWAIT waits for is found by the same two fields of its id in a word (R21, R24). -/
theorem State.waitOver_iff (s : State) (cl : Nat) (v : Word) : s.waitOver cl (v.extractLsb' 0 20) = true ↔
    (s.hart (16 * cl + (v.extractLsb' 0 4).toNat)).life = .free ∨
      (s.hart (16 * cl + (v.extractLsb' 0 4).toNat)).hgen ≠ v.extractLsb' 4 16 := by
  have h0 : (v.extractLsb' 0 20).extractLsb' 0 4 = v.extractLsb' 0 4 := BitVec.extractLsb'_extractLsb'_of_le (by decide)
  have h4 : (v.extractLsb' 0 20).extractLsb' 4 16 = v.extractLsb' 4 16 :=
    BitVec.extractLsb'_extractLsb'_of_le (by decide)
  simp [State.waitOver, h0, h4]

/-- HWAIT goes on where its hart has ended, and else parks past the instruction (R24). -/
theorem exec_hwait {s : State} (hr : s.runnable = true) (c : Bool) (a : BitVec 6) : exec (.hwait c a) s =
    if s.waitOver s.clNo ((s.rd a).extractLsb' 0 20) then .next (s.goes c (s.h.pc + 4))
    else .next ((s.goes c (s.h.pc + 4)).mod fun h => { h with park := some (.hwait ((s.rd a).setWidth 20)) }) := by
  have hfields : ∀ k, ((s.noteCv c).hart k).life = (s.hart k).life ∧ ((s.noteCv c).hart k).hgen = (s.hart k).hgen :=
    fun k => by
      rw [State.noteCv_eq]
      exact ⟨State.hart_mod Hart.life rfl k, State.hart_mod Hart.hgen rfl k⟩
  have hover : ∀ hid, (s.noteCv c).waitOver s.clNo hid = s.waitOver s.clNo hid := fun hid => by
    simp only [State.waitOver, hfields]
  change execHwait c a s = _
  rw [execHwait, onHart_of hr, State.rd_noteCv, State.clNo_noteCv, BitVec.setWidth_eq_extractLsb' (by decide)]
  dsimp only
  rw [hover, State.parkIn, ← State.adv_noteCv]
  rfl

/-! ## YIELD -/

/-- A change of the current registers that leaves the hart's seat leaves every context's. -/
theorem State.sameGrant_mod {s : State} {f : Hart → Hart} (hf : s.h.SameGrant (f s.h)) (k : Nat) :
    (s.hart k).SameGrant ((s.mod f).hart k) :=
  ⟨State.hart_mod Hart.life hf.life k, State.hart_mod Hart.slot hf.slot k, State.hart_mod Hart.gang hf.gang k,
    State.hart_mod Hart.lg hf.lg k, State.hart_mod Hart.granted hf.granted k⟩

/-- The slot a hart takes rests on the seats of the cluster's harts, its width and its lanes under repair (R298). -/
theorem State.freeSlot_congr {s t : State} {cl : Nat} (hpw : (t.clu cl).pw = (s.clu cl).pw)
    (hcopy : (t.clu cl).copying = (s.clu cl).copying) (hcyc : t.cycles = s.cycles)
    (hseat : ∀ k, (s.hart k).SameGrant (t.hart k)) (k : Nat) : t.freeSlot cl k = s.freeSlot cl k := by
  simp only [State.freeSlot, State.width, State.actives, State.groupsNeeded, State.openGroups, State.underRepair, hpw,
    hcopy, hcyc, (hseat _).life, (hseat _).slot, (hseat _).lg, (hseat _).granted]
  rfl

theorem State.freeSlot_mod {s : State} {f : Hart → Hart} (hf : s.h.SameGrant (f s.h)) (cl k : Nat) :
    (s.mod f).freeSlot cl k = s.freeSlot cl k :=
  State.freeSlot_congr (s := s) (t := s.mod f) rfl rfl rfl (State.sameGrant_mod hf) k

/-- The hart that yields at the tail of its cluster's queue, its slot given up (R24). -/
def State.atTail (s : State) : State :=
  (s.mod fun h => { h with life := .standby }).modClu s.clNo fun c => { c with ready := c.ready ++ [s.cur] }

theorem State.yieldSlot_eq (s : State) :
    s.yieldSlot = if (s.clu s.clNo).ready = [] then s else s.atTail.fillSlots s.clNo 16 := by
  by_cases hq : (s.clu s.clNo).ready = []
  · exact (if_pos (List.isEmpty_iff.2 hq)).trans (if_pos hq).symm
  · exact (if_neg fun h => hq (List.isEmpty_iff.1 h)).trans (if_neg hq).symm

/-- Yielding gives seats and no more (R24). -/
theorem State.roused_yieldSlot (s : State) : s.Roused s.yieldSlot := by
  rw [State.yieldSlot_eq]
  split
  · exact State.Roused.refl s
  · exact ((s.roused_mod (f := fun h => { h with life := .standby }) fun _ => rfl).trans
      (State.roused_ready _ _ _)).trans (State.roused_fillSlots _ _ _)

/-- The head of the queue takes the slot that suffices it, where the hart that yields has given up its own (R24). -/
theorem State.yieldSlot_head {s : State} {k n : Nat} {q : List Nat} (hq : (s.clu s.clNo).ready = k :: q) (hk : k ∉ q)
    (hc : k ≠ s.cur) (hn : (s.mod fun h => { h with life := .standby }).freeSlot s.clNo k = some n) :
    (s.yieldSlot.hart k).life = .active ∧ (s.yieldSlot.hart k).slot = n := by
  have hslot : s.atTail.freeSlot s.clNo k = some n := by
    rw [← hn]
    exact State.freeSlot_congr (State.clu_modClu_field (s := s.mod _) Cluster.pw rfl _)
      (State.clu_modClu_field (s := s.mod _) Cluster.copying rfl _) rfl (fun _ => ⟨rfl, rfl, rfl, rfl, rfl⟩) k
  have hqueue : (s.atTail.clu s.clNo).ready = k :: (q ++ [s.cur]) := by
    rw [State.atTail, State.clu_modClu, if_pos rfl]
    exact congrArg (· ++ [s.cur]) hq
  have hout : k ∉ q ++ [s.cur] := by simp [hk, hc]
  rw [State.yieldSlot_eq, if_neg (by simp [hq]), State.fillSlots_take hqueue hslot,
    (State.hart_fillSlots _ _ _ _).2 (by rwa [State.ready_dequeued]), State.hart_takeSlot, if_pos rfl]
  exact ⟨rfl, rfl⟩

theorem exec_yield {s : State} (hr : s.runnable = true) (c : Bool) :
    exec (.yield c) s = .next (s.goes c (s.h.pc + 4)).yieldSlot := by
  change execYield c s = _
  rw [execYield, onHart_of hr, State.adv_noteCv]

/-- YIELD with a hart waiting: it takes the slot, and the hart that yields goes on past its instruction (R24). -/
theorem yield_gives {s : State} {c : Bool} {k n : Nat} {q : List Nat} (hq : (s.clu s.clNo).ready = k :: q)
    (hk : k ∉ q) (hc : k ≠ s.cur) (hn : (s.mod fun h => { h with life := .standby }).freeSlot s.clNo k = some n) :
    let t := (s.goes c (s.h.pc + 4)).yieldSlot
    (t.hart k).life = .active ∧ (t.hart k).slot = n ∧ t.h.pc = s.h.pc + 4 ∧ t.h.s = s.h.s ∧
      ∀ l, t.byteAt l = s.byteAt l := by
  intro t
  have hfree : ((s.goes c (s.h.pc + 4)).mod fun h => { h with life := .standby }).freeSlot s.clNo k = some n := by
    rw [← hn]
    exact State.freeSlot_mod (s := s.mod fun h => { h with life := .standby })
      (f := fun h => { h with pc := s.h.pc + 4, convoy := convoyAfter c h.convoy }) ⟨rfl, rfl, rfl, rfl, rfl⟩ s.clNo k
  obtain ⟨hlife, hslot⟩ := State.yieldSlot_head (s := s.goes c (s.h.pc + 4)) hq hk hc hfree
  have ht := (s.goes c (s.h.pc + 4)).roused_yieldSlot.regrouped
  have hh := ht.h
  unfold Hart.Regrouped at hh
  exact ⟨hlife, hslot, by rw [hh]; rfl, by rw [hh]; rfl, fun l => (ht.byteAt l).trans (by cases l <;> rfl)⟩

end Sys2Proof.Machine
end

section
/-!
PROOFS. What engine operations leave of the contexts (R75, R76, R82, R368).
-/

namespace Sys2Proof.Machine

/-- Everything the state holds of the contexts. -/
def State.contexts (s : State) : Nat × Hart × Table Hart := (s.cur, s.h, s.harts)

/-- The current context, and the generation of every one (R21). -/
def State.gens (s : State) : Nat × (Nat → BitVec 16) := (s.cur, fun k => (s.hart k).hgen)

theorem State.gens_of_contexts {s t : State} (h : t.contexts = s.contexts) : t.gens = s.gens := by
  obtain ⟨hcur, hh, hharts⟩ : t.cur = s.cur ∧ t.h = s.h ∧ t.harts = s.harts := by simpa [State.contexts] using h
  simp only [State.gens, State.hart, hcur, hh, hharts]

/-- What differs between the contexts of two machines where the current hart has met errors: its machine checks (R368). -/
structure State.Checked (s t : State) : Prop where
  cur : t.cur = s.cur
  hart : t.h = { s.h with checks := t.h.checks }
  harts : t.harts = s.harts

namespace State.Checked

variable {s t u : State}

theorem refl (s : State) : s.Checked s := ⟨rfl, rfl, rfl⟩

theorem trans (a : s.Checked t) (b : t.Checked u) : s.Checked u :=
  ⟨b.cur.trans a.cur, by rw [b.hart, a.hart], b.harts.trans a.harts⟩

theorem of_contexts (h : t.contexts = s.contexts) : s.Checked t := by
  obtain ⟨hcur, hh, hharts⟩ : t.cur = s.cur ∧ t.h = s.h ∧ t.harts = s.harts := by simpa [State.contexts] using h
  exact ⟨hcur, by rw [hh], hharts⟩

end State.Checked

theorem State.contexts_keep (s : State) (l : List Piece) (b : List Byte) : (s.keep l b).contexts = s.contexts := by
  have raw : ∀ (s : State) (l : Loc) (b : List Byte), (s.putRaw l b).contexts = s.contexts := fun s l b => by
    cases l <;> rfl
  have all : ∀ (l : List Piece) (b : List Byte) (s : State), (s.putAll l b).contexts = s.contexts := fun l => by
    induction l with
    | nil => exact fun _ _ => rfl
    | cons p l ih => exact fun b s => (ih _ _).trans (raw s _ _)
  have except : ∀ (skip : List Loc) (l : List (Loc × Byte)) (s : State),
      (s.putExcept skip l).contexts = s.contexts := fun skip l => by
    induction l with
    | nil => exact fun _ => rfl
    | cons p l ih =>
      intro s
      refine (ih _).trans ?_
      split
      · rfl
      · exact raw s _ _
  unfold State.keep
  split
  · exact all l b s
  · refine (except _ _ _).trans ?_
    unfold State.repair
    split <;> rfl

/-- A change of a context that leaves its generation. -/
theorem State.gens_modHart (s : State) (k : Nat) {f : Hart → Hart} (hf : ∀ h : Hart, (f h).hgen = h.hgen) :
    (s.modHart k f).gens = s.gens := by
  simp only [State.gens, State.modHart_cur, Prod.mk.injEq, true_and]
  funext j
  rw [State.hart_modHart, apply_ite Hart.hgen, hf]
  split
  · next h => rw [h]
  · rfl

theorem State.gens_markGone (s : State) (asid : BitVec 14) (i : BitVec 24) : (s.markGone asid i).gens = s.gens := by
  unfold State.markGone
  exact List.foldlRecOn (motive := fun u : State => u.gens = s.gens) _ _ rfl
    fun u hu k _ => (u.gens_modHart k (f := _) (by exact fun _ => rfl)).trans hu

/-! ## Engine operations -/

/-- An operation of an engine leaves a part of the state as it is. -/
def Eng.Leaves {α β : Type} (p : State → β) (m : Eng α) : Prop := ∀ x, p (m.run x).2.s = p x.s

namespace Eng

variable {α β γ : Type} {p : State → β}

theorem leaves_pure (a : α) : Leaves p (pure a : Eng α) := fun _ => rfl

theorem leaves_bind {m : Eng α} {f : α → Eng γ} (hm : Leaves p m) (hf : ∀ a, Leaves p (f a)) : Leaves p (m >>= f) :=
  fun x => (hf _ _).trans (hm x)

theorem leaves_get : Leaves p (get : Eng EngState) := fun _ => rfl

theorem leaves_modify {f : EngState → EngState} (hf : ∀ x, p (f x).s = p x.s) : Leaves p (modify f : Eng Unit) := hf

theorem leaves_forIn (l : List α) {f : α → γ → Eng (ForInStep γ)} (hf : ∀ a b, Leaves p (f a b)) :
    ∀ b, Leaves p (forIn l b f) := by
  induction l with
  | nil => intro b; simpa using leaves_pure b
  | cons a l ih =>
    intro b
    rw [List.forIn_cons]
    exact leaves_bind (hf a b) fun r => match r with
      | .done b => leaves_pure b
      | .yield b => ih b

theorem leaves_forM (l : List α) {f : α → Eng PUnit} (hf : ∀ a, Leaves p (f a)) : Leaves p (l.forM f) := by
  induction l with
  | nil => exact leaves_pure _
  | cons a l ih => exact leaves_bind (hf a) fun _ => ih

theorem leaves_ite {c : Prop} [Decidable c] {m m' : Eng α} (hm : Leaves p m) (hm' : Leaves p m') :
    Leaves p (if c then m else m') := by
  split
  · exact hm
  · exact hm'

/-- What leaves the contexts leaves every generation. -/
theorem Leaves.gens {m : Eng α} (h : Leaves State.contexts m) : Leaves State.gens m :=
  fun x => State.gens_of_contexts (h x)

/-! An operation that only reads leaves every part of the state. -/

theorem leaves_guard (a n : Nat) (w : Want) : Leaves p (guard a n w) :=
  leaves_modify fun x => by dsimp only; split <;> rfl

theorem leaves_read (a n : Nat) : Leaves p (read a n) :=
  leaves_bind (leaves_guard a n _) fun _ => leaves_bind leaves_get fun _ => leaves_pure _

theorem leaves_state : Leaves p state := leaves_bind leaves_get fun _ => leaves_pure _

theorem leaves_entry (a : Nat) : Leaves p (entry a) :=
  leaves_bind (leaves_guard _ _ _) fun _ => leaves_bind leaves_state fun _ => leaves_pure _

theorem leaves_expert (a : Nat) : Leaves p (expert a) :=
  leaves_bind (leaves_guard _ _ _) fun _ => leaves_bind leaves_state fun _ => leaves_pure _

theorem leaves_btable (a : Nat) : Leaves p (btable a) :=
  leaves_bind (leaves_guard _ _ _) fun _ => leaves_bind leaves_state fun _ => leaves_pure _

theorem leaves_pool (n : Nat) : Leaves p (pool n) := by
  refine leaves_bind leaves_get fun x => ?_
  dsimp only
  split
  · exact leaves_pure _
  · exact leaves_bind (leaves_guard _ _ _) fun _ => leaves_pure _

/-! The writes of memory and of the partition leave the contexts. -/

theorem leaves_write (a n v : Nat) : Leaves State.contexts (write a n v) :=
  leaves_bind (leaves_guard a n _) fun _ => leaves_modify fun x => x.s.contexts_keep _ _

theorem leaves_onPart (f : Part → Part) : Leaves State.contexts (onPart f) := leaves_modify fun _ => rfl

theorem leaves_setWord0 (a lo w v : Nat) : Leaves State.contexts (setWord0 a lo w v) :=
  leaves_bind (leaves_read _ _) fun _ => leaves_write _ _ _

theorem leaves_setCounts (a n w : Nat) : Leaves State.contexts (setCounts a n w) := leaves_write _ _ _

theorem leaves_forget (asid : BitVec 14) (i : BitVec 24) : Leaves State.contexts (forget asid i) := leaves_onPart _

theorem leaves_arenaGive (a : Nat) : Leaves State.contexts (arenaGive a) := leaves_onPart _

theorem leaves_watermark (n : Nat) : Leaves State.contexts (watermark n) :=
  leaves_bind (leaves_pool n) fun _ => leaves_onPart _

theorem leaves_setCount (n b v : Nat) : Leaves State.contexts (setCount n b v) := by
  refine leaves_bind (leaves_pool n) fun q => leaves_bind (leaves_read _ _) fun old =>
    leaves_bind (leaves_write _ _ _) fun _ => ?_
  dsimp only
  have rest : Leaves State.contexts (if old ≠ 0 ∧ v = 0 then do write (q.addr + 12) 4 (q.free + 1); watermark n
      else watermark n) :=
    leaves_ite (leaves_bind (leaves_write _ _ _) fun _ => leaves_watermark n) (leaves_watermark n)
  exact leaves_ite (leaves_bind (leaves_write _ _ _) fun _ => rest) rest

theorem leaves_decCount (n b : Nat) : Leaves State.contexts (decCount n b) :=
  leaves_bind (leaves_pool n) fun _ => leaves_bind (leaves_read _ _) fun _ => leaves_setCount _ _ _

theorem leaves_dropTable (t : BTable) : Leaves State.contexts (dropTable t) := by
  refine leaves_bind (leaves_guard _ _ _) fun _ => leaves_forIn _ (fun e _ => leaves_bind leaves_state fun s => ?_) _
  split
  · exact leaves_pure _
  · exact leaves_bind (leaves_decCount _ _) fun _ => leaves_pure _

/-- A hold or a bind count that is added or dropped leaves the contexts: what it leads to may not. -/
theorem leaves_bindCount (sp : Space) (e : Nat) (up : Bool) : Leaves State.contexts (bindCount sp e up) :=
  leaves_bind (leaves_expert _) fun _ => leaves_setWord0 _ _ _ _

theorem leaves_addHold (sp : Space) (i : BitVec 24) (weak : Bool) : Leaves State.contexts (addHold sp i weak) :=
  leaves_bind (leaves_entry _) fun _ => leaves_ite (leaves_setCounts _ _ _) (leaves_setCounts _ _ _)

theorem leaves_subHold (sp : Space) (i : BitVec 24) (weak : Bool) : Leaves State.contexts (subHold sp i weak) :=
  leaves_bind (leaves_entry _) fun _ => leaves_ite (leaves_setCounts _ _ _)
    (leaves_bind (leaves_setCounts _ _ _) fun _ =>
      leaves_ite (leaves_bind leaves_get fun _ => leaves_write _ _ _) (leaves_pure _))

/-- An expert's bind count, where there is an expert, and then what follows. -/
theorem leaves_match_expert (e : Option Nat) {f : Nat → Eng Unit} {m : Eng Unit} (hf : ∀ e, Leaves p (f e))
    (hm : Leaves p m) : Leaves p (match e with | none => m | some e => do f e; m) := by
  cases e with
  | none => exact hm
  | some e => exact leaves_bind (hf e) fun _ => hm

/-- The copies of the slots that HSPAWN makes leave the contexts (R23). -/
theorem leaves_copySlots (l : Table (Option Binding)) : Leaves State.contexts (copySlots l) := by
  refine leaves_forM l fun x => ?_
  split
  · unfold copySlot
    dsimp only
    exact leaves_match_expert _ (fun _ => leaves_bindCount _ _ _) (leaves_ite (leaves_addHold _ _ _) (leaves_pure _))
  · exact leaves_pure _

/-- The destruction of an object leaves every generation: of the contexts it marks slots alone (R76). -/
theorem leaves_destroy (sp : Space) (i : BitVec 24) : Leaves State.gens (destroy sp i) := by
  refine leaves_bind (leaves_entry _) fun x => ?_
  dsimp only
  refine leaves_ite (leaves_bind (leaves_btable _) fun _ => leaves_bind (leaves_dropTable _).gens fun _ =>
    leaves_bind (leaves_arenaGive _).gens fun _ => ?_) ?_
  all_goals
    refine leaves_bind (leaves_guard _ _ _) fun _ => leaves_bind leaves_state fun _ =>
      leaves_bind (leaves_forIn _ (fun _ _ => leaves_bind (leaves_setWord0 _ _ _ _).gens fun _ =>
        leaves_bind (leaves_write _ _ _).gens fun _ => leaves_pure _) _) fun _ =>
      leaves_bind (leaves_setWord0 _ _ _ _).gens fun _ => leaves_bind (leaves_setCounts _ _ _).gens fun _ =>
      leaves_bind (leaves_setWord0 _ _ _ _).gens fun _ => leaves_bind (leaves_forget _ _).gens fun _ => ?_
    exact leaves_modify fun y => y.s.gens_markGone sp.asid i

theorem leaves_settle (sp : Space) (i : BitVec 24) : Leaves State.gens (settle sp i) :=
  leaves_bind (leaves_entry _) fun _ => leaves_ite (leaves_destroy _ _)
    (leaves_ite (leaves_setWord0 _ _ _ _).gens (leaves_pure _))

theorem leaves_dropHold (sp : Space) (i : BitVec 24) (weak : Bool) : Leaves State.gens (dropHold sp i weak) :=
  leaves_bind (leaves_subHold _ _ _).gens fun _ => leaves_settle _ _

theorem leaves_release (b : Binding) : Leaves State.gens (release b) :=
  leaves_match_expert _ (fun _ => (leaves_bindCount _ _ _).gens) (leaves_ite (leaves_dropHold _ _ _) (leaves_pure _))

/-- An operation that no hart issued leaves what its accesses leave. -/
theorem quiet_leaves {m : Eng Unit} (hm : Leaves p m) (s : State) (k : Nat) : p (quiet s k m) = p s := by
  change p (if _ then s else (m.run _).2.s) = p s
  split
  · rfl
  · exact hm _

/-- What an operation has met is noted for the current hart at most (R368). -/
theorem settled_checked (x : EngState) : x.s.Checked (settled x) := by
  have noted : ∀ (u : State) (m : Option Nat) (w : Loc), u.Checked (u.note m w) := fun u m w => by
    unfold State.note
    dsimp only
    split
    · exact State.Checked.refl u
    · exact ⟨rfl, rfl, rfl⟩
  unfold settled
  split
  · exact List.foldlRecOn (motive := fun u => x.s.Checked u) _ _ (State.Checked.refl x.s)
      fun u hu w _ => hu.trans (noted u _ w)
  · exact State.Checked.refl x.s

/-- An operation for the current hart that leaves the contexts adds machine checks to it at most (R368, R370). -/
theorem bpe_checked {m : Eng α} (hm : Leaves State.contexts m) (s : State) : s.Checked (bpe s m).2 := by
  have hs := hm { s := s, p := s.partNo, master := 0x100, denied := none, met := [], forHart := true }
  unfold bpe
  generalize m.run { s := s, p := s.partNo, master := 0x100, denied := none, met := [], forHart := true } = r at hs ⊢
  obtain ⟨a, x⟩ := r
  dsimp only
  split
  · exact (State.Checked.of_contexts hs).trans (settled_checked x)
  · exact ⟨rfl, rfl, rfl⟩

end Eng

end Sys2Proof.Machine
end

section
/-!
PROOFS. The end of a hart: HEXIT (R24), and with it the statement of HEXIT, HWAIT and YIELD.
-/

namespace Sys2Proof.Machine

/-! ## The end of a hart -/

/-- Every context reads alike whichever is the current one. -/
theorem State.hart_switchTo (s : State) (k j : Nat) : (s.switchTo k).hart j = s.hart j := by
  unfold State.switchTo
  split
  · rfl
  · next hk =>
    unfold State.hart
    by_cases hj : j = k
    · subst hj
      simp [hk, Table.get_set, Ne.symm hk]
    · by_cases hc : j = s.cur
      · subst hc
        simp [Table.get_set, hk, hj]
      · simp [hj, hc, Table.get_set, Ne.symm hj, Ne.symm hc]

@[simp] theorem State.switchTo_cur (s : State) (k : Nat) : (s.switchTo k).cur = k := by
  unfold State.switchTo
  split
  · next h => exact h.symm
  · rfl

theorem State.gens_onCtx (s : State) (k : Nat) {f : State → State} (hf : ∀ u : State, (f u).gens = u.gens) :
    (s.onCtx k f).gens = s.gens := by
  have hgen : ∀ j, ((f (s.switchTo k)).hart j).hgen = (s.hart j).hgen := fun j => by
    rw [← s.hart_switchTo k j]
    exact congrFun (congrArg Prod.snd (hf (s.switchTo k))) j
  simp only [State.gens, State.onCtx, State.switchTo_cur, State.hart_switchTo, hgen]

/-- A store changes of the contexts the machine checks of the current one at most (R368). -/
theorem State.gens_store (s : State) (l : List Piece) (b : List Byte) (elem : Nat) :
    (s.store l b elem).gens = s.gens := by
  have hkeep : (s.keep l b).gens = s.gens := State.gens_of_contexts (s.contexts_keep l b)
  unfold State.store
  split
  · next h =>
    rw [show s.putAll l b = s.keep l b by rw [State.keep, h]]
    exact hkeep
  · exact List.foldlRecOn (motive := fun u : State => u.gens = s.gens) _ _ hkeep fun u hu w _ => by
      rw [State.meet, State.mod_eq_modHart, State.gens_modHart _ _ (by exact fun _ => rfl), hu]

theorem State.gens_performStores (s : State) (k : Nat) : (s.performStores k).gens = s.gens := by
  unfold State.performStores State.performWith
  split
  · rfl
  · refine s.gens_onCtx k fun u => ?_
    refine List.foldlRecOn (motive := fun v : State => v.gens = u.gens) _ _ ?_
      fun v hv x _ => (v.gens_store x.runs x.bytes x.elem).trans hv
    rw [State.mod_eq_modHart, State.gens_modHart _ _ (by exact fun _ => rfl)]

theorem State.Regrouped.gens {s t : State} (a : s.Regrouped t) : t.gens = s.gens := by
  have hgen : ∀ k, (t.hart k).hgen = (s.hart k).hgen := fun k => by rw [a.harts k]
  simp only [State.gens, a.cur, hgen]

theorem State.gens_releaseAll (s : State) (k : Nat) : (s.releaseAll k).gens = s.gens := by
  unfold State.releaseAll
  rw [State.gens_modHart _ _ (by exact fun _ => rfl)]
  exact List.foldlRecOn (motive := fun u : State => u.gens = s.gens) _ _ rfl
    fun u hu b _ => (Eng.quiet_leaves (Eng.leaves_release b) u (k / 384)).trans hu

theorem State.gens_discardTokens (s : State) (k : Nat) : (s.discardTokens k).gens = s.gens := by
  unfold State.discardTokens
  exact List.foldlRecOn (motive := fun u : State => u.gens = s.gens) _ _ rfl fun u hu x _ =>
    (Eng.quiet_leaves (Eng.leaves_bind (Eng.leaves_expert _) fun _ => Eng.leaves_dropHold _ _ _) u (k / 384)).trans hu

/-- A context whose hart has let go of all it holds: its stores, its gang, its slots, its tokens and its staging (R24). -/
def State.letGo (s : State) (k : Nat) : State :=
  ((((s.performStores k).leaveGang k).releaseAll k).discardTokens k).releaseStaging k

theorem State.gens_letGo (s : State) (k : Nat) : (s.letGo k).gens = s.gens :=
  calc (s.letGo k).gens
    _ = (((s.performStores k).leaveGang k).releaseAll k).gens := State.gens_discardTokens _ k
    _ = ((s.performStores k).leaveGang k).gens := State.gens_releaseAll _ k
    _ = (s.performStores k).gens := ((s.performStores k).leaveGang_spec k).1.gens
    _ = s.gens := s.gens_performStores k

/-- The end of a hart frees its context, whose generation stays (R21, R24). -/
theorem State.endHart_spec (s : State) (k : Nat) :
    ((s.endHart k).hart k).life = .free ∧ ((s.endHart k).hart k).hgen = (s.hart k).hgen := by
  have hgen : ((s.letGo k).hart k).hgen = (s.hart k).hgen := congrFun (congrArg Prod.snd (s.gens_letGo k)) k
  have hctx : (s.endHart k).hart k = { Hart.reset with
      hgen := ((s.letGo k).hart k).hgen, space := Space.reset ((s.letGo k).part (k / 384)).asidlo } := by
    refine ((State.hart_fillSlots _ _ _ _).2 ?_).trans (((s.letGo k).hart_modHart k k _).trans (if_pos rfl))
    rw [State.clu_modClu, if_pos rfl]
    simp
  rw [hctx]
  exact ⟨rfl, hgen⟩

/-- HEXIT ends the current hart, whose transfers have drained (R24). -/
theorem exec_hexit {s : State} (hr : s.runnable = true) (c : Bool) (hx : s.h.xfers = []) :
    exec (.hexit c) s = .next ((s.noteCv c).endHart s.cur) := by
  change execHexit c s = _
  rw [execHexit, onHart_of hr, State.noteCv_h_xfers, if_neg (by simp [hx]), State.noteCv_cur]

/-- Settles O21: HEXIT by what the end of a hart does, HWAIT by its condition, YIELD by the queue it fills slots from. -/
theorem hartsEndWaitAndYield : Obligations.HartsEndWaitAndYield := by
  refine ⟨fun c s hr hx => ⟨_, exec_hexit hr c hx, rfl, ?_⟩, fun c a s hr => ⟨fun he => ?_, fun he => ?_⟩,
    fun c s hr hq => ?_, fun c s k q n hr hq hk hc hn => ⟨_, exec_yield hr c, yield_gives hq hk hc hn⟩⟩
  · obtain ⟨hlife, hgen⟩ := (s.noteCv c).endHart_spec s.cur
    have hcur : (s.noteCv c).hart s.cur = (s.noteCv c).h := by rw [← State.hart_cur, State.noteCv_cur]
    exact ⟨hlife, by rw [hgen, hcur, State.noteCv_h_hgen]⟩
  · rw [exec_hwait hr, if_pos ((s.waitOver_iff _ _).2 he)]
  · rw [exec_hwait hr, if_neg fun h => he ((s.waitOver_iff _ _).1 h)]
    rfl
  · rw [exec_yield hr, State.yieldSlot_eq, if_pos (by exact hq)]

end Sys2Proof.Machine
end

section
/-!
PROOFS. HSPAWN (R21, R23).
-/

namespace Sys2Proof.Table

variable {α : Type} [DecidableEq α]

/-- A function of every value of a canonical table that keeps the default. -/
theorem get_filterMap (d : α) {g : α → α} (hg : g d = d) (t : Table α) (ht : t.wf d = true) (i : Nat) :
    get d (t.filterMap fun p => if g p.2 = d then none else some (p.1, g p.2)) i = g (get d t i) := by
  have hkeys := ((wf_iff d t).1 ht).2
  clear ht
  induction t with
  | nil => exact hg.symm
  | cons p t ih =>
    obtain ⟨hp, ht⟩ := List.pairwise_cons.1 hkeys
    have hrest := ih ht
    by_cases hi : p.1 = i
    · have habsent : get d t i = d := get_absent d t i fun q hq => by have := hp q hq; omega
      rw [habsent, hg] at hrest
      by_cases hd : g p.2 = d
      · simp [hd, get, hi, hrest]
      · simp [hd, get, hi]
    · by_cases hd : g p.2 = d <;> simp [hd, get, hi, hrest]

end Sys2Proof.Table

namespace Sys2Proof.Machine

/-- The vector registers of a spawned hart are zero at depth 0 under their tags (R23). -/
theorem get_blankAll {v : Table VReg} (hv : v.wf VReg.reset = true) (r : Nat) :
    (blankAll v).get VReg.reset r = { VReg.reset with tag := (v.get VReg.reset r).tag } :=
  Table.get_filterMap VReg.reset (g := VReg.blank) rfl v hv r

/-- The registers that a spawned hart starts with are those R23 gives it, whatever its seat, generation and key. -/
theorem spawned_of {h x : Hart} {target arg : Word} (hx : x = { h.spawned target arg with
      life := x.life, slot := x.slot, since := x.since, lg := x.lg, granted := x.granted, groups := x.groups,
      hgen := x.hgen, key := x.key }) : Spawned h x target arg := by
  rw [hx]
  exact {
    pc := rfl
    s1 := Table.get_set_same 0 [] 1 arg
    zero := fun i hi => Table.get_set_other 0 [] arg (Ne.symm hi)
    level := rfl
    inherits := ⟨rfl, rfl, rfl, rfl, rfl, rfl, rfl, rfl, rfl⟩
    fresh := ⟨rfl, rfl, rfl, rfl, rfl, rfl, rfl, rfl, rfl, rfl, rfl, rfl, rfl, rfl, rfl, rfl⟩
    vectors := rfl
    tags := get_blankAll }

/-! ## Allocation and start -/

theorem State.hart_drawKey (s : State) (k : Nat) :
    (s.drawKey k).hart k = { s.hart k with key := Config.entropy s.seq } :=
  (s.hart_modHart k k fun h => { h with key := Config.entropy s.seq }).trans (if_pos rfl)

/-- A context allocated holds the registers given under the next generation and a drawn key (R21, R290). -/
theorem State.hart_allocate (s : State) (k : Nat) (h : Hart) :
    (s.allocate k h).hart k = { h with hgen := (s.hart k).hgen + 1, key := Config.entropy s.seq } := by
  have hseq : (s.modHart k fun old => { h with hgen := old.hgen + 1 }).seq = s.seq := by
    unfold State.modHart State.setHart
    split <;> rfl
  rw [State.allocate, State.hart_drawKey, hseq, State.hart_modHart, if_pos rfl]

/-- A change of another context leaves the current registers. -/
theorem State.modHart_h_other (s : State) {k : Nat} (hk : k ≠ s.cur) (f : Hart → Hart) : (s.modHart k f).h = s.h := by
  rw [State.modHart_h, if_neg hk]

theorem State.allocate_other (s : State) {k : Nat} (hk : k ≠ s.cur) (h : Hart) :
    (s.allocate k h).cur = s.cur ∧ (s.allocate k h).h = s.h := by
  have hcur : ∀ f, (s.modHart k f).cur = s.cur := s.modHart_cur k
  refine ⟨(State.modHart_cur _ k _).trans (hcur _), ?_⟩
  exact (State.modHart_h_other _ (by rwa [hcur]) _).trans (s.modHart_h_other hk _)

/-- A new hart starts active or standby, in a seat (R23). -/
theorem State.hart_start (s : State) (k : Nat) : (s.hart k).Seated ((s.start k).hart k) ∧
    (((s.start k).hart k).life = .active ∨ ((s.start k).hart k).life = .standby) := by
  unfold State.start
  split
  · rw [State.hart_takeSlot, if_pos rfl]
    exact ⟨rfl, .inl rfl⟩
  · have hctx : ((s.modHart k fun h => { h with life := .standby }).hart k) = { s.hart k with life := .standby } :=
      (s.hart_modHart k k _).trans (if_pos rfl)
    rw [show (State.modClu _ _ _).hart k = { s.hart k with life := .standby } from hctx]
    exact ⟨rfl, .inr rfl⟩

theorem State.start_other (s : State) {k : Nat} (hk : k ≠ s.cur) : (s.start k).cur = s.cur ∧ (s.start k).h = s.h := by
  unfold State.start
  split
  · exact ⟨State.modHart_cur _ _ _, State.modHart_h_other _ hk _⟩
  · exact ⟨State.modHart_cur _ _ _, State.modHart_h_other _ hk _⟩

/-- A hart made in a free context, before s(d) is written: HSPAWN's own part of the machine (R23). -/
def State.withHart (s : State) (k : Nat) (target arg : Word) : State :=
  (s.allocate k (s.h.spawned target arg)).start k

/-- The context allocated holds a new hart, and the parent goes on as it was (R21, R23). -/
theorem State.withHart_spec (s : State) {k : Nat} (hk : k ≠ s.cur) (target arg : Word) :
    let t := s.withHart k target arg
    t.cur = s.cur ∧ t.h = s.h ∧ Spawned s.h (t.hart k) target arg ∧
      ((t.hart k).life = .active ∨ (t.hart k).life = .standby) ∧ (t.hart k).hgen = (s.hart k).hgen + 1 := by
  intro t
  obtain ⟨hacur, hah⟩ := s.allocate_other hk (s.h.spawned target arg)
  obtain ⟨hcur, hh⟩ := (s.allocate k (s.h.spawned target arg)).start_other (by rwa [hacur])
  obtain ⟨hseat, hlife⟩ := (s.allocate k (s.h.spawned target arg)).hart_start k
  rw [State.hart_allocate] at hseat
  have hx : (t.hart k) = _ := hseat
  exact ⟨hcur.trans hacur, hh.trans hah, spawned_of (by rw [hx]), hlife, by rw [hx]⟩

/-! ## HSPAWN -/

@[simp] theorem State.freeCtxs_noteCv (s : State) (c : Bool) : (s.noteCv c).freeCtxs = s.freeCtxs := by
  have hlife : ∀ k, ((s.noteCv c).hart k).life = (s.hart k).life := fun k => by
    rw [State.noteCv_eq]
    exact State.hart_mod Hart.life rfl k
  simp only [State.freeCtxs, State.clNo_noteCv, hlife]

/-- A context that is free is not the one of a hart that is there to issue. -/
theorem State.ne_cur_of_free {s : State} (hr : s.runnable = true) {k : Nat} (hk : k ∈ s.freeCtxs) : k ≠ s.cur := by
  intro h
  have hfree : (s.hart k).life = .free := by simpa using (List.mem_filter.1 hk).2
  rw [h, State.hart_cur, State.life_of_runnable hr] at hfree
  cases hfree

/-- Where a spawned hart starts: four times the signed offset from the instruction (R23). -/
theorem signExtend_shiftLeft_two (o : BitVec 10) : o.signExtend 64 <<< 2 = BitVec.ofInt 64 (4 * o.toInt) := by
  rw [BitVec.shiftLeft_eq_mul_twoPow, Int.mul_comm, BitVec.ofInt_mul]
  rfl

/-- HSPAWN without a free context (R23). -/
theorem exec_hspawn_full (c : Bool) (d a : BitVec 6) (o : BitVec 10) {s : State} (hf : s.freeCtxs = []) :
    ScalarRuns (.hspawn c d a o) s c d (BitVec.allOnes 64) 0 := fun hr => by
  refine ⟨_, ?_, scalarDone_wr s c d (BitVec.allOnes 64)⟩
  change execHspawn c d a o s = _
  rw [execHspawn, onHart_of hr, State.freeCtxs_noteCv, hf]
  rfl

/-- What HSPAWN does in a context once the slots are copied: nothing more where the copies were denied (R23, R350). -/
def State.spawnAfter (k : Nat) (d : BitVec 6) (target arg : Word) : Option Unit × State → State
  | (none, u) => u
  | (some _, u) => (u.withHart k target arg).wr d (((u.withHart k target arg).hidOf k).zeroExtend 64)

theorem State.spawn_eq (s : State) (d : BitVec 6) (target arg : Word) : s.spawn d target arg =
    State.spawnAfter (s.freeCtxs.getD (s.pick s.freeCtxs.length).1 0) d target arg
      (Eng.bpe (s.pick s.freeCtxs.length).2 (copySlots (s.pick s.freeCtxs.length).2.h.slots)) := rfl

/-- With a context to spare, and the copies of the slots not denied, one of the free contexts gets the hart, and s(d) its
id (R23). The copies note what errors they meet. -/
theorem State.spawn_of {s : State} (d : BitVec 6) (target arg : Word) (hf : s.freeCtxs ≠ [])
    (hb : (Eng.bpe (s.pick s.freeCtxs.length).2 (copySlots s.h.slots)).1.isSome = true) :
    ∃ u k, s.Checked u ∧ k ∈ s.freeCtxs ∧ s.spawn d target arg =
      (u.withHart k target arg).wr d (((u.withHart k target arg).hidOf k).zeroExtend 64) := by
  have hn : (s.pick s.freeCtxs.length).1 < s.freeCtxs.length := pick_lt (List.length_pos_iff.2 hf)
  have hpick : s.Checked (s.pick s.freeCtxs.length).2 := by
    unfold State.pick
    split <;> exact ⟨rfl, rfl, rfl⟩
  have hslots : (s.pick s.freeCtxs.length).2.h.slots = s.h.slots := by rw [hpick.hart]
  have hcopy := hpick.trans (Eng.bpe_checked (Eng.leaves_copySlots s.h.slots) (s.pick s.freeCtxs.length).2)
  refine ⟨_, s.freeCtxs[(s.pick s.freeCtxs.length).1], hcopy, List.getElem_mem hn, ?_⟩
  obtain ⟨x, hx⟩ := Option.isSome_iff_exists.1 hb
  have hbpe := Prod.ext (x := Eng.bpe (s.pick s.freeCtxs.length).2 (copySlots s.h.slots)) (y := (some x, _)) hx rfl
  rw [State.spawn_eq, List.getD_eq_getElem?_getD, List.getElem?_eq_getElem hn, Option.getD_some, hslots, hbpe]
  rfl

theorem exec_hspawn {s : State} (hr : s.runnable = true) (c : Bool) (d a : BitVec 6) (o : BitVec 10)
    (hf : s.freeCtxs ≠ []) : exec (.hspawn c d a o) s =
      .next ((s.noteCv c).spawn d (s.h.pc + BitVec.ofInt 64 (4 * o.toInt)) (s.rd a)).adv := by
  change execHspawn c d a o s = _
  rw [execHspawn, onHart_of hr, State.freeCtxs_noteCv, if_neg (by simpa using hf), State.noteCv_h_pc, State.rd_noteCv,
    signExtend_shiftLeft_two]

/-- A hart made and its id written to s(d): what HSPAWN has done once the parent has gone on (R21, R23). -/
theorem State.withHart_written (u : State) {k : Nat} (hk : k ≠ u.cur) (d : BitVec 6) (target arg : Word) :
    let t := ((u.withHart k target arg).wr d (((u.withHart k target arg).hidOf k).zeroExtend 64)).adv
    Spawned u.h (t.hart k) target arg ∧ ((t.hart k).life = .active ∨ (t.hart k).life = .standby) ∧
      (t.hart k).hgen = (u.hart k).hgen + 1 ∧ t.rd d = (if d = 0 then 0 else (t.hidOf k).zeroExtend 64) ∧
      t.h.pc = u.h.pc + 4 ∧ ∀ r, r ≠ d → t.rd r = u.rd r := by
  intro t
  obtain ⟨hcur, hh, hspawned, hlife, hgen⟩ := u.withHart_spec hk target arg
  have hctx : t.hart k = (u.withHart k target arg).hart k := by
    refine State.hart_other ?_ ?_ (by rwa [hcur]) <;> simp [t]
  have hid : t.hidOf k = (u.withHart k target arg).hidOf k := by rw [State.hidOf, State.hidOf, hctx]
  rw [hctx, hid]
  refine ⟨hspawned, hlife, hgen, ?_, ?_, fun r hr => ?_⟩
  · rw [State.rd_adv, State.rd_wr, if_pos rfl]
  · rw [State.adv_h_pc, State.wr_h_pc, hh]
  · rw [State.rd_adv, State.rd_wr, if_neg hr]
    exact State.rd_congr (by rw [hh]) r

/-- Settles O20: HSPAWN's two outcomes, the second by what the allocator and the copies of the slots leave. -/
theorem spawnMakesAHart : Obligations.SpawnMakesAHart := by
  refine fun c d a o s hr => ⟨fun hf => exec_hspawn_full c d a o hf, fun hf hb => ?_⟩
  obtain ⟨u, k, hu, hk, hspawn⟩ := (s.noteCv c).spawn_of d (s.h.pc + BitVec.ofInt 64 (4 * o.toInt)) (s.rd a)
    (by rwa [State.freeCtxs_noteCv]) (by rwa [State.freeCtxs_noteCv, State.noteCv_h_slots])
  rw [State.freeCtxs_noteCv] at hk
  have hne := State.ne_cur_of_free hr hk
  have hcur : u.cur = s.cur := hu.cur.trans (s.noteCv_cur c)
  have hh : u.h = { s.h with checks := u.h.checks, convoy := u.h.convoy } := by rw [hu.hart, State.noteCv_eq]; rfl
  have hctx : u.hart k = s.hart k := State.hart_other hcur (hu.harts.trans (s.noteCv_harts c)) hne
  obtain ⟨hspawned, hlife, hgen, hd, hpc, hothers⟩ := u.withHart_written (by rwa [hcur]) d
    (s.h.pc + BitVec.ofInt 64 (4 * o.toInt)) (s.rd a)
  refine ⟨_, k, by rw [exec_hspawn hr c d a o hf, hspawn], hk, ?_, hlife, by rw [hgen, hctx], hd, by rw [hpc, hh],
    fun r hr => (hothers r hr).trans (State.rd_congr (by rw [hh]) r)⟩
  rw [hh] at hspawned
  exact { hspawned with }

end Sys2Proof.Machine
end

section
/-!
PROOFS. Numbers: which bits of a register an element and a block's scale take, and what a vector result leaves of them
(R28, R46 to R48, R55).
-/

namespace Sys2Proof.Machine

/-! ## Fields of a number, bit by bit -/

theorem testBit_bits (n lo w k : Nat) : (bits n lo w).testBit k = (decide (k < w) && n.testBit (lo + k)) := by
  rw [bits, Nat.testBit_mod_two_pow, Nat.testBit_shiftRight]

/-- What is above a replaced field, the field, and what is below it. -/
theorem putBits_eq (n lo w v : Nat) :
    putBits n lo w v = 2 ^ lo * (2 ^ w * (n / 2 ^ lo / 2 ^ w) + v % 2 ^ w) + n % 2 ^ lo := by
  have hlow := Nat.div_add_mod n (2 ^ lo)
  have hfield := Nat.div_add_mod (n / 2 ^ lo) (2 ^ w)
  rw [putBits, bits, Nat.shiftRight_eq_div_pow]
  have hn : n = 2 ^ lo * (2 ^ w * (n / 2 ^ lo / 2 ^ w)) + (n / 2 ^ lo % 2 ^ w) * 2 ^ lo + n % 2 ^ lo := by
    rw [Nat.mul_comm _ (2 ^ lo), ← Nat.mul_add, hfield, hlow]
  rw [Nat.mul_add, Nat.mul_comm (v % 2 ^ w)]
  omega

theorem testBit_putBits (n lo w v k : Nat) :
    (putBits n lo w v).testBit k = if lo ≤ k ∧ k < lo + w then v.testBit (k - lo) else n.testBit k := by
  have hlow : n % 2 ^ lo < 2 ^ lo := Nat.mod_lt _ (Nat.two_pow_pos _)
  have hfield : v % 2 ^ w < 2 ^ w := Nat.mod_lt _ (Nat.two_pow_pos _)
  rw [putBits_eq, Nat.testBit_two_pow_mul_add _ hlow, Nat.testBit_two_pow_mul_add _ hfield]
  by_cases h1 : k < lo
  · rw [if_pos h1, if_neg (by omega), Nat.testBit_mod_two_pow, decide_eq_true h1, Bool.true_and]
  · rw [if_neg h1]
    by_cases h2 : k - lo < w
    · rw [if_pos h2, if_pos (by omega), Nat.testBit_mod_two_pow, decide_eq_true h2, Bool.true_and]
    · rw [if_neg h2, if_neg (by omega), Nat.testBit_div_two_pow, Nat.testBit_div_two_pow]
      congr 1
      omega

/-- Bits gathered into a number, the first lowest. -/
theorem testBit_gather {f : Nat → Nat} (hf : ∀ j, f j < 2) (n : Nat) :
    (List.range n).foldl (fun a j => a + f j <<< j) 0 < 2 ^ n ∧
    ∀ k, ((List.range n).foldl (fun a j => a + f j <<< j) 0).testBit k = (decide (k < n) && (f k).testBit 0) := by
  induction n with
  | zero => simp
  | succ n ih =>
    obtain ⟨hlt, hbit⟩ := ih
    have hfn := hf n
    rw [List.range_succ, List.foldl_append, List.foldl_cons, List.foldl_nil, Nat.shiftLeft_eq, Nat.mul_comm (f n),
      Nat.add_comm]
    refine ⟨?_, fun k => ?_⟩
    · have : 2 ^ n * f n ≤ 2 ^ n * 1 := Nat.mul_le_mul_left _ (by omega)
      omega
    · rw [Nat.testBit_two_pow_mul_add _ hlt, hbit]
      rcases Nat.lt_trichotomy k n with h | h | h
      · simp [h, Nat.lt_succ_of_lt h]
      · subst h; simp
      · rw [if_neg (by omega), decide_eq_false (show ¬k < n + 1 by omega), Bool.false_and]
        have hpow : 2 ^ 1 ≤ 2 ^ (k - n) := Nat.pow_le_pow_right (by decide) (by omega)
        exact Nat.testBit_lt_two_pow (Nat.lt_of_lt_of_le hfn hpow)

/-- A bit where none of some single bits is put is as before. -/
theorem testBit_scatter_other {p : Nat → Nat} (v r : Nat) {n k : Nat} (h : ∀ j < n, p j ≠ k) :
    ((List.range n).foldl (fun a j => putBits a (p j) 1 (bits v j 1)) r).testBit k = r.testBit k := by
  induction n with
  | zero => rfl
  | succ n ih =>
    have hn := h n (by omega)
    rw [List.range_succ, List.foldl_append, List.foldl_cons, List.foldl_nil, testBit_putBits, if_neg (by omega),
      ih fun j hj => h j (by omega)]

/-- Each of some single bits put at places of their own. -/
theorem testBit_scatter_same {p : Nat → Nat} (v r : Nat) {n j : Nat} (hp : ∀ j < n, ∀ k < n, p j = p k → j = k)
    (hj : j < n) :
    ((List.range n).foldl (fun a j => putBits a (p j) 1 (bits v j 1)) r).testBit (p j) = v.testBit j := by
  induction n with
  | zero => omega
  | succ n ih =>
    rw [List.range_succ, List.foldl_append, List.foldl_cons, List.foldl_nil, testBit_putBits]
    by_cases h : j = n
    · subst h
      rw [if_pos (by omega), Nat.sub_self, testBit_bits]
      simp
    · have hne : p j ≠ p n := fun e => h (hp j hj n (by omega) e)
      rw [if_neg (by omega), ih (fun a ha b hb => hp a (by omega) b (by omega)) (by omega)]

/-! ## The places of elements and of scales -/

/-- A place within a unit of `n` names the unit and the offset. -/
theorem unit_offset_inj {n a b x y : Nat} (hx : x < n) (hy : y < n) (h : a * n + x = b * n + y) : a = b ∧ x = y := by
  have hdiv := congrArg (· / n) h
  have hmod := congrArg (· % n) h
  have hn : 0 < n := by omega
  simpa [Nat.add_comm _ x, Nat.add_comm _ y, Nat.add_mul_div_right, Nat.add_mul_mod_self_right, hn,
    Nat.div_eq_of_lt, Nat.mod_eq_of_lt, hx, hy] using And.intro hdiv hmod

/-- A bit of a block of `n` slices names the block, the slice and the position (R46, R47). -/
theorem slice_bit_inj {n a b s u x y : Nat} (hs : s < n) (hu : u < n) (hx : x < 64) (hy : y < 64)
    (h : a * (64 * n) + 64 * s + x = b * (64 * n) + 64 * u + y) : a = b ∧ s = u ∧ x = y := by
  have hform : ∀ c v, c * (64 * n) + 64 * v = (c * n + v) * 64 := fun c v => by
    rw [Nat.add_mul, Nat.mul_assoc, Nat.mul_comm n, Nat.mul_comm v]
  rw [hform, hform] at h
  obtain ⟨hslice, hpos⟩ := unit_offset_inj hx hy h
  obtain ⟨hblock, hs'⟩ := unit_offset_inj hs hu hslice
  exact ⟨hblock, hs', hpos⟩

/-- Outside the blocked types elements lie one after another. -/
theorem Ty.bitAt_of_not_blocked {t : Ty} (h : t.blocked = false) (i j : Nat) : t.bitAt i j = i * t.width + j := by
  cases t with
  | int _ _ sliced => cases sliced with
    | true => cases h
    | false => rfl
  | q _ => cases h
  | p8 => rfl
  | fp _ => rfl

theorem Ty.bitAt_sliced (s : Bool) (w i j : Nat) :
    (Ty.int s w true).bitAt i j = i / 64 * (64 * w) + 64 * j + i % 64 := rfl

theorem Ty.bitAt_q (w i j : Nat) :
    (Ty.q w).bitAt i j = i / 64 * (64 * (w + 1)) + 64 * (j + 1) + i % 64 := rfl

/-- No two bits of a register's elements share a place. -/
theorem Ty.bitAt_inj {t : Ty} {i i' j j' : Nat} (hj : j < t.width) (hj' : j' < t.width)
    (h : t.bitAt i j = t.bitAt i' j') : i = i' ∧ j = j' := by
  have hi : i % 64 < 64 := Nat.mod_lt _ (by decide)
  have hi' : i' % 64 < 64 := Nat.mod_lt _ (by decide)
  by_cases hb : t.blocked = false
  · rw [bitAt_of_not_blocked hb, bitAt_of_not_blocked hb] at h
    exact unit_offset_inj hj hj' h
  · cases t with
    | int _ w sliced => cases sliced with
      | false => exact absurd rfl hb
      | true =>
        rw [bitAt_sliced, bitAt_sliced] at h
        obtain ⟨hblock, hslice, hpos⟩ := slice_bit_inj hj hj' hi hi' h
        exact ⟨by omega, hslice⟩
    | q w =>
      rw [bitAt_q, bitAt_q] at h
      obtain ⟨hblock, hslice, hpos⟩ := slice_bit_inj (Nat.succ_lt_succ hj) (Nat.succ_lt_succ hj') hi hi' h
      exact ⟨by omega, by omega⟩
    | p8 => exact absurd rfl hb
    | fp _ => exact absurd rfl hb

/-- No bit of an element lies in a scale word (R47). -/
theorem Ty.bitAt_ne_scale {w i j b x : Nat} (hj : j < w) (hx : x < 64) :
    (Ty.q w).bitAt i j ≠ b * (64 * (w + 1)) + x := fun h => by
  have hi : i % 64 < 64 := Nat.mod_lt _ (by decide)
  rw [bitAt_q, show b * (64 * (w + 1)) + x = b * (64 * (w + 1)) + 64 * 0 + x from rfl] at h
  obtain ⟨-, hslice, -⟩ := slice_bit_inj (Nat.succ_lt_succ hj) (Nat.succ_pos w) hi hx h
  omega

/-! ## One element, and one scale, written and read -/

theorem Ty.testBit_get (t : Ty) (r i k : Nat) :
    (t.get r i).testBit k = (decide (k < t.width) && r.testBit (t.bitAt i k)) := by
  unfold Ty.get
  split
  · have hbit : ∀ j, bits r (t.bitAt i j) 1 < 2 := fun j => Nat.mod_lt _ (by decide)
    rw [(testBit_gather hbit t.width).2, testBit_bits]
    rfl
  · next h => rw [testBit_bits, bitAt_of_not_blocked (by simpa using h)]

/-- Elements read alike from registers whose bits at their places are alike. -/
theorem Ty.get_congr {t : Ty} {r r' i i' : Nat}
    (h : ∀ k < t.width, r'.testBit (t.bitAt i' k) = r.testBit (t.bitAt i k)) : t.get r' i' = t.get r i := by
  refine Nat.eq_of_testBit_eq fun k => ?_
  rw [testBit_get, testBit_get]
  by_cases hk : k < t.width
  · rw [h k hk]
  · simp [hk]

theorem Ty.testBit_set_same {t : Ty} (r i v : Nat) {j : Nat} (hj : j < t.width) :
    (t.set r i v).testBit (t.bitAt i j) = v.testBit j := by
  unfold Ty.set
  split
  · exact testBit_scatter_same v r (fun a ha b hb e => (bitAt_inj ha hb e).2) hj
  · next h =>
    rw [testBit_putBits, bitAt_of_not_blocked (by simpa using h), if_pos (by omega), Nat.add_sub_cancel_left]

theorem Ty.testBit_set_other {t : Ty} (r v : Nat) {i k : Nat} (h : ∀ j < t.width, t.bitAt i j ≠ k) :
    (t.set r i v).testBit k = r.testBit k := by
  unfold Ty.set
  split
  · exact testBit_scatter_other v r h
  · next hb =>
    rw [testBit_putBits, if_neg]
    intro hk
    have hlt : k - i * t.width < t.width := by omega
    refine h _ hlt ?_
    rw [bitAt_of_not_blocked (by simpa using hb)]
    omega

@[simp] theorem Ty.get_set_same (t : Ty) (r i v : Nat) : t.get (t.set r i v) i = v % 2 ^ t.width := by
  refine Nat.eq_of_testBit_eq fun k => ?_
  rw [testBit_get, Nat.testBit_mod_two_pow]
  by_cases hk : k < t.width
  · rw [testBit_set_same r i v hk]
  · simp [hk]

theorem Ty.get_set_other (t : Ty) (r v : Nat) {i k : Nat} (h : i ≠ k) : t.get (t.set r i v) k = t.get r k :=
  get_congr fun _ hj => testBit_set_other r v fun _ hj' e => h (bitAt_inj hj' hj e).1

/-- Writing an element leaves every scale. -/
@[simp] theorem Ty.scaleE_set (w r i v k : Nat) : (Ty.q w).scaleE ((Ty.q w).set r i v) k = (Ty.q w).scaleE r k := by
  refine Nat.eq_of_testBit_eq fun x => ?_
  simp only [scaleE, testBit_bits]
  by_cases hx : x < 8
  · rw [testBit_set_other r v fun j hj => bitAt_ne_scale hj (by omega)]
  · simp [hx]

/-- Writing a scale word leaves every element. -/
@[simp] theorem Ty.get_putScale (w r b v i : Nat) :
    (Ty.q w).get (putBits r (b * (64 * (w + 1))) 64 v) i = (Ty.q w).get r i := by
  refine get_congr fun k hk => ?_
  rw [testBit_putBits, if_neg]
  rintro ⟨hlo, hhi⟩
  obtain ⟨x, hx⟩ := Nat.exists_eq_add_of_le hlo
  exact bitAt_ne_scale hk (by omega) hx

/-- A block's scale once its scale word is written. -/
theorem Ty.scaleE_putScale (w r b v i : Nat) :
    (Ty.q w).scaleE (putBits r (b * (64 * (w + 1))) 64 v) i =
      if i / 64 = b then v % 2 ^ 8 else (Ty.q w).scaleE r i := by
  refine Nat.eq_of_testBit_eq fun x => ?_
  by_cases hi : i / 64 = b
  · rw [if_pos hi, ← hi, scaleE, testBit_bits, testBit_putBits, Nat.testBit_mod_two_pow]
    by_cases hx : x < 8
    · rw [if_pos (by omega), Nat.add_sub_cancel_left]
    · simp [hx]
  · rw [if_neg hi, scaleE, scaleE, testBit_bits, testBit_bits, testBit_putBits]
    by_cases hx : x < 8
    · rw [if_neg]
      rintro ⟨hlo, hhi⟩
      obtain ⟨y, hy⟩ := Nat.exists_eq_add_of_le hlo
      exact hi (unit_offset_inj (by omega) (by omega) hy).1
    · simp [hx]

/-! ## Bits written into several elements -/

theorem get_writeBits_of_not_mem (t : Ty) {r i : Nat} {l : List (Nat × Nat)} (h : i ∉ l.map (·.1)) :
    t.get (writeBits t r l) i = t.get r i := by
  induction l generalizing r with
  | nil => rfl
  | cons x l ih =>
    rw [List.map_cons, List.mem_cons, not_or] at h
    exact (ih h.2).trans (t.get_set_other r x.2 (Ne.symm h.1))

theorem get_writeBits_of_mem (t : Ty) {r : Nat} {l : List (Nat × Nat)} (hl : (l.map (·.1)).Nodup) {x : Nat × Nat}
    (hx : x ∈ l) : t.get (writeBits t r l) x.1 = x.2 % 2 ^ t.width := by
  induction l generalizing r with
  | nil => cases hx
  | cons y l ih =>
    rw [List.map_cons, List.nodup_cons] at hl
    rcases List.mem_cons.1 hx with rfl | hx
    · exact (get_writeBits_of_not_mem t hl.1).trans (t.get_set_same r x.1 x.2)
    · exact ih hl.2 hx

@[simp] theorem scaleE_writeBits (w r i : Nat) (l : List (Nat × Nat)) :
    (Ty.q w).scaleE (writeBits (.q w) r l) i = (Ty.q w).scaleE r i := by
  induction l generalizing r with
  | nil => rfl
  | cons x l ih => exact (ih _).trans (Ty.scaleE_set w r x.1 x.2 i)

/-! ## Answers of a type that is not block-scaled -/

/-- The bits that an answer comes to: a value's fitting, or bits as they are (R55). -/
def Ans.stored (fit : Num → Nat × Flags) : Ans → Nat
  | val v _ => (fit v).1
  | raw b _ => b

/-- Where the type is not block-scaled each answer goes into its own element. -/
theorem writeAns_fst {t : Ty} (ht : t.isQ = false) (rm : RM) (fit : Num → Nat × Flags) (r : Nat)
    (l : List (Nat × Ans)) :
    (writeAns t rm fit r l).1 = writeBits t r (l.map fun x => (x.1, x.2.stored fit)) := by
  rw [writeBits, List.foldl_map]
  cases t with
  | q _ => cases ht
  | _ => exact (List.foldl_hom Prod.fst fun a x => by cases x.2 <;> rfl).symm

/-! ## Answers in blocks -/

/-- The scale that a block gets: its own where an element that is not answered is not zero (R48, step 2). -/
def blockScale (w r b : Nat) (res : List (Nat × Num)) : Int :=
  if ((List.range 64).filter fun j => !res.any fun x => x.1 = j).any fun j => (Ty.q w).get r (64 * b + j) ≠ 0 then
    (bits r (b * (64 * (w + 1))) 8 : Int) - 127
  else chooseScale w (res.map (·.2))

/-- A block is written by its scale word, then its answered elements. -/
theorem writeBlock_fst (w : Nat) (rm : RM) (r b : Nat) (res : List (Nat × Num)) :
    (writeBlock w rm r b res).1 =
      writeBits (.q w) (putBits r (b * (64 * (w + 1))) 64 (blockScale w r b res + 127).toNat)
        (res.map fun x => (64 * b + x.1, (fitK w rm (blockScale w r b res) x.2).1)) := by
  rw [writeBits, List.foldl_map]
  exact (List.foldl_hom Prod.fst fun _ _ => rfl).symm

/-- R48, step 5: an element that is not answered keeps its bits. -/
theorem get_writeBlock (rm : RM) (r : Nat) {w b i : Nat} {res : List (Nat × Num)}
    (h : ∀ x ∈ res, 64 * b + x.1 ≠ i) : (Ty.q w).get (writeBlock w rm r b res).1 i = (Ty.q w).get r i := by
  rw [writeBlock_fst, get_writeBits_of_not_mem, Ty.get_putScale]
  simpa using h

/-- The scale of another block stays. -/
theorem scaleE_writeBlock_other (w : Nat) (rm : RM) (r : Nat) {b i : Nat} (res : List (Nat × Num)) (h : i / 64 ≠ b) :
    (Ty.q w).scaleE (writeBlock w rm r b res).1 i = (Ty.q w).scaleE r i := by
  rw [writeBlock_fst, scaleE_writeBits, Ty.scaleE_putScale, if_neg h]

/-- R48, step 2: a block keeps its scale where an element that is not answered is not zero. -/
theorem scaleE_writeBlock_kept (w : Nat) (rm : RM) (r : Nat) {i : Nat} {res : List (Nat × Num)}
    (h : ∃ j < 64, (∀ x ∈ res, x.1 ≠ j) ∧ (Ty.q w).get r (64 * (i / 64) + j) ≠ 0) :
    (Ty.q w).scaleE (writeBlock w rm r (i / 64) res).1 i = (Ty.q w).scaleE r i := by
  have hkeep : blockScale w r (i / 64) res = ((Ty.q w).scaleE r i : Int) - 127 := by
    refine if_pos ?_
    obtain ⟨j, hj, hidle, hne⟩ := h
    simp only [List.any_eq_true, List.mem_filter, List.mem_range]
    exact ⟨j, ⟨hj, by simpa using hidle⟩, by simpa using hne⟩
  have hbyte : (Ty.q w).scaleE r i < 2 ^ 8 := Nat.mod_lt _ (by decide)
  rw [writeBlock_fst, scaleE_writeBits, Ty.scaleE_putScale, if_pos rfl, hkeep]
  omega

/-- The values that fall in a block, by position. -/
def blockVals (vals : List (Nat × Num)) (b : Nat) : List (Nat × Num) :=
  (vals.filter fun x => x.1 / 64 = b).map fun x => (x.1 % 64, x.2)

/-- Some blocks written one after another with the values that fall in them. -/
def writeBlocks (w : Nat) (rm : RM) (vals : List (Nat × Num)) (r : Nat) (bs : List Nat) : Nat :=
  bs.foldl (fun r b => (writeBlock w rm r b (blockVals vals b)).1) r

/-- With a block-scaled type, the bits' elements are zeroed, the values' blocks are written, then the bits (R48,
log 52). -/
theorem writeAns_q_fst (w : Nat) (rm : RM) (fit : Num → Nat × Flags) (r : Nat) (l : List (Nat × Ans)) :
    (writeAns (.q w) rm fit r l).1 =
      writeBits (.q w) (writeBlocks w rm (valuesOf l) (writeBits (.q w) r ((rawsOf l).map fun x => (x.1, 0)))
        (dedup ((valuesOf l).map fun x => x.1 / 64))) (rawsOf l) :=
  congrArg (writeBits (.q w) · (rawsOf l)) (List.foldl_hom Prod.fst fun _ _ => rfl).symm

/-- An element among a block's values is that of an answer. -/
theorem mem_of_mem_blockVals {vals : List (Nat × Num)} {b : Nat} {x : Nat × Num} (hx : x ∈ blockVals vals b) :
    64 * b + x.1 ∈ vals.map (·.1) := by
  obtain ⟨y, hy, rfl⟩ := List.mem_map.1 hx
  obtain ⟨hmem, hb⟩ := List.mem_filter.1 hy
  have hblock : y.1 / 64 = b := of_decide_eq_true hb
  exact List.mem_map.2 ⟨y, hmem, by simp only; omega⟩

theorem get_writeBlock_blockVals (w : Nat) (rm : RM) (r b : Nat) {vals : List (Nat × Num)} {i : Nat}
    (h : i ∉ vals.map (·.1)) :
    (Ty.q w).get (writeBlock w rm r b (blockVals vals b)).1 i = (Ty.q w).get r i :=
  get_writeBlock rm r fun _ hx e => h (e ▸ mem_of_mem_blockVals hx)

theorem get_writeBlocks (w : Nat) (rm : RM) (r : Nat) (bs : List Nat) {vals : List (Nat × Num)} {i : Nat}
    (h : i ∉ vals.map (·.1)) : (Ty.q w).get (writeBlocks w rm vals r bs) i = (Ty.q w).get r i := by
  induction bs generalizing r with
  | nil => rfl
  | cons b bs ih => exact (ih _).trans (get_writeBlock_blockVals w rm r b h)

/-- Some element of a block is not zero and is not answered. -/
def HoldsIdle (w r b : Nat) (answered : List Nat) : Prop :=
  ∃ j < 64, 64 * b + j ∉ answered ∧ (Ty.q w).get r (64 * b + j) ≠ 0

/-- Of the blocks written, one that holds an idle element keeps its scale; so does a block that is not written. -/
theorem scaleE_writeBlocks (w : Nat) (rm : RM) (r : Nat) (bs : List Nat) {vals : List (Nat × Num)} {i : Nat}
    (h : i / 64 ∈ bs → HoldsIdle w r (i / 64) (vals.map (·.1))) :
    (Ty.q w).scaleE (writeBlocks w rm vals r bs) i = (Ty.q w).scaleE r i := by
  induction bs generalizing r with
  | nil => rfl
  | cons b bs ih =>
    refine (ih _ fun hi => ?_).trans ?_
    · obtain ⟨j, hj, hidle, hne⟩ := h (List.mem_cons_of_mem b hi)
      exact ⟨j, hj, hidle, by rwa [get_writeBlock_blockVals w rm r b hidle]⟩
    · by_cases hb : i / 64 = b
      · subst hb
        obtain ⟨j, hj, hidle, hne⟩ := h List.mem_cons_self
        exact scaleE_writeBlock_kept w rm r ⟨j, hj, fun x hx e => hidle (e ▸ mem_of_mem_blockVals hx), hne⟩
      · exact scaleE_writeBlock_other w rm r _ hb

theorem mem_of_mem_valuesOf {l : List (Nat × Ans)} {i : Nat} (h : i ∈ (valuesOf l).map (·.1)) :
    i ∈ l.map (·.1) := by
  obtain ⟨y, hy, rfl⟩ := List.mem_map.1 h
  obtain ⟨⟨k, a⟩, hx, he⟩ := List.mem_filterMap.1 hy
  cases a with
  | raw _ _ => cases he
  | val v f => cases he; exact List.mem_map_of_mem hx

theorem mem_of_mem_rawsOf {l : List (Nat × Ans)} {i : Nat} (h : i ∈ (rawsOf l).map (·.1)) : i ∈ l.map (·.1) := by
  obtain ⟨y, hy, rfl⟩ := List.mem_map.1 h
  obtain ⟨⟨k, a⟩, hx, he⟩ := List.mem_filterMap.1 hy
  cases a with
  | val _ _ => cases he
  | raw b f => cases he; exact List.mem_map_of_mem hx

theorem mem_of_mem_dedup {α : Type} [DecidableEq α] {l : List α} {x : α} (h : x ∈ dedup l) : x ∈ l := by
  induction l with
  | nil => exact h
  | cons y l ih =>
    unfold dedup at h
    split at h
    · exact List.mem_cons_of_mem y (ih h)
    · exact List.mem_cons.2 ((List.mem_cons.1 h).imp_right ih)

/-- The elements of answers that are bits, zeroed before the blocks are written, are none of the others. -/
theorem get_zeroRaws (w r : Nat) {l : List (Nat × Ans)} {i : Nat} (h : i ∉ l.map (·.1)) :
    (Ty.q w).get (writeBits (.q w) r ((rawsOf l).map fun x => (x.1, 0))) i = (Ty.q w).get r i :=
  get_writeBits_of_not_mem _ fun hi => h (mem_of_mem_rawsOf (by simpa using hi))

/-- R48, step 5: answers in a block-scaled register leave the bits of every other element. -/
theorem get_writeAns_q (w : Nat) (rm : RM) (fit : Num → Nat × Flags) (r : Nat) {l : List (Nat × Ans)} {i : Nat}
    (h : i ∉ l.map (·.1)) : (Ty.q w).get (writeAns (.q w) rm fit r l).1 i = (Ty.q w).get r i := by
  rw [writeAns_q_fst, get_writeBits_of_not_mem _ fun hi => h (mem_of_mem_rawsOf hi),
    get_writeBlocks w rm _ _ fun hi => h (mem_of_mem_valuesOf hi), get_zeroRaws w r h]

/-- Answers leave the scale of a block that none of them lies in, and of one that holds an idle element. -/
theorem scaleE_writeAns_q (w : Nat) (rm : RM) (fit : Num → Nat × Flags) (r : Nat) {l : List (Nat × Ans)} {i : Nat}
    (h : i / 64 ∈ l.map (fun x => x.1 / 64) → HoldsIdle w r (i / 64) (l.map (·.1))) :
    (Ty.q w).scaleE (writeAns (.q w) rm fit r l).1 i = (Ty.q w).scaleE r i := by
  rw [writeAns_q_fst, scaleE_writeBits, scaleE_writeBlocks, scaleE_writeBits]
  intro hi
  obtain ⟨y, hy, hblock⟩ := List.mem_map.1 (mem_of_mem_dedup hi)
  obtain ⟨x, hx, hxy⟩ := List.mem_map.1 (mem_of_mem_valuesOf (List.mem_map_of_mem hy))
  obtain ⟨j, hj, hidle, hne⟩ := h (List.mem_map.2 ⟨x, hx, by simp only [hxy, hblock]⟩)
  exact ⟨j, hj, fun hv => hidle (mem_of_mem_valuesOf hv), by rwa [get_zeroRaws w r hidle]⟩

/-- Settles O24: dense answers by their elements' own places, blocks by the scale word apart from the elements. -/
theorem answersAndBlocks : Obligations.AnswersAndBlocks := by
  refine ⟨fun t rm fit r l ht hl => ?_, fun w rm fit r l _ _ _ => ⟨fun i hi => ?_, fun b hb => ?_⟩⟩
  · have hplaces : (l.map fun x => (x.1, x.2.stored fit)).map (·.1) = l.map (·.1) := by
      rw [List.map_map]; rfl
    rw [writeAns_fst ht]
    refine ⟨fun x hx => ?_, fun i hi => get_writeBits_of_not_mem t (by rwa [hplaces])⟩
    have h := get_writeBits_of_mem t (r := r) (by rwa [hplaces])
      (List.mem_map_of_mem (f := fun x => (x.1, x.2.stored fit)) hx)
    rw [h]
    cases x.2 <;> rfl
  · have hidle : i ∉ l.map (·.1) := fun hmem => by
      obtain ⟨x, hx, rfl⟩ := List.mem_map.1 hmem
      exact hi (List.mem_map_of_mem hx)
    exact ⟨get_writeAns_q w rm fit r hidle, scaleE_writeAns_q w rm fit r fun hmem => absurd hmem hi⟩
  · have hblock : 64 * b / 64 = b := by omega
    refine ⟨scaleE_writeAns_q w rm fit r fun _ => ?_, fun j _ hj => get_writeAns_q w rm fit r hj⟩
    rwa [hblock]

end Sys2Proof.Machine
end

section
/-!
PROOFS. Places and the bytes written there: the bytes of joined and of cut runs, and what a write of runs leaves where
(R108, R120).
-/

namespace Sys2Proof.Machine

/-! ## The bytes of runs -/

@[simp] theorem Loc.add_zero (l : Loc) : l.add 0 = l := by cases l <;> rfl

theorem Loc.add_add (l : Loc) (m n : Nat) : (l.add m).add n = l.add (m + n) := by
  cases l <;> simp [Loc.add, Nat.add_assoc]

@[simp] theorem bytesOf_nil : bytesOf [] = [] := rfl
@[simp] theorem bytesOf_cons (x : Piece) (l : List Piece) :
    bytesOf (x :: l) = (List.range x.2).map x.1.add ++ bytesOf l := rfl

/-- A run's bytes are those of its first part and those from there on. -/
theorem Loc.run_append (l : Loc) (m n : Nat) :
    (List.range (m + n)).map l.add = (List.range m).map l.add ++ (List.range n).map (l.add m).add := by
  rw [List.range_add, List.map_append, List.map_map]
  congr 1
  exact List.map_congr_left fun i _ => (l.add_add m i).symm

/-- Joining runs that follow one another leaves their bytes. -/
@[simp] theorem bytesOf_joinRuns (l : List Piece) : bytesOf (joinRuns l) = bytesOf l := by
  induction l with
  | nil => rfl
  | cons x t ih =>
    obtain ⟨l, n⟩ := x
    rw [bytesOf_cons, ← ih, joinRuns]
    split
    · next l' n' r hj =>
      rw [hj]
      split
      · next hl => rw [bytesOf_cons, bytesOf_cons, Loc.run_append, hl, List.append_assoc]
      · rfl
    · next hj => rw [hj]; rfl

/-- The runs of single bytes. -/
@[simp] theorem bytesOf_singles {α : Type} (l : List α) (f : α → Loc) :
    bytesOf (l.map fun x => (f x, 1)) = l.map f := by
  induction l with
  | nil => rfl
  | cons x l ih => simp [ih]

/-- The bytes of the runs cut out of some runs. -/
theorem bytesOf_subRuns (l : List Piece) (off n : Nat) : bytesOf (subRuns l off n) = ((bytesOf l).drop off).take n := by
  induction l generalizing off n with
  | nil => simp [subRuns]
  | cons x t ih =>
    obtain ⟨l, k⟩ := x
    unfold subRuns
    split
    · next hn => simp [hn]
    split
    · next hk =>
      have gone : ((List.range k).map l.add).drop off = [] := List.drop_eq_nil_of_le (by simpa using hk)
      rw [ih, bytesOf_cons, List.drop_append, gone]
      simp
    · next hk =>
      have cut : (List.range (min n (k - off))).map (l.add off).add = (((List.range k).map l.add).drop off).take n := by
        have parts := l.run_append off (k - off)
        rw [Nat.add_sub_of_le (Nat.le_of_not_le hk)] at parts
        rw [parts, List.drop_left' (by simp only [List.length_map, List.length_range]), ← List.map_take, List.take_range]
      rw [bytesOf_cons, bytesOf_cons, ih, cut, List.drop_append_of_le_length (by simp; omega), List.take_append]
      simp only [List.drop_zero, List.length_drop, List.length_map, List.length_range]
      congr 2
      omega

/-! ## What a write leaves where -/

/-- A place in physical memory or in a scratchpad. -/
def Loc.IsMemory (y : Loc) : Prop := (∃ a, y = .phys a) ∨ ∃ c a, y = .scratch c a

/-- A run's first byte lies in memory where one of its bytes does. -/
theorem Loc.isMemory_of_add {l : Loc} {n : Nat} (h : (l.add n).IsMemory) : l.IsMemory := by
  cases l with
  | phys a => exact .inl ⟨a, rfl⟩
  | scratch c a => exact .inr ⟨c, a, rfl⟩
  | reg => simp [Loc.IsMemory, Loc.add] at h

theorem State.rawRun_eq (s : State) (x : Piece) : s.rawRun x = ((List.range x.2).map x.1.add).map s.byteAt := by
  obtain ⟨l, n⟩ := x
  rw [List.map_map]
  cases l with
  | phys a => exact Table.getRun_eq ..
  | scratch c a => exact Table.getRun_eq ..
  | reg => exact (List.eq_replicate_iff.2 ⟨by simp, by simp [Loc.add, State.byteAt]⟩).symm

/-- The bytes of some runs are the bytes at their places. -/
theorem State.raw_eq (s : State) (l : List Piece) : s.raw l = (bytesOf l).map s.byteAt := by
  induction l with
  | nil => rfl
  | cons x l ih => rw [bytesOf_cons, List.map_append, ← ih, ← State.rawRun_eq]; rfl

theorem State.raw_congr {s t : State} (h : ∀ x, t.byteAt x = s.byteAt x) (l : List Piece) : t.raw l = s.raw l := by
  rw [State.raw_eq, State.raw_eq, List.map_congr_left fun x _ => h x]

/-- A byte outside a run written is as it was. -/
theorem State.byteAt_putRaw_other (s : State) {l x : Loc} {b : List Byte} (h : x ∉ (List.range b.length).map l.add) :
    (s.putRaw l b).byteAt x = s.byteAt x := by
  have outside {a i : Nat} (hi : ∀ j < b.length, a + j ≠ i) : i < a ∨ a + b.length ≤ i := by
    obtain h | h := Nat.lt_or_ge i a
    · exact .inl h
    · exact .inr (Nat.le_of_not_lt fun hlt => hi (i - a) (by omega) (by omega))
  cases l with
  | reg => rfl
  | phys a =>
    cases x with
    | phys i =>
      refine Table.get_putRun_other _ _ _ _ _ (outside fun j hj e => h ?_)
      exact List.mem_map.2 ⟨j, List.mem_range.2 hj, congrArg Loc.phys e⟩
    | scratch => rfl
    | reg => rfl
  | scratch c a =>
    cases x with
    | phys => rfl
    | reg => rfl
    | scratch d i =>
      simp only [State.putRaw, State.byteAt, State.clu_modClu]
      split
      · next hc =>
        subst hc
        refine Table.get_putRun_other _ _ _ _ _ (outside fun j hj e => h ?_)
        exact List.mem_map.2 ⟨j, List.mem_range.2 hj, congrArg (Loc.scratch c) e⟩
      · rfl

/-- A run written in memory holds the bytes written. -/
theorem State.map_byteAt_putRaw (s : State) {l : Loc} (hl : l.IsMemory) (b : List Byte) :
    ((List.range b.length).map l.add).map (s.putRaw l b).byteAt = b := by
  refine List.ext_getElem (by simp) fun i _ hi => ?_
  obtain ⟨a, rfl⟩ | ⟨c, a, rfl⟩ := hl
  · simpa [Loc.add, State.putRaw, State.byteAt] using Table.get_putRun_same _ _ _ _ _ hi
  · simpa [Loc.add, State.putRaw, State.byteAt, State.clu_modClu] using Table.get_putRun_same _ _ _ _ _ hi

/-- A byte outside the runs written is as it was. -/
theorem State.byteAt_putAll_other {l : List Piece} {x : Loc} (h : x ∉ bytesOf l) : ∀ (s : State) (b : List Byte),
    (s.putAll l b).byteAt x = s.byteAt x := by
  induction l with
  | nil => exact fun _ _ => rfl
  | cons y t ih =>
    intro s b
    obtain ⟨l, n⟩ := y
    rw [bytesOf_cons, List.mem_append, not_or] at h
    refine (ih h.2 _ _).trans (s.byteAt_putRaw_other fun hx => h.1 ?_)
    obtain ⟨j, hj, rfl⟩ := List.mem_map.1 hx
    have hj := List.mem_range.1 hj
    exact List.mem_map.2 ⟨j, List.mem_range.2 (by simp at hj; omega), rfl⟩

/-- Runs of memory, no two of whose bytes are one, hold the bytes that are written to them. -/
theorem State.raw_putAll {l : List Piece} (hn : (bytesOf l).Nodup) (hm : ∀ y ∈ bytesOf l, y.IsMemory) :
    ∀ (s : State) {b : List Byte}, b.length = (bytesOf l).length → (s.putAll l b).raw l = b := by
  induction l with
  | nil => exact fun s b hb => (List.length_eq_zero_iff.1 hb).symm
  | cons y t ih =>
    intro s b hb
    obtain ⟨l, n⟩ := y
    rw [bytesOf_cons] at hn hm hb
    obtain ⟨-, hnt, hd⟩ := List.nodup_append.1 hn
    simp only [List.length_append, List.length_map, List.length_range] at hb
    have htake : (b.take n).length = n := by rw [List.length_take]; omega
    have tail := ih hnt (fun y hy => hm y (List.mem_append_right _ hy)) (s.putRaw l (b.take n)) (b := b.drop n)
      (by rw [List.length_drop]; omega)
    have head : ((List.range n).map l.add).map ((s.putRaw l (b.take n)).putAll t (b.drop n)).byteAt = b.take n := by
      rw [List.map_congr_left (g := (s.putRaw l (b.take n)).byteAt) fun x hx =>
        State.byteAt_putAll_other (fun hx' => hd x hx x hx' rfl) _ _]
      obtain rfl | hpos := Nat.eq_zero_or_pos n
      · simp
      · have hl : l.IsMemory := Loc.isMemory_of_add (n := 0)
          (hm _ (List.mem_append_left _ (List.mem_map_of_mem (List.mem_range.2 hpos))))
        simpa only [htake] using s.map_byteAt_putRaw hl (b.take n)
    rw [State.raw_eq, bytesOf_cons, List.map_append, ← State.raw_eq]
    show _ ++ ((s.putRaw l (b.take n)).putAll t (b.drop n)).raw t = b
    rw [tail]
    exact (congrArg (· ++ _) head).trans (List.take_append_drop n b)

/-- Where no word holds an error, a store is a plain write. -/
theorem State.store_of_clean {s : State} (hs : s.bad = []) (l : List Piece) (b : List Byte) (elem : Nat) :
    s.store l b elem = s.putAll l b := by
  simp [State.store, State.badIn, hs]

/-- Where no word holds an error, a write that R368 lets be is a plain write. -/
theorem State.keep_of_clean {s : State} (hs : s.bad = []) (l : List Piece) (b : List Byte) : s.keep l b = s.putAll l b := by
  simp [State.keep, State.badIn, hs]

/-! ## Bytes of a transfer that land -/

/-- Of some bytes with their places, those that `lands` picks lie where they belong, and no other place has changed. -/
structure State.Landed (s t : State) (pool : List ((Nat × Byte) × Loc)) (lands : (Nat × Byte) × Loc → Bool) : Prop where
  others : ∀ x, x ∉ (pool.filter lands).map (·.2) → t.byteAt x = s.byteAt x
  placed : ((pool.filter lands).map (·.2)).Nodup → ∀ y ∈ pool, lands y = true → t.byteAt y.2 = y.1.2

/-- The same of machines whose bytes are alike. -/
theorem State.Landed.congr {s s' t t' : State} {pool lands} (h : s.Landed t pool lands)
    (hs : ∀ x, s.byteAt x = s'.byteAt x) (ht : ∀ x, t'.byteAt x = t.byteAt x) : s'.Landed t' pool lands where
  others x hx := by rw [ht, h.others x hx, hs]
  placed hn y hy hl := by rw [ht, h.placed hn y hy hl]

/-- The bytes held back are those that do not land. -/
theorem State.landBytes_fst (s : State) (pool : List ((Nat × Byte) × Loc)) (lands : (Nat × Byte) × Loc → Bool) :
    (s.landBytes pool lands).1 = (pool.filter fun y => !lands y).map (·.1) := rfl

theorem State.landBytes_snd {s : State} (hs : s.bad = []) (pool : List ((Nat × Byte) × Loc))
    (lands : (Nat × Byte) × Loc → Bool) : (s.landBytes pool lands).2 =
      s.putAll (joinRuns ((pool.filter lands).map fun y => (y.2, 1))) ((pool.filter lands).map fun y => y.1.2) :=
  State.store_of_clean hs _ _ _

theorem State.contexts_landBytes {s : State} (hs : s.bad = []) (pool : List ((Nat × Byte) × Loc))
    (lands : (Nat × Byte) × Loc → Bool) : (s.landBytes pool lands).2.contexts = s.contexts := by
  rw [State.landBytes_snd hs, ← State.keep_of_clean hs, State.contexts_keep]

/-- R108, R120: bytes that can be performed are, where no word of memory holds an error. -/
theorem State.landed_landBytes {s : State} (hs : s.bad = []) {pool : List ((Nat × Byte) × Loc)}
    (lands : (Nat × Byte) × Loc → Bool) (hm : ∀ y ∈ pool, y.2.IsMemory) :
    s.Landed (s.landBytes pool lands).2 pool lands := by
  have places : bytesOf (joinRuns ((pool.filter lands).map fun y => (y.2, 1))) = (pool.filter lands).map (·.2) := by
    rw [bytesOf_joinRuns, bytesOf_singles]
  rw [State.landBytes_snd hs]
  refine ⟨fun x hx => State.byteAt_putAll_other (by rwa [places]) s _, fun hn y hy hl => ?_⟩
  have written := State.raw_putAll (by rwa [places]) (fun z hz => ?_) s
    (b := (pool.filter lands).map fun y => y.1.2) (by rw [places]; simp)
  · rw [State.raw_eq, places, List.map_map] at written
    exact List.map_inj_left.1 written y (List.mem_filter.2 ⟨hy, hl⟩)
  · rw [places] at hz
    obtain ⟨y, hy, rfl⟩ := List.mem_map.1 hz
    exact hm y (List.mem_filter.1 hy).1

end Sys2Proof.Machine
end

section
/-!
PROOFS. Flits and transfers: what sending and receiving leave of the machine, and a transfer that is received, found and
noted (R120, R220, R222, R340, R343).
-/

namespace Sys2Proof.Machine

/-! ## What flits leave -/

/-- Only records of the package differ, as where flits are put on ports. -/
def State.Sends (s t : State) : Prop := t = { s with pkg := t.pkg }

namespace State.Sends

variable {s t u : State}

theorem refl (s : State) : s.Sends s := rfl

theorem trans (a : s.Sends t) (b : t.Sends u) : s.Sends u := by
  unfold State.Sends at *
  rw [b, a]

theorem part (a : s.Sends t) (p : Nat) : t.part p = s.part p := by rw [a]; rfl

theorem byteAt (a : s.Sends t) (x : Loc) : t.byteAt x = s.byteAt x := by
  rw [a]
  exact State.byteAt_congr rfl rfl x

end State.Sends

theorem State.sends_control (s : State) (p : Nat) (x : PeerSlot) (t : FlitType) (tag : BitVec 32) (k : Nat)
    (b : List Byte) : s.Sends (s.control p x t tag k b) := by
  unfold State.control
  split
  · exact .refl s
  · unfold State.transmit
    split
    · rfl
    · rfl

theorem State.sends_returnPermits (s : State) (p : Nat) (ps : PeerSlot) (r : Receive) (k n total : Nat) (flagged : Bool) :
    s.Sends (s.returnPermits p ps r k n total flagged) := by
  refine List.foldlRecOn (motive := s.Sends) _ _ (.refl s) fun u hu j _ => hu.trans ?_
  dsimp only
  split
  · exact u.sends_control ..
  · exact .refl u

/-- R340: a port that takes a flit changes its own records. -/
theorem State.sends_receive {s u : State} {q : Nat} {b : BitVec 2048} {t : FlitType} {f : Flit} {i : Nat} {ps : PeerSlot}
    (a : Arrives s q b t f i ps) (h : s.receive q b t = (some (f, i, ps), u)) : s.Sends u := by
  rw [receive_of_arrives a] at h
  obtain rfl := (Prod.mk.inj h).2
  split
  · rfl
  · rfl

/-! ## Within a partition -/

theorem State.switchTo_clusters (s : State) (k : Nat) : (s.switchTo k).clusters = s.clusters := by
  unfold State.switchTo; split <;> rfl
theorem State.switchTo_mem (s : State) (k : Nat) : (s.switchTo k).mem = s.mem := by
  unfold State.switchTo; split <;> rfl
theorem State.switchTo_parts (s : State) (k : Nat) : (s.switchTo k).parts = s.parts := by
  unfold State.switchTo; split <;> rfl

theorem State.byteAt_switchTo (s : State) (k : Nat) (x : Loc) : (s.switchTo k).byteAt x = s.byteAt x :=
  State.byteAt_congr (s.switchTo_mem k) (s.switchTo_clusters k) x
theorem State.part_switchTo (s : State) (k p : Nat) : (s.switchTo k).part p = s.part p := by
  simp only [State.part, s.switchTo_parts k]

theorem State.byteAt_within (s : State) (p : Nat) (x : Loc) : (s.within p).byteAt x = s.byteAt x := by
  unfold State.within
  split
  · rfl
  · exact s.byteAt_switchTo _ x

theorem State.byteAt_noHart (s : State) (f : State → State) (x : Loc) : (s.noHart f).byteAt x = (f s).byteAt x :=
  State.byteAt_congr rfl rfl x

/-- In the partition of the current context an operation runs where it is. -/
theorem State.atPart_own {s : State} {p : Nat} (h : s.partNo = p) (f : State → State) : s.atPart p f = f s := by
  simp [State.atPart, State.inPart, h]

/-- An operation of a partition runs within it, and then the current context is taken up again. -/
theorem State.atPart_eq (s : State) (p : Nat) (f : State → State) :
    ∃ k, s.atPart p f = (f (s.within p)).switchTo k := by
  by_cases h : s.partNo = p
  · exact ⟨(f s).cur, by simp [State.atPart_own h, State.within, h, State.switchTo]⟩
  · exact ⟨s.cur, by simp [State.atPart, State.inPart, State.within, h]⟩

/-- What a flit's operation, run in its partition by no hart, leaves of bytes and of partitions. -/
theorem State.atPart_noHart (s : State) (p : Nat) (f : State → State) :
    (∀ x, (s.atPart p fun s => s.noHart f).byteAt x = (f (s.within p)).byteAt x) ∧
    ∀ n, (s.atPart p fun s => s.noHart f).part n = (f (s.within p)).part n := by
  obtain ⟨k, h⟩ := s.atPart_eq p fun s => s.noHart f
  rw [h]
  exact ⟨fun x => (State.byteAt_switchTo _ k x).trans (State.byteAt_noHart _ f x),
    fun n => State.part_switchTo _ k n⟩

/-- A flit that is taken acts in its port's partition. -/
theorem State.onFlit_of_receive {s u : State} {q : BitVec 7} {b : BitVec 2048} {t : FlitType} {x : Flit} {i : Nat}
    {ps : PeerSlot} (h : s.receive q.toNat b t = (some (x, i, ps), u))
    (f : Nat → Flit → Nat → PeerSlot → State → State) : s.onFlit q b t f =
      .next (u.atPart (q.toNat / 16) fun s => s.noHart (f (q.toNat / 16) x i ps)) := by
  simp only [State.onFlit, h]

/-! ## A transfer being received -/

theorem State.receipt_names (s : State) (p : Nat) (src : BitVec 16) (tag : BitVec 32) :
    (s.receipt p src tag).src = src ∧ (s.receipt p src tag).tag = tag := by
  unfold State.receipt
  cases h : (s.part p).receives.find? fun r => r.src = src ∧ r.tag = tag with
  | none => exact ⟨rfl, rfl⟩
  | some r => simpa using List.find?_some h

theorem State.byteAt_putReceipt (s : State) (p : Nat) (r : Receive) (x : Loc) :
    (s.putReceipt p r).byteAt x = s.byteAt x := State.byteAt_congr rfl rfl x

theorem State.mem_receives_putReceipt (s : State) (p : Nat) (r : Receive) : r ∈ ((s.putReceipt p r).part p).receives := by
  rw [State.putReceipt, State.part_modPart, if_pos rfl]
  exact List.mem_cons_self

/-- A remote access that is admitted reaches physical memory (R333, R343). -/
theorem State.isMemory_of_remoteRuns {s t : State} {slot : Nat} {asid : BitVec 14} {h : Word} {u : Use} {w : Want}
    {f : State → Entry → List Elem} {l : List Piece} (e : s.remoteRuns slot asid h u w f = (.ok l, t)) :
    ∀ y ∈ bytesOf l, y.IsMemory := by
  intro y hy
  obtain ⟨x, hx, hy⟩ := List.mem_flatMap.1 hy
  obtain ⟨j, -, rfl⟩ := List.mem_map.1 hy
  unfold State.remoteRuns at e
  dsimp only at e
  split at e
  · cases e
  split at e
  · cases e
  split at e
  · cases e
  split at e
  · cases e
  · cases e
  split at e
  · cases e
  split at e
  · cases e
  · next mapped =>
    split at e
    · cases e
    · cases e
      simp only [Bool.not_eq_true, Bool.not_eq_false', List.all_eq_true] at mapped
      have := mapped x hx
      obtain ⟨p, n⟩ := x
      cases p with
      | phys a => exact .inl ⟨a + j, rfl⟩
      | scratch => simp at this
      | reg => simp at this

/-! ## The transfers of a partition -/

theorem State.byteAt_modXfers (s : State) (p : Nat) (which : Xfer → Bool) (f : Xfer → Xfer) (x : Loc) :
    (s.modXfers p which f).byteAt x = s.byteAt x := by
  have fold (g : Hart → Hart) (l : List Nat) : (l.foldl (fun s k => s.modHart k g) s).mem = s.mem ∧
      (l.foldl (fun s k => s.modHart k g) s).clusters = s.clusters :=
    List.foldlRecOn (motive := fun u : State => u.mem = s.mem ∧ u.clusters = s.clusters) l _ ⟨rfl, rfl⟩
      fun u hu k _ => ⟨(u.modHart_mem k g).trans hu.1, (u.modHart_clusters k g).trans hu.2⟩
  exact State.byteAt_congr (fold _ _).1 (fold _ _).2 x

/-- Changes of other contexts leave the current one's registers. -/
theorem State.h_foldl_modHart_other (g : Hart → Hart) {l : List Nat} : ∀ {s : State}, s.cur ∉ l →
    (l.foldl (fun s k => s.modHart k g) s).h = s.h := by
  induction l with
  | nil => exact fun _ => rfl
  | cons k l ih =>
    intro s hs
    rw [List.mem_cons, not_or] at hs
    rw [List.foldl_cons, ih (by rw [State.modHart_cur]; exact hs.2), State.modHart_h_other s (Ne.symm hs.1)]

/-- The live contexts of the current hart's partition: the current one first, and then others. -/
theorem State.liveCtxs_cons {s : State} (h : s.h.life = .active) : ∃ l, s.liveCtxs = s.cur :: l ∧ s.cur ∉ l := by
  refine ⟨_, by rw [State.liveCtxs, h, if_neg (by decide)]; rfl, fun hm => ?_⟩
  have := (List.mem_filter.1 hm).2
  simp at this

/-- The current hart's transfers once those of its partition are changed. -/
theorem State.xfers_modXfers {s : State} {p : Nat} (hp : s.partNo = p) (hl : s.h.life = .active) (which : Xfer → Bool)
    (f : Xfer → Xfer) :
    (s.modXfers p which f).h.xfers = s.h.xfers.map fun x => if which x then f x else x := by
  obtain ⟨l, hctx, hcur⟩ := State.liveCtxs_cons hl
  have hp' : s.cur / 384 = p := hp
  simp only [State.modXfers, hctx, hp', decide_true, List.filter_cons_of_pos, List.foldl_cons]
  rw [State.h_foldl_modHart_other _ (by rw [State.modHart_cur]; exact fun h => hcur (List.mem_filter.1 h).1),
    State.modHart_h, if_pos rfl]

end Sys2Proof.Machine
end

section
/-!
PROOFS. What a data flit and a flag flit do once they are taken, and the end of a transfer (R120, R220, R222, R343).
-/

namespace Sys2Proof.Machine

/-! ## A data flit of a push -/

/-- A transfer being received once one more flit of it has been performed. -/
def Receive.withFlit (r : Receive) (k n : Nat) : Receive := { r with done := r.done ++ [(k, n)] }

/-- The elements of a push's bytes that have come, as its place at the receiver lays them out. -/
def pushElems (pool : List (Nat × Byte)) (place : Side) (s : State) (e : Entry) : List Elem :=
  let all := place.elems (pool.foldl (fun a y => max a (y.1 + 1)) 0) s e
  pool.filterMap fun y => all[y.1]?

/-- R120, R343: a data flit that is admitted, of a push whose flag has not come, is noted with what is held back once its
bytes have landed. -/
theorem State.takeData_of_admitted {v w t : State} {p : Nat} {f : Flit} {r : Receive} {total slot : Nat} {asid : BitVec 14}
    {h : Word} {place : Side} {l : List Piece} {held : List (Nat × Byte)} (hr : v.receipt p f.src f.tag = r)
    (hrefused : r.refused = false) (hflag : r.flag = none) (hnew : (r.done.any fun x => x.1 = f.k) = false)
    (hfits : f.k + f.payload.length ≤ total)
    (hruns : v.remoteRuns slot asid h .copyTo Want.store (pushElems (r.held ++ numbered f.k f.payload) place) = (.ok l, w))
    (hland : w.landBytes ((r.held ++ numbered f.k f.payload).zip (bytesOf l))
      (fun y => pushLands (r.withFlit f.k f.payload.length) total y.1.1 y.2) = (held, t)) (ps : PeerSlot) (flagged : Bool) :
    (t.putReceipt p { r.withFlit f.k f.payload.length with held := held }).Sends
      (v.takeData p slot ps f flagged asid h total place) := by
  obtain ⟨src, tag, done, refused, complete, old, flag⟩ := r
  obtain rfl : refused = false := hrefused
  obtain rfl : flag = none := hflag
  unfold pushElems at hruns
  unfold Receive.withFlit at hland
  simp only [takeData, hr, hnew, Bool.or_self, Bool.false_eq_true, if_false, Nat.not_lt.2 hfits, hruns, hland]
  exact sends_returnPermits ..

/-- R108, R120: the bytes of an admitted flit of a push, and those held back before it, land where they can be performed,
and the transfer's record notes the flit and the bytes that are held back now. -/
theorem State.takeData_lands {v w : State} {p : Nat} {f : Flit} {r : Receive} {total slot : Nat} {asid : BitVec 14}
    {h : Word} {place : Side} {l : List Piece} (hr : v.receipt p f.src f.tag = r)
    (hrefused : r.refused = false) (hflag : r.flag = none) (hnew : (r.done.any fun x => x.1 = f.k) = false)
    (hfits : f.k + f.payload.length ≤ total)
    (hruns : v.remoteRuns slot asid h .copyTo Want.store (pushElems (r.held ++ numbered f.k f.payload) place) = (.ok l, w))
    (hw : w.bad = []) (ps : PeerSlot) (flagged : Bool) :
    let n := f.payload.length
    let pool := (r.held ++ numbered f.k f.payload).zip (bytesOf l)
    let lands (y : (Nat × Byte) × Loc) : Bool := pushLands (r.withFlit f.k n) total y.1.1 y.2
    let t := v.takeData p slot ps f flagged asid h total place
    w.Landed t pool lands ∧ ∃ z ∈ (t.part p).receives, z.src = f.src ∧ z.tag = f.tag ∧ (f.k, n) ∈ z.done ∧
      z.held = (pool.filter fun y => !lands y).map (·.1) := by
  intro n pool lands t
  have hland : w.Landed (w.landBytes pool lands).2 pool lands :=
    landed_landBytes hw lands fun y hy => isMemory_of_remoteRuns hruns _ (List.of_mem_zip hy).2
  have sent := takeData_of_admitted hr hrefused hflag hnew hfits hruns (w.landBytes pool lands).eta.symm ps flagged
  obtain ⟨hsrc, htag⟩ := v.receipt_names p f.src f.tag
  rw [hr] at hsrc htag
  refine ⟨hland.congr (fun _ => rfl) fun x => (sent.byteAt x).trans (byteAt_putReceipt ..),
    { r.withFlit f.k n with held := (w.landBytes pool lands).1 }, ?_, hsrc, htag,
    List.mem_append_right _ (List.mem_singleton_self _), w.landBytes_fst pool lands⟩
  rw [sent.part]
  exact mem_receives_putReceipt ..

/-- All bytes of a push land with its last. -/
theorem State.pushLands_of_last {r : Receive} {total : Nat} (h : (r.done.map (·.2)).sum = total) (n : Nat) (l : Loc) :
    pushLands r total n l = true := by
  simp [pushLands, h]

/-! ## A data flit that answers a read -/

/-- A transfer that waits for a flit: a read of the flit's tag from the flit's sender, which has not had it and is neither
refused nor stopped. -/
def Xfer.awaits (f : Flit) (x : Xfer) : Bool :=
  !x.push && x.tag = f.tag && x.peer = f.src && !(x.got.any fun y => y.1 = f.k) && x.refused.isNone && !x.stale

/-- The current hart's first transfer, where it waits for the flit, is the one that takes it. -/
theorem State.find_awaits {s : State} {p : Nat} {f : Flit} {x : Xfer} (hp : s.partNo = p) (hl : s.h.life = .active)
    (hx : s.h.xfers = [x]) (ha : x.awaits f = true) :
    ((s.liveCtxs.filter fun k => k / 384 = p ∧ s.moves k).flatMap fun k => (s.hart k).xfers).find? (Xfer.awaits f) =
      some x := by
  obtain ⟨l, hctx, -⟩ := liveCtxs_cons hl
  have hmoves : s.cur / 384 = p ∧ s.moves s.cur = true := ⟨hp, by simp [moves, hart_cur, hl]⟩
  rw [hctx, List.filter_cons_of_pos (by simpa using hmoves), List.flatMap_cons, hart_cur, hx, List.singleton_append,
    List.find?_cons_of_pos ha]

theorem State.numbered_cons (k : Nat) (c : Byte) (b : List Byte) : numbered k (c :: b) = (k, c) :: numbered (k + 1) b := by
  simp only [numbered, List.length_cons, List.range_succ_eq_map, List.map_cons, List.map_map, List.zip_cons_cons,
    Nat.add_zero]
  congr 2
  exact List.map_congr_left fun i _ => by simp only [Function.comp]; omega

/-- Numbered bytes each with the place its number names, where numbers name places in a row. -/
theorem State.filterMap_numbered {places : List Loc} {start : Nat} {place : Nat → Option Loc}
    (hplace : ∀ k, start ≤ k → place k = places[k - start]?) (b : List Byte) : ∀ {k : Nat}, start ≤ k →
    (numbered k b).filterMap (fun y => (place y.1).map fun l => (y, l)) =
      (numbered k b).zip ((places.drop (k - start)).take b.length) := by
  induction b with
  | nil => exact fun _ => rfl
  | cons c b ih =>
    intro k hk
    have tail := ih (k := k + 1) (by omega)
    rw [show k + 1 - start = k - start + 1 by omega] at tail
    rw [numbered_cons, List.filterMap_cons, tail, hplace k hk]
    by_cases h : k - start < places.length
    · rw [List.drop_eq_getElem_cons h, List.getElem?_eq_getElem h]
      rfl
    · rw [List.getElem?_eq_none (by omega), List.drop_eq_nil_of_le (by omega), List.drop_eq_nil_of_le (by omega),
        List.take_nil, List.take_nil, List.zip_nil_right, List.zip_nil_right]
      rfl

theorem Xfer.bytesOf_at {x : Xfer} {k : Nat} (hk : x.start ≤ k) (n : Nat) :
    bytesOf (x.at_ k n) = ((bytesOf x.dest).drop (k - x.start)).take n := by
  rw [Xfer.at_, if_neg (by omega), bytesOf_subRuns]

/-- R222: the bytes of a flit that answers a read have the places of the read's bytes from its K on. -/
theorem Xfer.places_eq (x : Xfer) {k : Nat} (hk : x.start ≤ k) (b : List Byte) :
    (State.numbered k b).filterMap (fun y => ((bytesOf (x.at_ y.1 1)).head?).map fun l => (y, l)) =
      (State.numbered k b).zip (bytesOf (x.at_ k b.length)) := by
  rw [bytesOf_at hk]
  exact State.filterMap_numbered (place := fun k => (bytesOf (x.at_ k 1)).head?)
    (fun k hk => by rw [bytesOf_at hk, List.head?_take, if_neg (by decide), List.head?_drop]) b hk

/-- A byte of a read that a flit answers can be performed: with the last byte of all, or with its piece. -/
def Xfer.lands (x : Xfer) (k n : Nat) (y : (Nat × Byte) × Loc) : Bool :=
  x.moved + n = x.total || State.landsAt (fun m => k ≤ m && m < k + n) x.start x.total y.1.1 y.2

/-- R222: the first flit of a read of the current hart is noted by every transfer that waits for it once its bytes have
landed. -/
theorem State.takeReply_of_awaits {s t : State} {p : Nat} {f : Flit} {x : Xfer} {held : List (Nat × Byte)}
    (hp : s.partNo = p) (hl : s.h.life = .active) (hx : s.h.xfers = [x]) (ha : x.awaits f = true) (hgot : x.got = [])
    (hrelay : x.relay = none) (hheld : x.held = []) (hk : x.start ≤ f.k)
    (hland : s.landBytes ((numbered f.k f.payload).zip (bytesOf (x.at_ f.k f.payload.length)))
      (x.lands f.k f.payload.length) = (held, t)) :
    ∃ g, s.takeReply p f = t.modXfers p (Xfer.awaits f) g ∧
      g x = { x with got := [(f.k, f.payload.length)], moved := x.moved + f.payload.length, held := held } := by
  have hfind := find_awaits hp hl hx ha
  unfold Xfer.awaits at hfind
  have hlands : (fun y : (Nat × Byte) × Loc => decide (x.moved + f.payload.length = x.total) ||
      landsAt (fun m => [(f.k, f.payload.length)].any fun z => z.1 ≤ m && m < z.1 + z.2) x.start x.total y.1.1 y.2) =
      x.lands f.k f.payload.length := by
    funext y
    simp [Xfer.lands]
  apply Exists.intro
  constructor
  · simp only [takeReply, hfind, hgot, hheld, hrelay, List.nil_append, Xfer.places_eq x hk, Option.isSome_none,
      Bool.false_eq_true, if_false, hlands, hland]
    rfl
  · simp only [hrelay, Option.isSome_none, Bool.false_eq_true, if_false]

/-- A place among those of a read's bytes from one on is a place of the read. -/
theorem Xfer.mem_dest_of_mem_at {x : Xfer} {k n : Nat} {y : Loc} (h : y ∈ bytesOf (x.at_ k n)) : y ∈ bytesOf x.dest := by
  by_cases hk : k < x.start
  · simp [Xfer.at_, hk] at h
  · rw [bytesOf_at (Nat.le_of_not_lt hk)] at h
    exact List.mem_of_mem_drop (List.mem_of_mem_take h)

/-- R222: the first flit of a read of the current hart lands in the read's destination, and the read notes it with what
is held back. -/
theorem State.takeReply_lands {s : State} {p : Nat} {f : Flit} {x : Xfer} (hs : s.bad = []) (hp : s.partNo = p)
    (hl : s.h.life = .active) (hx : s.h.xfers = [x]) (ha : x.awaits f = true) (hgot : x.got = []) (hrelay : x.relay = none)
    (hheld : x.held = []) (hk : x.start ≤ f.k) (hdest : ∀ y ∈ bytesOf x.dest, y.IsMemory) :
    let n := f.payload.length
    let pool := (numbered f.k f.payload).zip (bytesOf (x.at_ f.k n))
    s.Landed (s.takeReply p f) pool (x.lands f.k n) ∧
    (s.takeReply p f).h.xfers = [{ x with got := [(f.k, n)], moved := x.moved + n,
                                          held := (pool.filter fun y => !x.lands f.k n y).map (·.1) }] := by
  intro n pool
  have hland : s.Landed (s.landBytes pool (x.lands f.k n)).2 pool (x.lands f.k n) :=
    landed_landBytes hs _ fun y hy => hdest _ (Xfer.mem_dest_of_mem_at (List.of_mem_zip hy).2)
  have hctx := contexts_landBytes hs pool (x.lands f.k n)
  have hback := s.landBytes_fst pool (x.lands f.k n)
  generalize e : s.landBytes pool (x.lands f.k n) = landed at hland hctx hback
  obtain ⟨held, t⟩ := landed
  obtain ⟨hcur, hh, -⟩ : t.cur = s.cur ∧ t.h = s.h ∧ t.harts = s.harts := by simpa [contexts] using hctx
  obtain ⟨g, htake, hg⟩ := takeReply_of_awaits hp hl hx ha hgot hrelay hheld hk e
  rw [htake]
  refine ⟨hland.congr (fun _ => rfl) (byteAt_modXfers t p _ g), ?_⟩
  rw [xfers_modXfers (by rw [partNo, hcur]; exact hp) (by rw [hh]; exact hl), hh, hx, List.map_singleton, if_pos ha, hg,
    ← hback]

/-! ## A flag flit -/

/-- R120: a flag flit that comes before the last byte of its push waits in the transfer's record. -/
theorem State.takeFlag_early {v : State} {p : Nat} {f : Flit} {r : Receive} (hr : v.receipt p f.src f.tag = r)
    (hrefused : r.refused = false) (hcomplete : r.complete = false) (hsum : (r.done.map (·.2)).sum ≠ f.k) (slot : Nat)
    (ps : PeerSlot) (asid : BitVec 14) (h off : Word) : v.takeFlag p slot ps f asid h off.toNat =
      v.putReceipt p { r with flag := some (f.k, asid, h, off) } := by
  simp only [takeFlag, hr, hrefused, hcomplete, Bool.or_self, Bool.false_eq_true, if_false, ne_eq, hsum, not_false_eq_true,
    if_true, BitVec.ofNat_toNat, BitVec.setWidth_eq]

/-- R120: a flag flit of a push whose bytes have all been performed, which its object admits, adds one to its counter. -/
theorem State.takeFlag_due {v w : State} {p slot : Nat} {f : Flit} {r : Receive} {asid : BitVec 14} {h off : Word}
    {l : List Piece} (hr : v.receipt p f.src f.tag = r) (hrefused : r.refused = false) (hcomplete : r.complete = false)
    (hsum : (r.done.map (·.2)).sum = f.k)
    (hruns : v.remoteRuns slot asid h .atomic Want.atomic_ (fun _ _ => [{ idx := 0, off := off.toNat, len := 8 }]) =
      (.ok l, w)) (ps : PeerSlot) :
    ((w.store l (leBytes 8 (leNat (w.raw l) + 1)) 0).putReceipt p { r with complete := true, flag := none }).Sends
      (v.takeFlag p slot ps f asid h off.toNat) := by
  simp only [takeFlag, hr, hrefused, hcomplete, Bool.or_self, Bool.false_eq_true, if_false, ne_eq, hsum, not_true,
    flagDue, hruns]
  split
  · exact .refl _
  · exact sends_control ..

/-- R120: so its counter, eight bytes of memory, holds the next number modulo 2^64, and no other byte has changed. -/
theorem State.takeFlag_increments {v w : State} {p slot : Nat} {f : Flit} {r : Receive} {asid : BitVec 14} {h off : Word}
    {l : List Piece} (hr : v.receipt p f.src f.tag = r) (hrefused : r.refused = false) (hcomplete : r.complete = false)
    (hsum : (r.done.map (·.2)).sum = f.k)
    (hruns : v.remoteRuns slot asid h .atomic Want.atomic_ (fun _ _ => [{ idx := 0, off := off.toNat, len := 8 }]) =
      (.ok l, w)) (hw : w.bad = []) (hn : (bytesOf l).Nodup) (hlen : (bytesOf l).length = 8) (ps : PeerSlot) :
    leNat ((v.takeFlag p slot ps f asid h off.toNat).raw l) = (leNat (w.raw l) + 1) % 2 ^ 64 ∧
    ∀ x, x ∉ bytesOf l → (v.takeFlag p slot ps f asid h off.toNat).byteAt x = w.byteAt x := by
  have sent := takeFlag_due hr hrefused hcomplete hsum hruns ps
  rw [store_of_clean hw] at sent
  have same (x : Loc) := (sent.byteAt x).trans (byteAt_putReceipt _ p _ x)
  have written := raw_putAll hn (isMemory_of_remoteRuns hruns) w (b := leBytes 8 (leNat (w.raw l) + 1))
    (by rw [hlen, length_leBytes])
  exact ⟨by rw [raw_congr same, written, leNat_leBytes], fun x hx => (same x).trans (byteAt_putAll_other hx w _)⟩

/-! ## The events -/

/-- R220: a transfer that is done leaves its hart, and nothing else changes. -/
theorem engineTransferComplete_leaves (s : State) (k : BitVec 12) (tag : BitVec 32) :
    ∃ t, exec (.engineTransferComplete k tag) s = .next t ∧
      (∀ x, x ∈ (t.hart k.toNat).xfers ↔
        x ∈ (s.hart k.toNat).xfers ∧ ¬(x.tag = tag ∧ s.xferDone (k.toNat / 384) x = true)) ∧
      (∀ j, j ≠ k.toNat → t.hart j = s.hart j) ∧ t = { s with h := t.h, harts := t.harts } := by
  refine ⟨_, rfl, fun x => ?_, fun j hj => ?_, ?_⟩
  · rw [State.hart_modHart, if_pos rfl, List.mem_filter]
    simp only [Bool.not_eq_true', Bool.and_eq_false_imp, beq_iff_eq, not_and, Bool.not_eq_true]
  · rw [State.hart_modHart, if_neg (Ne.symm hj)]
  · simp only [State.modHart, State.setHart]
    split <;> rfl

/-- A push's place at its receiver, as its flits give it. -/
def pushSide (stream : Bool) (off : Word) (spb : BitVec 256) : Side :=
  { slot := 0, stream := if stream then some (Spb.ofBytes (leBytes 32 spb.toNat)) else none, off := off.toInt }

theorem exec_dataFlit (s : State) (q : BitVec 7) (b : BitVec 2048) (reply flagged : Bool) (asid : BitVec 14) (h : Word)
    (total : Nat) (stream : Bool) (off : Word) (spb : BitVec 256) :
    exec (.dataFlit q b reply flagged asid h total stream off spb) s = s.onFlit q b .data fun p x i ps s =>
      if reply then s.takeReply p x else s.takeData p i ps x flagged asid h total (pushSide stream off spb) := rfl

theorem exec_flagFlit (s : State) (q : BitVec 7) (b : BitVec 2048) (asid : BitVec 14) (h off : Word) :
    exec (.flagFlit q b asid h off) s = s.onFlit q b .flag fun p x i ps s => s.takeFlag p i ps x asid h off.toNat := rfl

section
variable {s u : State} {q : BitVec 7} {b : BitVec 2048} {f : Flit} {i : Nat} {ps : PeerSlot}

/-- A data flit of a push that is taken. -/
theorem exec_dataFlit_push (hu : s.receive q.toNat b .data = (some (f, i, ps), u)) (flagged : Bool) (asid : BitVec 14)
    (h : Word) (total : Nat) (stream : Bool) (off : Word) (spb : BitVec 256) :
    exec (.dataFlit q b false flagged asid h total stream off spb) s =
      .next (u.atPart (q.toNat / 16) fun s => s.noHart fun s =>
        s.takeData (q.toNat / 16) i ps f flagged asid h total (pushSide stream off spb)) := by
  rw [exec_dataFlit, State.onFlit_of_receive hu]
  simp only [Bool.false_eq_true, if_false]

/-- A data flit that answers a read, taken in the partition of the current context. -/
theorem exec_dataFlit_reply (hu : s.receive q.toNat b .data = (some (f, i, ps), u)) (hp : u.partNo = q.toNat / 16)
    (flagged : Bool) (asid : BitVec 14) (h : Word) (total : Nat) (stream : Bool) (off : Word) (spb : BitVec 256) :
    exec (.dataFlit q b true flagged asid h total stream off spb) s =
      .next (u.noHart fun s => s.takeReply (q.toNat / 16) f) := by
  rw [exec_dataFlit, State.onFlit_of_receive hu, State.atPart_own hp]
  simp only [if_true]

/-- A flag flit that is taken. -/
theorem exec_flagFlit_taken (hu : s.receive q.toNat b .flag = (some (f, i, ps), u)) (asid : BitVec 14) (h off : Word) :
    exec (.flagFlit q b asid h off) s =
      .next (u.atPart (q.toNat / 16) fun s => s.noHart fun s => s.takeFlag (q.toNat / 16) i ps f asid h off.toNat) := by
  rw [exec_flagFlit, State.onFlit_of_receive hu]

end

/-- Settles O53: each clause runs its event to the operation on the received transfer, whose bytes land by
`State.landed_landBytes`. -/
theorem transfersArrive : Obligations.TransfersArrive := by
  refine ⟨engineTransferComplete_leaves, ?push, ?reply, ?flag⟩
  case push =>
    intro s q b flagged asid h total stream off spb f i ps u _ hu p v place n r pool hrefused hflag hnew hfits l w hruns hw
      r' ps' lands
    obtain ⟨hland, noted⟩ := State.takeData_lands (r := r) rfl hrefused hflag hnew hfits hruns hw ps flagged
    obtain ⟨bytes, parts⟩ := u.atPart_noHart (q.toNat / 16) fun s =>
      s.takeData (q.toNat / 16) i ps f flagged asid h total (pushSide stream off spb)
    obtain ⟨others, placed⟩ := hland.congr (fun _ => rfl) bytes
    refine ⟨_, exec_dataFlit_push hu .., others, placed, ?_, fun hsum y _ => State.pushLands_of_last ?_ _ _⟩
    · rw [parts]
      exact noted
    · rw [List.map_append, List.sum_append, Nat.add_comm]
      exact hsum
  case reply =>
    intro s q b flagged asid h total stream off spb f i ps u x ha hu hs hp hx hlife hpush hstale htag hpeer hgot hrefused
      hrelay hheld hk hdest _
    have sends := State.sends_receive ha hu
    obtain ⟨hh, hpart, hbad⟩ : u.h = s.h ∧ u.partNo = s.partNo ∧ u.bad = s.bad := by
      rw [sends]
      exact ⟨rfl, rfl, rfl⟩
    rw [← hh] at hx hlife
    rw [← hpart] at hp
    rw [← hbad] at hs
    have hawaits : x.awaits f = true := by simp [Xfer.awaits, hpush, hstale, htag, hpeer, hgot, hrefused]
    obtain ⟨hland, hxfers⟩ := State.takeReply_lands hs hp hlife hx hawaits hgot hrelay hheld hk hdest
    obtain ⟨others, placed⟩ := hland.congr sends.byteAt (u.byteAt_noHart fun s => s.takeReply (q.toNat / 16) f)
    exact ⟨_, exec_dataFlit_reply hu hp .., others, placed, hxfers⟩
  case flag =>
    intro s q b asid h off f i ps u ha hu p v r hrefused hcomplete
    obtain ⟨bytes, parts⟩ := u.atPart_noHart (q.toNat / 16) fun s => s.takeFlag (q.toNat / 16) i ps f asid h off.toNat
    refine ⟨fun hsum => ⟨_, exec_flagFlit_taken hu .., fun x => ?_, ?_⟩, fun hsum l w hruns hw hn hlen => ?_⟩
    · rw [bytes, State.takeFlag_early rfl hrefused hcomplete hsum, State.byteAt_putReceipt, State.byteAt_within,
        (State.sends_receive ha hu).byteAt]
    · rw [parts, State.takeFlag_early rfl hrefused hcomplete hsum]
      exact State.mem_receives_putReceipt ..
    · obtain ⟨counted, others⟩ := State.takeFlag_increments rfl hrefused hcomplete hsum hruns hw hn hlen ps
      exact ⟨_, exec_flagFlit_taken hu .., by rw [State.raw_congr bytes]; exact counted,
        fun x hx => (bytes x).trans (others x hx)⟩

end Sys2Proof.Machine
end
